-- ==== Sys2Proof/Word.lean ====
section
/-! DEFINITION. The word types of the part: bytes, 32-bit words, key sets and station addresses. -/

namespace Sys2Proof

/-- One byte, the unit of both memories and of every payload (R182). -/
abbrev Byte := BitVec 8

/-- A 32-bit word: local times, sequences, stroke and unit numbers, hashes, flag sets. -/
abbrev Word := BitVec 32

/-- A key set: bit p stands for the key at steno position p (R1). -/
abbrev KeySet := BitVec 23

/-- A station address 0..15 from straps ADDR0..ADDR3 (R125). -/
abbrev Station := BitVec 4

end Sys2Proof
end

