-- ==== Sys2Proof/Syntax.lean ====
section
/-! DEFINITION. The commands of the part: one constructor for each row of spec/opcode_table.json, with the data
that reaches the part with it (strap levels, samples of the input lines, device answers, frames as read from the line). -/

namespace Sys2Proof

/-- The five straps as the RESET phase reads them (R170). -/
structure Straps where
  /-- ADDR0..ADDR3, ADDR0 least significant. -/
  addr : Station
  /-- RAMFIT reads high: the serial RAM is fitted. -/
  ramFit : Bool
  deriving DecidableEq, Repr

/-- A frame as the line follower has read it to its last bit (R126, R127). Frames are events at the end of the
frame; `age` says how long before that the start bit stood on the line. -/
structure LineFrame where
  /-- class (3 bits), kind code (4 bits), source address (4 bits), most significant first. -/
  ident : BitVec 11
  /-- broadcast flag, then the destination address. -/
  dest : BitVec 5
  /-- the length byte; above 160 it breaks the frame off and nothing after it is read. -/
  length : Byte
  payload : List Byte
  crc : BitVec 16
  /-- the end field as read; all ones is all recessive. -/
  endBits : BitVec 7
  /-- ms of the local clock between the start bit and the end of the frame. -/
  age : Nat
  deriving DecidableEq, Repr

/-- The commands, in the table's order. Each is one indivisible step of the part. -/
inductive Instr where
  /-- POWER_ON_RESET (R170): power comes up, with the straps and the contents of the two devices at that moment. -/
  | powerOnReset (straps : Straps) (flash ram : List Host.Cell)
  /-- PIN_RESET (R170): the reset pin with power held; both devices keep their contents. -/
  | pinReset (straps : Straps)
  /-- FLASH_RECOVERY_END (R35): a poll answers ready, or (ready = false) the 50 ms limit passes with the device busy. -/
  | flashRecoveryEnd (ready : Bool)
  /-- CONFIG_READ_DONE (R171). -/
  | configReadDone
  /-- DICT_HEADER_READ_DONE (R42): JOB first, then MAIN. -/
  | dictHeaderReadDone
  /-- OVERLAY_HEADER_READ_DONE (R91). -/
  | overlayHeaderReadDone
  /-- RESUME_SCAN_END (R30). -/
  | resumeScanEnd
  /-- SCAN (R2): bit c of the image is set when cell c reads pressed; the MARK sample is true when the line is high. -/
  | scan (image : BitVec 24) (markHigh : Bool)
  /-- FLUSH_TIMER_EXPIRY (R20). -/
  | flushTimerExpiry
  /-- BURST_START (R21). -/
  | burstStart
  /-- FLASH_READ_DONE (R36). -/
  | flashReadDone
  /-- PROGRAM_POLL_RESULT (R37): not busy, with or without the program-error indication. -/
  | programPollResult (error : Bool)
  /-- PROGRAM_TIMEOUT (R37). -/
  | programTimeout
  /-- RECOVERY_END (R37): the device is ready, or (ready = false) the 5 ms pass. -/
  | recoveryEnd (ready : Bool)
  /-- STROKE_EVENT (R51). -/
  | strokeEvent
  /-- TIMER_EVENT (R58). -/
  | timerEvent
  /-- LOOKUP_COMPLETION (R47). -/
  | lookupCompletion
  /-- HOLD_BACK_TIMER_EXPIRY (R112). -/
  | holdBackTimerExpiry
  /-- FRAME_SEND_START (R131). -/
  | frameSendStart
  /-- ARBITRATION_LOST (R132). -/
  | arbitrationLost
  /-- TRANSMIT_ERROR (R133): a mismatch, at the start bit or (where the command does not say) at a later bit (log entry
  35). -/
  | transmitError (startBit : Bool := false)
  /-- FRAME_SENT (R133). -/
  | frameSent
  /-- BUS_STUCK (R134): the line has read dominant for this many ms. -/
  | busStuck (dominantMs : Nat)
  /-- FRAME_DISCARDED (R135): a frame read to its end, or broken off, that no block takes. -/
  | frameDiscarded (frame : LineFrame)
  /-- CLAIM_RECEIVED (R156). -/
  | claimReceived (frame : LineFrame)
  /-- RELIEF_REQ_RECEIVED (R159). -/
  | reliefReqReceived (frame : LineFrame)
  /-- RELIEF_BUSY_RECEIVED (R165). -/
  | reliefBusyReceived (frame : LineFrame)
  /-- PASS_RECEIVED (R163): the PASS names this station. -/
  | passReceived (frame : LineFrame)
  /-- PASS_OTHER_RECEIVED (R164): the PASS names another station. -/
  | passOtherReceived (frame : LineFrame)
  /-- FLOOR_FREE_RECEIVED (R164). -/
  | floorFreeReceived (frame : LineFrame)
  /-- RECORD_RECEIVED (R123). -/
  | recordReceived (frame : LineFrame)
  /-- CLEAR_RECEIVED (R178). -/
  | clearReceived (frame : LineFrame)
  /-- TEXT_RECEIVED (R118). -/
  | textReceived (frame : LineFrame)
  /-- DEFINE_RECEIVED (R99). -/
  | defineReceived (frame : LineFrame)
  /-- PRESENCE_RECEIVED (R142). -/
  | presenceReceived (frame : LineFrame)
  /-- RETRACT_RECEIVED (R136). -/
  | retractReceived (frame : LineFrame)
  /-- REPLACE_RECEIVED (R136). -/
  | replaceReceived (frame : LineFrame)
  /-- SHADOW_RECEIVED (R136). -/
  | shadowReceived (frame : LineFrame)
  /-- PRESENCE_TIMER_EXPIRY (R140). -/
  | presenceTimerExpiry
  /-- VACANCY_TIMER_EXPIRY (R154). -/
  | vacancyTimerExpiry
  /-- CLAIM_WAIT_END (R155). -/
  | claimWaitEnd
  /-- CLAIM_HOLD_OFF_END (R156). -/
  | claimHoldOffEnd
  /-- CLAIM_WINDOW_EXPIRY (R157). -/
  | claimWindowExpiry
  /-- RELIEF_TIMER_EXPIRY (R165). -/
  | reliefTimerExpiry
  /-- YIELD_TIMER_EXPIRY (R160). -/
  | yieldTimerExpiry
  /-- PATTERN_END (R180). -/
  | patternEnd
  /-- BUS_IDLE (R126): 11 consecutive recessive bits. -/
  | busIdle
  deriving DecidableEq, Repr

end Sys2Proof
end

