-- ==== Sys2Proof/Decode.lean ====
section
/-! DEFINITION. The command a word of the opcode table spells. spec/opcode_table.json gives NO row any bits (every
"fields" is empty and no row has "fixed"), so no word spells a command and the answer is none for every word. -/

namespace Sys2Proof

/-- The command that a word of the table's numbering spells: the table gives no row bits. -/
def decodeTableWord (_nbits _w : Nat) : Option Instr := none

end Sys2Proof
end

