-- ==== Sys2Proof/Config.lean ====
section
/-! DEFINITION. What the spec leaves open (free values) and what an implementation fixes. -/

namespace Sys2Proof

/-- FREE VALUE (log entry 3): what the flash device has reached in one byte of a program operation that failed, timed
out or was cut off by a reset. First argument: the serial number of the operation (State's own counter); second: the
device address. It has no body: nothing can be proved of it. R17, R18 and R35 bound its effect: a bit can only go
from 1 to 0, and only where the data bit is 0. -/
opaque Config.programResidue : Nat → Nat → Byte

/-- FREE VALUE (log entry 31): a byte that a requester takes for data at an offset where the memory port has refused
its read; the spec has no rule for the requester there. It has no body: nothing can be proved of it. -/
opaque Config.refusedByte : Nat → Byte

/-- The value an unlisted byte of either device reads as. Flash: erased bytes read 0xFF (R17). RAM: DESIGN CHOICE
(log entry 4), the spec gives RAM no contents at power-on. -/
def Config.unlistedByte : Byte := 0xFF

/-- The size of the flash address space: the default window of R33, 16 MiB. -/
def Config.flashSpace : Nat := 2 ^ 24

/-- The size of the RAM address space: 2 MiB (R172). -/
def Config.ramSpace : Nat := 2 ^ 21

end Sys2Proof
end

