-- ==== Sys2Proof/Machine/State.lean ====
section
/-! DEFINITION. The state of the part, block by block as the Block overview of spec/00_scope.md lists them, and the
state right after reset. Every type is plain data. -/

namespace Sys2Proof.Machine

/-- Bytes of a device by address, in one canonical form: addresses strictly rising, no entry equal to
`Config.unlistedByte`. The operations stand in Machine/Memory.lean. -/
abbrev Memory := List Host.Cell

/-! ### Start-up sequencer (R170 to R176) -/

/-- The start-up phases. RESET is left within the step that enters it (R170). -/
inductive Phase where
  | reset | load | fault | scan | listen | run
  deriving DecidableEq, Repr

/-- The reset kind recorded in RESET (R170). -/
inductive ResetKind where
  | powerOn | pin
  deriving DecidableEq, Repr

/-- Where the work of LOAD stands: what the sequencer is waiting for. -/
inductive LoadStep where
  /-- the flash is RECOVERING (R35) -/
  | recovery
  /-- the configuration block read is in progress (R171) -/
  | config
  /-- the JOB header read is in progress (R42) -/
  | jobHeader
  /-- the MAIN header read is in progress (R42) -/
  | mainHeader
  /-- the overlay header read is in progress (R91) -/
  | overlayHeader
  /-- LOAD is over -/
  | done
  deriving DecidableEq, Repr

/-- The configured quantities after clamping (R172), as R173 hands them to the blocks. -/
structure Settings where
  scanPeriod : Nat
  settle : Nat
  debounce : Nat
  stuckLimit : Nat
  flush : Nat
  nearFull : Nat
  resolve : Nat
  holdBack : Nat
  presence : Nat
  loss : Nat
  vacancy : Nat
  claimWindow : Nat
  activeWindow : Nat
  relief : Nat
  yieldTime : Nat
  autoCut : Bool
  bitRate : Nat
  /-- MiB -/
  flashSize : Nat
  /-- KiB -/
  ramSize : Nat
  /-- log2 of the overlay slot count T -/
  overlayLog2 : Nat
  /-- KiB -/
  overlayHeap : Nat
  overlayProbe : Nat
  /-- the 15 speaker labels, label n at place n - 1 -/
  labels : List (List Byte)
  deriving DecidableEq, Repr

/-- The defaults of R172. Before acceptance no block reads a configured quantity. -/
def Settings.standard : Settings where
  scanPeriod := 1
  settle := 10
  debounce := 2
  stuckLimit := 3
  flush := 20
  nearFull := 12
  resolve := 800
  holdBack := 1500
  presence := 250
  loss := 3
  vacancy := 4
  claimWindow := 50
  activeWindow := 10
  relief := 45
  yieldTime := 20
  autoCut := true
  bitRate := 1
  flashSize := 16
  ramSize := 2048
  overlayLog2 := 10
  overlayHeap := 64
  overlayProbe := 16
  labels := List.replicate 15 []

structure Sequencer where
  phase : Phase
  resetKind : ResetKind
  /-- straps ADDR0..ADDR3 as read in RESET -/
  addr : Station
  /-- strap RAMFIT as read in RESET -/
  ramFit : Bool
  loadStep : LoadStep
  /-- the configuration block was accepted (R173) -/
  accepted : Bool
  /-- expiries of the presence timer since the start of LISTEN (R176) -/
  listenExpiries : Nat
  /-- the local clock (R138) -/
  clock : Word
  deriving DecidableEq, Repr

/-! ### Key scanner and stroke queue (R1 to R15) -/

/-- Debounced state and debounce count of one cell (R4). -/
structure CellState where
  pressed : Bool
  count : Nat
  deriving DecidableEq, Repr

inductive ChordState where
  | idle | chord | drain
  deriving DecidableEq, Repr

structure Scanner where
  /-- key scanning is active (R3) -/
  active : Bool
  /-- MARK sampling is active (R14) -/
  markActive : Bool
  /-- ms to the start of the next scan period -/
  period : Option Nat
  /-- the raw matrix image of the last scan, bit c set when cell c read pressed -/
  image : BitVec 24
  /-- the 24 cells in order -/
  cells : List CellState
  chord : ChordState
  accumulator : KeySet
  chordStart : Option Word
  nextStroke : Option Word
  /-- debounced MARK level, true when high; none until the first sample -/
  markLevel : Option Bool
  markCount : Nat
  /-- a MARK edge debounced before LISTEN, with its time (R15) -/
  heldMark : Option Word
  deriving DecidableEq, Repr

/-- A stroke record (R10). -/
structure StrokeRecord where
  number : Word
  keys : KeySet
  start : Word
  finish : Word
  deriving DecidableEq, Repr

/-- A stroke record in the stroke queue, with its optional overrun count 1..65535 (R12, R13). -/
structure QueuedStroke where
  stroke : StrokeRecord
  overrun : Option Nat
  deriving DecidableEq, Repr

/-! ### Notes writer (R16 to R31) -/

/-- A note record by kind, with the contents R16 gives it. VOID never stands in the FIFO. -/
inductive Note where
  | stroke (number start : Word) (keys : KeySet) (duration : BitVec 16)
  | mark (time : Word)
  | record (on : Bool) (source : Station)
  /-- official sequence 0 stands for absent (R182) -/
  | floor (on : Bool) (official : Word)
  | define (store : Bool) (first : KeySet) (hash : Word) (strokes : Nat) (source : Station)
  | resume (count : Nat) (kind : ResetKind)
  | lost (count : Nat)
  | void
  deriving DecidableEq, Repr

/-- What a burst in flight is doing (R22 to R25). -/
inductive BurstStage where
  | first | overwrite | second
  deriving DecidableEq, Repr

/-- The burst in flight: its records are the `count` oldest of the FIFO. -/
structure Burst where
  stage : BurstStage
  count : Nat
  /-- program operations not yet done, (first slot, slots), the one in flight first (R22) -/
  ops : List (Nat × Nat)
  /-- the slots of the first attempt, for the overwrite: (first slot, slots) -/
  span : Nat × Nat
  deriving DecidableEq, Repr

/-- Where the resume scan stands: the read it waits for, and what the reads before it have fixed (R28, R29). -/
inductive ResumeScan where
  /-- the forward scan reads this slot -/
  | forward (slot : Nat)
  /-- the backward scan for a STROKE record reads the slot below `slot`; the write slot is known -/
  | strokes (slot write : Nat)
  /-- the backward scan for a RESUME record reads the slot below `slot`; the next stroke number is known -/
  | resumes (slot write : Nat) (stroke : Word)
  /-- no read is left; write slot, next stroke number and restart count are known -/
  | over (write : Nat) (stroke : Word) (restart : Nat)
  deriving DecidableEq, Repr

def ResumeScan.isOver : ResumeScan → Bool
  | .over _ _ _ => true
  | _ => false

structure NotesWriter where
  /-- the path has opened (R18) -/
  opened : Bool
  /-- oldest first; the burst's records are at the head -/
  fifo : List Note
  burst : Option Burst
  /-- byte offset in the notes region, a multiple of 16; none until the resume scan gives it -/
  writePos : Option Nat
  /-- ms left of the flush timer -/
  flushTimer : Option Nat
  flushDue : Bool
  lostCount : Nat
  halted : Bool
  full : Bool
  restartCount : Option Nat
  /-- notes handed before the path opened, at most 7 (R18) -/
  heldNotes : List Note
  /-- the resume scan, while SCAN lasts (R28, R29) -/
  resumeScan : Option ResumeScan
  deriving DecidableEq, Repr

/-! ### Memory port (R32 to R41) -/

inductive FlashState where
  | free | reading | programming | recovering
  deriving DecidableEq, Repr

inductive Device where
  | flash | ram
  deriving DecidableEq, Repr

inductive PortOp where
  | flashRead | flashProgram | ramRead | ramWrite
  deriving DecidableEq, Repr

inductive RegionName where
  | default | config | main | job | notes | overlay
  deriving DecidableEq, Repr

/-- One entry of the region table (R33). -/
structure Region where
  name : RegionName
  device : Device
  base : Nat
  size : Nat
  allowed : List PortOp
  deriving DecidableEq, Repr

/-- The region table after either reset: the default window (R33). -/
def defaultRegions : List Region :=
  [⟨.default, .flash, 0, Config.flashSpace, [.flashRead]⟩]

structure MemoryPort where
  flash : FlashState
  /-- ms left of the 50 ms program timer, or of the recovery limit -/
  timer : Option Nat
  /-- the arbiter has granted the flash to a burst that has not started yet (R39) -/
  burstGranted : Bool
  /-- the flash device reported ready at the end of its start-up recovery (R35) -/
  deviceReady : Bool
  regions : List Region
  /-- the contents of the serial NOR flash -/
  flashMem : Memory
  /-- the contents of the serial RAM -/
  ramMem : Memory
  deriving DecidableEq, Repr

/-! ### Lookup unit (R42 to R49) -/

/-- W0 OVERLAY, W1 JOB, W2 MAIN. -/
inductive Window where
  | w0 | w1 | w2
  deriving DecidableEq, Repr

inductive EntryKind where
  | word | wordCont | cont
  deriving DecidableEq, Repr

/-- An enabled window: T, probe limit, and where its slot array and heap lie in its region (R42, R43). -/
structure Geometry where
  slots : Nat
  probe : Nat
  slotBase : Nat
  heapBase : Nat
  heapSize : Nat
  deriving DecidableEq, Repr

structure TextEntry where
  window : Window
  kind : EntryKind
  text : List Byte
  deriving DecidableEq, Repr

/-- A lookup's result, combined over the windows searched so far (R48). -/
structure LookupResult where
  text : Option TextEntry
  cont : Bool
  deriving DecidableEq, Repr

/-- The read that the probe of a window waits for (R44, R45). -/
inductive ProbeRead where
  | slot
  | entry (offset : Nat)
  | text (offset : Nat) (kind : EntryKind)
  deriving DecidableEq, Repr

/-- The probe of one window: current slot, slots visited before it, and the read it waits for. -/
structure Probe where
  slot : Nat
  visited : Nat
  read : ProbeRead
  deriving DecidableEq, Repr

/-- The lookup in flight (R46). `probe` is none when every window has been searched: the result waits for its
completion step. -/
structure Search where
  outline : List KeySet
  hash : Word
  window : Window
  probe : Option Probe
  result : LookupResult
  deriving DecidableEq, Repr

structure LookupUnit where
  w0 : Option Geometry
  w1 : Option Geometry
  w2 : Option Geometry
  /-- none: IDLE; some: SEARCHING -/
  search : Option Search
  /-- a translator request not yet taken (R100) -/
  request : Option (List KeySet)
  deriving DecidableEq, Repr

/-! ### Translator, text assembly, history, capture (R50 to R89, R101 to R107) -/

inductive CapMode where
  | none | capNext | lowerNext
  deriving DecidableEq, Repr

/-- The formatting state (R71). -/
structure Formatting where
  cap : CapMode
  attachNext : Bool
  glueLast : Bool
  speaker : Option Nat
  paragraphStart : Bool
  deriving DecidableEq, Repr

/-- The formatting state after either reset (R71). -/
def Formatting.initial : Formatting := ⟨.capNext, false, false, none, true⟩

/-- What the translator keeps of a stroke it has taken. -/
structure Taken where
  number : Word
  keys : KeySet
  start : Word
  deriving DecidableEq, Repr

/-- One entry of the pending sequence (R52). -/
structure PendingEntry where
  stroke : Taken
  result : LookupResult
  deriving DecidableEq, Repr

/-- What is left to do in the event in flight, innermost first (R51, R56, R58, R61, R63). -/
inductive Work where
  /-- test the stale mark and recompute if it is set -/
  | staleTest
  /-- look the prefix that ends at this place (from 0) up again -/
  | recompute (place : Nat)
  /-- handle the stroke of the event -/
  | stroke (t : Taken)
  /-- re-process these strokes, oldest first -/
  | reprocess (ts : List Taken)
  /-- an overrun marker is met: a capture open now is abandoned (R62) -/
  | markerMet
  /-- forced resolution until the sequence is empty -/
  | force
  /-- deal with an overrun marker: number of its record's stroke, count and start time -/
  | marker (stroke : Word) (count : Nat) (start : Word)
  deriving DecidableEq, Repr

inductive DefineState where
  | normal | outline | text
  deriving DecidableEq, Repr

/-- The buffer state of definition text (R103). -/
structure BufferState where
  cap : CapMode
  attachNext : Bool
  glueLast : Bool
  deriving DecidableEq, Repr

/-- The buffer state when a capture opens (R103). -/
def BufferState.initial : BufferState := ⟨.none, true, false⟩

/-- One piece of the text buffer; its characters include its leading space (R103). -/
structure Piece where
  strokes : List Word
  chars : List Byte
  before : BufferState
  deriving DecidableEq, Repr

/-- Definition capture: define state and the two buffers (R100 to R105). -/
structure Capture where
  state : DefineState
  outline : List Taken
  separator : Option Taken
  pieces : List Piece
  buffer : BufferState
  /-- an overrun marker has been met in this capture: the definition is refused once the sequence is resolved (R62) -/
  abandoned : Bool
  deriving DecidableEq, Repr

def Capture.closed : Capture := ⟨.normal, [], none, [], .initial, false⟩

inductive UnitKind where
  | word | untran | number | gap | format
  deriving DecidableEq, Repr

inductive Stream where
  | official | shadow | pending
  deriving DecidableEq, Repr

/-- A text unit (R84). -/
structure TextUnit where
  number : Word
  kind : UnitKind
  strokes : List Word
  start : Word
  created : Word
  text : List Byte
  spaceBefore : Bool
  paragraph : Bool
  marked : Bool
  offRecord : Bool
  truncated : Bool
  /-- the Gap flag with its count -/
  gap : Option Nat
  speaker : Option Nat
  snapshot : Formatting
  stream : Stream
  released : Bool
  seq : Option Word
  deriving DecidableEq, Repr

structure Translator where
  active : Bool
  /-- the pending sequence, oldest first (R52) -/
  sequence : List PendingEntry
  /-- ms left of the resolve timer -/
  resolveTimer : Option Nat
  stale : Bool
  /-- the event in flight; empty when the translator is idle -/
  work : List Work
  capture : Capture
  formatting : Formatting
  markNext : Bool
  /-- the translation history, oldest first (R85) -/
  history : List TextUnit
  nextUnit : Word
  deriving DecidableEq, Repr

/-! ### Overlay manager (R90 to R100) -/

/-- A peer DEFINE waiting in the definition inbox. -/
structure PeerDefinition where
  source : Station
  outline : List KeySet
  text : List Byte
  deriving DecidableEq, Repr

/-! ### Release unit (R109 to R124) -/

structure ReleaseUnit where
  /-- record state, true for ON -/
  recordOn : Bool
  /-- official sequence known -/
  known : Option Word
  nextShadow : Word
  /-- ms left of the hold-back timer -/
  holdTimer : Option Nat
  /-- release is active (not suspended) -/
  active : Bool
  deriving DecidableEq, Repr

/-! ### Bus controller (R125 to R137) -/

/-- The frame kinds of R129. -/
inductive FrameKind where
  | claim | reliefReq | reliefBusy | pass | floorFree | record | clear | retract | replace | text | shadow
  | define | presence
  deriving DecidableEq, Repr

inductive FloorState where
  | off | claiming | requesting | on | yielding | draining
  deriving DecidableEq, Repr

/-- The payload of TEXT and SHADOW (R116, layout in spec/12). -/
structure TextBody where
  seq : Word
  unit : Word
  start : Word
  spaceBefore : Bool
  paragraph : Bool
  marked : Bool
  offRecord : Bool
  truncated : Bool
  gap : Option Nat
  resumed : Bool
  speaker : Option Nat
  text : List Byte
  deriving DecidableEq, Repr

/-- The payload of PRESENCE (R141); known 0 stands for absent. -/
structure PresenceBody where
  time : Word
  writer : Bool
  floor : FloorState
  recordOn : Bool
  restart : BitVec 16
  known : Word
  flags : Word
  deriving DecidableEq, Repr

/-- What a frame says (payloads of spec/12). Sequence value 0 stands for absent where R182 says so. -/
inductive Msg where
  | claim (known : Word) (held : Bool)
  | reliefReq
  | reliefBusy (notHolder : Bool)
  | pass (target : Station) (known cut : Word)
  | floorFree (known : Word)
  | record (on : Bool)
  | clear (flags : Word)
  | retract (official : Bool) (seq : Word)
  | replace (official : Bool) (seq : Word) (text : List Byte)
  | text (body : TextBody)
  | shadow (body : TextBody)
  /-- the payload as it stands: the overlay manager checks it (R99) -/
  | define (payload : List Byte)
  | presence (body : PresenceBody)
  deriving DecidableEq, Repr

/-- What waits in the transmit queue: a PRESENCE takes its contents at its start bit (R131). -/
inductive TxBody where
  | presence
  | msg (m : Msg)
  deriving DecidableEq, Repr

/-- One frame of the transmit queue; the queue's order is the frames' age (R130). -/
structure TxFrame where
  body : TxBody
  /-- none: broadcast -/
  dest : Option Station
  /-- in flight -/
  sending : Bool
  deriving DecidableEq, Repr

inductive Follower where
  | waitIdle | idle | frame
  deriving DecidableEq, Repr

structure BusController where
  follower : Follower
  /-- consecutive recessive bits counted in WAIT_IDLE -/
  recessive : Nat
  /-- the transmit queue in the order handed, the frame in flight among them -/
  queue : List TxFrame
  /-- the bits of the frame in flight, as fixed at its start bit -/
  inFlight : Option LineFrame
  /-- ms read by the stuck-line timer; 0: stopped -/
  stuckTimer : Nat
  /-- a stuck spell that has set BUS_STUCK is going on -/
  stuckSpell : Bool
  deriving DecidableEq, Repr

/-! ### Peer unit (R138 to R150) -/

inductive PeerKind where
  | writer | display
  deriving DecidableEq, Repr

/-- One record of the peer table (R139). -/
structure Peer where
  present : Bool
  kind : Option PeerKind
  restart : Option (BitVec 16)
  lastHeard : Option Word
  /-- offset estimate in 1/16 ms -/
  offset : Option Int
  floor : Option FloorState
  definitionsEnabled : Bool
  deriving DecidableEq, Repr

/-- A peer record after either reset (R139). -/
def Peer.initial : Peer := ⟨false, none, none, none, none, none, true⟩

structure PeerUnit where
  /-- 16 records, by station address -/
  table : List Peer
  /-- ms left of the presence timer -/
  timer : Option Nat
  deriving DecidableEq, Repr

/-! ### Floor controller (R151 to R169) -/

/-- The floor record (R151). Timers hold the ms left. -/
structure FloorRecord where
  state : FloorState
  holder : Option Station
  partner : Option Station
  cut : Option Word
  lastStroke : Option Word
  withdrawn : Bool
  claimWait : Option Nat
  holdOff : Option Nat
  claimWindow : Option Nat
  reliefTimer : Option Nat
  yieldTimer : Option Nat
  vacancyTimer : Option Nat
  deriving DecidableEq, Repr

/-! ### Status unit (R177 to R181) -/

/-- The status flags in use, positions 0..21. -/
inductive Flag where
  | restarted | configClamped | keyFault | keyStuck | strokeOverrun | noteLost | notesNearFull | notesFull
  | notesFault | notesDamaged | dictBad | overlayFull | defRefused | peerDefBad | txDrop | txError | busStuck
  | addressClash | floorConflict | reliefTimeout | reliefRefused | noOffset
  deriving DecidableEq, Repr

inductive Pattern where
  | untran | floorGained | reliefAsked | fault
  deriving DecidableEq, Repr

structure StatusUnit where
  /-- flag p at bit p -/
  flags : Word
  mask : Word
  /-- FEEDBACK pattern enables, bit 0 UNTRAN to bit 3 FAULT -/
  enables : BitVec 4
  /-- the pattern playing, with the ms left of it, quiet time included -/
  playing : Option (Pattern × Nat)
  waiting : Option Pattern
  deriving DecidableEq, Repr

/-! ### The whole part -/

/-- The state of the part. `pending` and `freeCount` are the MODEL's own fields, not the spec's. -/
structure State where
  /-- the commands that are waiting, first in, first out -/
  pending : List Instr
  /-- the serial number of the next program operation whose outcome is a free value (log entry 3) -/
  freeCount : Nat
  seq : Sequencer
  settings : Settings
  scanner : Scanner
  /-- the stroke queue, oldest first (R12) -/
  strokes : List QueuedStroke
  notes : NotesWriter
  port : MemoryPort
  lookup : LookupUnit
  translator : Translator
  /-- the definition inbox, oldest first (R99) -/
  inbox : List PeerDefinition
  release : ReleaseUnit
  bus : BusController
  peers : PeerUnit
  floor : FloorRecord
  status : StatusUnit
  deriving DecidableEq, Repr

/-- Faults. NONE: the spec gives every command of the table an effect in every state, the empty effect where its
event cannot come about, so no meaning stops the part. -/
inductive Fault where
  deriving DecidableEq, Repr

/-- Refusals. -/
inductive Refusal where
  /-- raised by an arm of exec whose command has no meaning yet (safe); no arm raises it -/
  | notModelled (mnemonic : String)
  deriving DecidableEq, Repr

/-! ### Reset -/

def Scanner.initial : Scanner where
  active := false
  markActive := false
  period := none
  image := 0
  cells := List.replicate 24 ⟨false, 0⟩
  chord := .idle
  accumulator := 0
  chordStart := none
  nextStroke := none
  markLevel := none
  markCount := 0
  heldMark := none

def NotesWriter.initial : NotesWriter where
  opened := false
  fifo := []
  burst := none
  writePos := none
  flushTimer := none
  flushDue := false
  lostCount := 0
  halted := false
  full := false
  restartCount := none
  heldNotes := []
  resumeScan := none

def LookupUnit.initial : LookupUnit := ⟨none, none, none, none, none⟩

def Translator.initial : Translator where
  active := false
  sequence := []
  resolveTimer := none
  stale := false
  work := []
  capture := .closed
  formatting := .initial
  markNext := false
  history := []
  nextUnit := 1

def ReleaseUnit.initial : ReleaseUnit := ⟨true, none, 1, none, false⟩

def BusController.initial : BusController := ⟨.waitIdle, 0, [], none, 0, false⟩

def PeerUnit.initial : PeerUnit := ⟨List.replicate 16 .initial, none⟩

def FloorRecord.initial : FloorRecord where
  state := .off
  holder := none
  partner := none
  cut := none
  lastStroke := none
  withdrawn := false
  claimWait := none
  holdOff := none
  claimWindow := none
  reliefTimer := none
  yieldTimer := none
  vacancyTimer := none

/-- The status unit after RESET: RESTARTED (position 0) set, everything else clear (R170, R177, R180). -/
def StatusUnit.initial : StatusUnit := ⟨1, 0, 0, none, none⟩

/-- The recovery limit at a start, 50 ms (R35). -/
def startRecoveryLimit : Nat := 50

/-- The part when the RESET phase of a start is over: straps read, reset kind recorded, clock 0, RESTARTED set, phase
LOAD with the flash RECOVERING, every block at the value its chapter gives for after either reset (R3, R18, R33, R35,
R43, R46, R50, R71, R85, R99, R101, R109, R125, R139, R151, R170, R177, R180). The devices hold `flash` and `ram`. -/
def State.started (kind : ResetKind) (straps : Straps) (flash ram : Memory) (queue : List Instr) (free : Nat) :
    State where
  pending := queue
  freeCount := free
  seq :=
    { phase := .load, resetKind := kind, addr := straps.addr, ramFit := straps.ramFit, loadStep := .recovery,
      accepted := false, listenExpiries := 0, clock := 0 }
  settings := .standard
  scanner := .initial
  strokes := []
  notes := .initial
  port :=
    { flash := .recovering, timer := some startRecoveryLimit, burstGranted := false, deviceReady := false,
      regions := defaultRegions, flashMem := flash, ramMem := ram }
  lookup := .initial
  translator := .initial
  inbox := []
  release := .initial
  bus := .initial
  peers := .initial
  floor := .initial
  status := .initial

/-- The machine right after a power-on reset with every strap low (DESIGN CHOICE, log entry 2: the spec gives strap
levels no value), an erased flash and a RAM with nothing listed; no command waits. -/
def State.reset : State :=
  State.started .powerOn ⟨0, false⟩ [] [] [] 0

end Sys2Proof.Machine
end

