-- ==== Sys2Proof/Machine/Clock.lean ====
section
/-! DEFINITION. The local clock, comparison of times, and the passing of time over the clock and every timer (R138). -/

namespace Sys2Proof.Machine

/-- The interval from c to t as a signed 32-bit value (R138). -/
def interval (c t : Word) : Int := (t - c).toInt

/-- t is after c (R138). -/
def after (t c : Word) : Bool := 0 < interval c t

/-- a is higher than b, for official sequences (R114). -/
def higher (a b : Word) : Bool := 0 < (a - b).toInt

/-- One more, with 1 following 4 294 967 295 (R10, R84, R114, R115). -/
def succNonzero (w : Word) : Word := if w + 1 = 0 then 1 else w + 1

/-- A running timer with `n` ms less on it; it waits at 0 for its expiry command. -/
def countDown (n : Nat) (t : Option Nat) : Option Nat := t.map (· - n)

/-- The last stroke time is forgotten when the active window has passed since it was set (R155). -/
def keepStroke (window : Nat) (now : Word) (last : Option Word) : Option Word :=
  last.filter fun t => decide ((now - t).toNat < window * 1000)

/-- `n` ms pass: the local clock and a running stuck-line timer advance (R134), and every other running timer counts
down. No event is taken. -/
def elapse (n : Nat) (s : State) : State :=
  let now := s.seq.clock + BitVec.ofNat 32 n
  { s with
    seq := { s.seq with clock := now }
    scanner := { s.scanner with period := countDown n s.scanner.period }
    notes := { s.notes with flushTimer := countDown n s.notes.flushTimer }
    port := { s.port with timer := countDown n s.port.timer }
    translator := { s.translator with resolveTimer := countDown n s.translator.resolveTimer }
    release := { s.release with holdTimer := countDown n s.release.holdTimer }
    bus := { s.bus with stuckTimer := if s.bus.stuckTimer = 0 then 0 else s.bus.stuckTimer + n }
    peers := { s.peers with timer := countDown n s.peers.timer }
    floor :=
      { s.floor with
        lastStroke := keepStroke s.settings.activeWindow now s.floor.lastStroke
        claimWait := countDown n s.floor.claimWait
        holdOff := countDown n s.floor.holdOff
        claimWindow := countDown n s.floor.claimWindow
        reliefTimer := countDown n s.floor.reliefTimer
        yieldTimer := countDown n s.floor.yieldTimer
        vacancyTimer := countDown n s.floor.vacancyTimer }
    status := { s.status with playing := s.status.playing.map fun p => (p.1, p.2 - n) } }

/-- One tick of the local clock: what a step on an empty queue does (log entry 1). -/
def tick (s : State) : State := elapse 1 s

/-- An expiry command waits for its timer: with the timer stopped it has no effect; else the ms left pass, and then it
acts (log entry 1). -/
def onExpiry (t : Option Nat) (act : State → State) (s : State) : State :=
  match t with
  | none => s
  | some n => act (elapse n s)

/-- The reporter is active (R155). -/
def reporterActive (s : State) : Bool :=
  match s.floor.lastStroke with
  | none => false
  | some t => decide (interval t s.seq.clock < s.settings.activeWindow * 1000)

end Sys2Proof.Machine
end

