-- ==== Sys2Proof/Machine/Flags.lean ====
section
/-! DEFINITION. The status unit: flags, ATTN and the FEEDBACK player (R177 to R181). -/

namespace Sys2Proof.Machine

/-- The position of a flag (table of spec/11). -/
def Flag.position : Flag → Nat
  | .restarted => 0
  | .configClamped => 1
  | .keyFault => 2
  | .keyStuck => 3
  | .strokeOverrun => 4
  | .noteLost => 5
  | .notesNearFull => 6
  | .notesFull => 7
  | .notesFault => 8
  | .notesDamaged => 9
  | .dictBad => 10
  | .overlayFull => 11
  | .defRefused => 12
  | .peerDefBad => 13
  | .txDrop => 14
  | .txError => 15
  | .busStuck => 16
  | .addressClash => 17
  | .floorConflict => 18
  | .reliefTimeout => 19
  | .reliefRefused => 20
  | .noOffset => 21

/-- The flag set with this flag alone. -/
def Flag.mask (f : Flag) : Word := BitVec.twoPow 32 f.position

/-- The 22 positions in use. -/
def usedFlags : Word := 0x003FFFFF

def StatusUnit.isSet (u : StatusUnit) (f : Flag) : Bool := u.flags.getLsbD f.position

/-- Place of a pattern in the pattern enables. -/
def Pattern.place : Pattern → Nat
  | .untran => 0
  | .floorGained => 1
  | .reliefAsked => 2
  | .fault => 3

/-- Length of a pattern with its quiet time, ms (R180). -/
def Pattern.length : Pattern → Nat
  | .untran => 230
  | .floorGained => 320
  | .reliefAsked => 410
  | .fault => 500

/-- The pulses of a pattern: (start, end) in ms from the start of the pattern (R180). -/
def Pattern.pulses : Pattern → List (Nat × Nat)
  | .untran => [(0, 30)]
  | .floorGained => [(0, 30), (90, 120)]
  | .reliefAsked => [(0, 30), (90, 120), (180, 210)]
  | .fault => [(0, 300)]

/-- A pattern request at the player (R180). -/
def StatusUnit.request (p : Pattern) (u : StatusUnit) : StatusUnit :=
  if u.enables.getLsbD p.place then
    match u.playing with
    | none => { u with playing := some (p, p.length) }
    | some _ => { u with waiting := some p }
  else u

/-- A pattern request; in FAULT none is taken (R174). -/
def requestPattern (p : Pattern) (s : State) : State :=
  if s.seq.phase = .fault then s else { s with status := s.status.request p }

/-- A block sets a flag. An enabled flag that changes from clear to set requests the FAULT pattern (R177, R181). -/
def setFlag (f : Flag) (s : State) : State :=
  let s1 := { s with status := { s.status with flags := s.status.flags ||| f.mask } }
  if s.status.isSet f || !s.status.mask.getLsbD f.position then s1 else requestPattern .fault s1

/-- Set a flag where a condition holds. -/
def setFlagIf (c : Bool) (f : Flag) (s : State) : State := if c then setFlag f s else s

/-- ACK and CLEAR: the named positions in use become clear (R178). -/
def clearFlags (named : Word) (s : State) : State :=
  { s with status := { s.status with flags := s.status.flags &&& ~~~(named &&& usedFlags) } }

/-- ATTN is driven low exactly while an enabled flag is set or the part is in FAULT (R179). -/
def attnDriven (s : State) : Bool :=
  decide (s.seq.phase = .fault) || decide (s.status.flags &&& s.status.mask ≠ 0)

/-- The level of the FEEDBACK line (R180). -/
def feedbackHigh (s : State) : Bool :=
  match s.status.playing with
  | none => false
  | some (p, left) => p.pulses.any fun w => w.1 ≤ p.length - left && p.length - left < w.2

/-- The end of the pattern playing: the waiting pattern starts, or in FAULT the FAULT pattern starts again (R174, R180). -/
def nextPattern (s : State) : State :=
  if s.seq.phase = .fault then
    { s with status := { s.status with playing := some (.fault, Pattern.fault.length), waiting := none } }
  else
    { s with
      status := { s.status with playing := s.status.waiting.map fun p => (p, p.length), waiting := none } }

end Sys2Proof.Machine
end

