-- ==== Sys2Proof/Machine/Memory.lean ====
section
/-! DEFINITION. Operations on the contents of the two serial devices (R32 to R41): reading, writing, programming,
erasing to the unlisted value, and the canonical form every one of them keeps. -/

namespace Sys2Proof.Machine

/-- One byte. An address that is not listed reads as `Config.unlistedByte`. -/
def Memory.read : Memory → Nat → Byte
  | [], _ => Config.unlistedByte
  | (k, v) :: rest, a => if k = a then v else Memory.read rest a

/-- Set one byte, keeping the canonical form: writing the unlisted value removes the entry. -/
def Memory.write : Memory → Nat → Byte → Memory
  | [], a, v => if v = Config.unlistedByte then [] else [(a, v)]
  | (k, w) :: rest, a, v =>
    if a < k then (if v = Config.unlistedByte then (k, w) :: rest else (a, v) :: (k, w) :: rest)
    else if a = k then (if v = Config.unlistedByte then rest else (a, v) :: rest)
    else (k, w) :: Memory.write rest a v

/-- `n` bytes from address `a` on. -/
def Memory.readBytes (m : Memory) (a n : Nat) : List Byte :=
  (List.range n).map fun i => Memory.read m (a + i)

/-- Consecutive bytes from address `a` on. -/
def Memory.writeBytes (m : Memory) (a : Nat) : List Byte → Memory
  | [] => m
  | b :: bs => Memory.writeBytes (Memory.write m a b) (a + 1) bs

/-- A page program that the device reports done: each bit goes from 1 to 0 where the data bit is 0 and stays
otherwise (R35, R17). -/
def Memory.program (m : Memory) (a : Nat) : List Byte → Memory
  | [] => m
  | b :: bs => Memory.program (Memory.write m a (Memory.read m a &&& b)) (a + 1) bs

/-- A page program that failed, timed out or was cut off: each byte holds what the device reached, a FREE VALUE
between the old content and the programmed one (log entry 3). -/
def Memory.programPartly (m : Memory) (op a : Nat) : List Byte → Memory
  | [] => m
  | b :: bs =>
    Memory.programPartly (Memory.write m a (Memory.read m a &&& (b ||| Config.programResidue op a))) op (a + 1) bs

/-- Set `n` bytes from address `a` on to the unlisted value, 0xFF. -/
def Memory.blank (m : Memory) (a n : Nat) : Memory :=
  m.filter fun c => !(a ≤ c.1 && c.1 < a + n)

/-- The contents that an image given as cells stands for; later cells win, addresses outside the device are left out. -/
def Memory.ofCells (space : Nat) (cells : List Host.Cell) : Memory :=
  cells.foldl (fun m c => if c.1 < space then Memory.write m c.1 c.2 else m) []

/-- The canonical form: addresses strictly rising, no entry equal to the unlisted value. -/
abbrev Memory.wf (m : Memory) : Prop :=
  m.Pairwise (fun c d => c.1 < d.1) ∧ ∀ c ∈ m, c.2 ≠ Config.unlistedByte

end Sys2Proof.Machine
end

