-- ==== Sys2Proof/Machine/Operands.lean ====
section
/-! DEFINITION. Byte order, CRCs and the layouts of spec/12: what stands in a note record, in a frame, in a payload. -/

namespace Sys2Proof.Machine

/-! ### Bytes and bits -/

/-- The low `n` bytes of a number, most significant first (R182). -/
def beBytes (n v : Nat) : List Byte :=
  (List.range n).map fun i => BitVec.ofNat 8 (v / 256 ^ (n - 1 - i))

/-- The number that bytes stand for, most significant first (R182). -/
def beNat (bs : List Byte) : Nat :=
  bs.foldl (fun acc b => acc * 256 + b.toNat) 0

/-- The field of `n` bytes at offset `at` of a record. -/
def fieldAt (bs : List Byte) (off n : Nat) : Nat :=
  beNat ((bs.drop off).take n)

/-- The low `n` bits of a number, most significant first. -/
def bitsOf (n v : Nat) : List Bool :=
  (List.range n).map fun i => v.testBit (n - 1 - i)

/-- The bits of bytes, most significant bit of each byte first. -/
def byteBits (bs : List Byte) : List Bool :=
  bs.flatMap fun b => bitsOf 8 b.toNat

/-! ### CRCs (R128, R182) -/

/-- One bit into the CRC-16 register, polynomial x^16 + x^12 + x^5 + 1. -/
def crc16Step (reg : BitVec 16) (b : Bool) : BitVec 16 :=
  if reg.msb != b then (reg <<< 1) ^^^ 0x1021 else reg <<< 1

def crc16 (bits : List Bool) : BitVec 16 :=
  bits.foldl crc16Step 0xFFFF

/-- One bit into the CRC-8 register, polynomial x^8 + x^2 + x + 1. -/
def crc8Step (reg : BitVec 8) (b : Bool) : BitVec 8 :=
  if reg.msb != b then (reg <<< 1) ^^^ 0x07 else reg <<< 1

def crc8 (bits : List Bool) : BitVec 8 :=
  bits.foldl crc8Step 0

/-! ### Note records (R16, R17) -/

/-- Code of a state: 0 OFF, 1 ON. -/
def onCode (on : Bool) : Byte := if on then 1 else 0

def ResetKind.code : ResetKind → Byte
  | .powerOn => 1
  | .pin => 2

/-- Bytes 0.. of a record before padding; unused bytes are written 0. -/
def Note.fields : Note → List Byte
  | .stroke number start keys duration =>
    [0x01] ++ beBytes 4 number.toNat ++ beBytes 4 start.toNat ++ beBytes 3 keys.toNat ++ beBytes 2 duration.toNat
  | .mark time => [0x02] ++ beBytes 4 time.toNat
  | .record on source => [0x03, onCode on, BitVec.setWidth 8 source]
  | .floor on official => [0x04, onCode on] ++ beBytes 4 official.toNat
  | .define store first hash strokes source =>
    [0x05, if store then 1 else 2] ++ beBytes 3 first.toNat ++ beBytes 4 hash.toNat ++
      [BitVec.ofNat 8 strokes, BitVec.setWidth 8 source]
  | .resume count kind => [0x06] ++ beBytes 2 count ++ [kind.code]
  | .lost count => [0x07] ++ beBytes 4 count
  | .void => []

/-- The first 15 bytes of a record. -/
def Note.body (n : Note) : List Byte :=
  (n.fields ++ List.replicate 15 0).take 15

/-- The 16 bytes of a record, CRC-8 last (R17). VOID comes out as 16 bytes of 0x00. -/
def Note.bytes (n : Note) : List Byte :=
  n.body ++ [crc8 (byteBits n.body)]

/-- A record slot whose 16 bytes all read 0xFF (R17). -/
def slotErased (bs : List Byte) : Bool := bs.all (· == 0xFF)

/-- Byte 15 matches the CRC-8 over bytes 0..14 (R17). -/
def slotGood (bs : List Byte) : Bool :=
  bs[15]? == some (crc8 (byteBits (bs.take 15)))

def Note.isLost : Note → Bool
  | .lost _ => true
  | _ => false

/-! ### Frame kinds (R129) -/

def FrameKind.cls : FrameKind → Nat
  | .claim | .reliefReq | .reliefBusy | .pass | .floorFree => 0
  | .record | .clear => 1
  | .retract | .replace => 2
  | .text => 3
  | .shadow => 4
  | .define => 5
  | .presence => 6

def FrameKind.code : FrameKind → Nat
  | .claim | .record | .retract | .text | .shadow | .define | .presence => 0
  | .reliefReq | .clear | .replace => 1
  | .reliefBusy => 2
  | .pass => 3
  | .floorFree => 4

/-- All kinds, for finding one by its class and code. -/
def FrameKind.all : List FrameKind :=
  [.claim, .reliefReq, .reliefBusy, .pass, .floorFree, .record, .clear, .retract, .replace, .text, .shadow, .define,
   .presence]

/-- The kind of a class and kind code; none: unknown kind (R129). -/
def FrameKind.ofCodes (cls code : Nat) : Option FrameKind :=
  FrameKind.all.find? fun k => k.cls == cls && k.code == code

/-- The identifier: class × 256 + kind × 16 + source (R129 note 1). -/
def FrameKind.ident (k : FrameKind) (src : Station) : BitVec 11 :=
  BitVec.ofNat 11 (k.cls * 256 + k.code * 16 + src.toNat)

def Msg.kind : Msg → FrameKind
  | .claim .. => .claim
  | .reliefReq => .reliefReq
  | .reliefBusy .. => .reliefBusy
  | .pass .. => .pass
  | .floorFree .. => .floorFree
  | .record .. => .record
  | .clear .. => .clear
  | .retract .. => .retract
  | .replace .. => .replace
  | .text .. => .text
  | .shadow .. => .shadow
  | .define .. => .define
  | .presence .. => .presence

def TxBody.kind : TxBody → FrameKind
  | .presence => .presence
  | .msg m => m.kind

/-! ### Payloads (spec/12, Frames) -/

def FloorState.code : FloorState → Nat
  | .off => 0
  | .claiming => 1
  | .requesting => 2
  | .on => 3
  | .yielding => 4
  | .draining => 5

def FloorState.ofCode : Nat → Option FloorState
  | 0 => some .off
  | 1 => some .claiming
  | 2 => some .requesting
  | 3 => some .on
  | 4 => some .yielding
  | 5 => some .draining
  | _ => none

/-- A holding state: ON, YIELDING or DRAINING. -/
def FloorState.holding : FloorState → Bool
  | .on | .yielding | .draining => true
  | _ => false

def bit (b : Bool) (p : Nat) : Nat := if b then 2 ^ p else 0

/-- The flags word of TEXT and SHADOW. -/
def TextBody.flags (b : TextBody) : Nat :=
  bit b.spaceBefore 0 + bit b.paragraph 1 + bit b.marked 2 + bit b.offRecord 3 + bit b.truncated 4 +
    bit b.gap.isSome 5 + bit b.resumed 6

def TextBody.payload (b : TextBody) : List Byte :=
  beBytes 4 b.seq.toNat ++ beBytes 4 b.unit.toNat ++ beBytes 4 b.start.toNat ++ beBytes 2 b.flags ++
    beBytes 2 (b.gap.getD 0) ++ beBytes 1 (b.speaker.getD 0) ++ beBytes 1 b.text.length ++ b.text

def TextBody.parse (p : List Byte) : Option TextBody :=
  if 18 ≤ p.length ∧ p.length = 18 + fieldAt p 17 1 then
    let flags := fieldAt p 12 2
    some
      { seq := BitVec.ofNat 32 (fieldAt p 0 4), unit := BitVec.ofNat 32 (fieldAt p 4 4),
        start := BitVec.ofNat 32 (fieldAt p 8 4), spaceBefore := flags.testBit 0, paragraph := flags.testBit 1,
        marked := flags.testBit 2, offRecord := flags.testBit 3, truncated := flags.testBit 4,
        gap := if flags.testBit 5 then some (fieldAt p 14 2) else none, resumed := flags.testBit 6,
        speaker := if fieldAt p 16 1 = 0 then none else some (fieldAt p 16 1), text := p.drop 18 }
  else none

def PresenceBody.payload (b : PresenceBody) : List Byte :=
  beBytes 4 b.time.toNat ++ beBytes 1 (if b.writer then 1 else 2) ++ beBytes 1 b.floor.code ++ [onCode b.recordOn] ++
    beBytes 2 b.restart.toNat ++ beBytes 4 b.known.toNat ++ beBytes 4 b.flags.toNat

def PresenceBody.parse (p : List Byte) : Option PresenceBody :=
  if p.length = 17 ∧ (fieldAt p 4 1 = 1 ∨ fieldAt p 4 1 = 2) ∧ fieldAt p 6 1 ≤ 1 then
    (FloorState.ofCode (fieldAt p 5 1)).map fun floor =>
      { time := BitVec.ofNat 32 (fieldAt p 0 4), writer := fieldAt p 4 1 == 1, floor := floor,
        recordOn := fieldAt p 6 1 == 1, restart := BitVec.ofNat 16 (fieldAt p 7 2),
        known := BitVec.ofNat 32 (fieldAt p 9 4), flags := BitVec.ofNat 32 (fieldAt p 13 4) }
  else none

/-- Stream code of RETRACT and REPLACE: 1 OFFICIAL, 2 SHADOW. -/
def streamCode (official : Bool) : Byte := if official then 1 else 2

/-- The payload bytes a message is sent with. -/
def Msg.payload : Msg → List Byte
  | .claim known held => beBytes 4 known.toNat ++ [if held then 1 else 0]
  | .reliefReq => []
  | .reliefBusy notHolder => [if notHolder then 2 else 1]
  | .pass target known cut => [BitVec.setWidth 8 target] ++ beBytes 4 known.toNat ++ beBytes 4 cut.toNat
  | .floorFree known => beBytes 4 known.toNat
  | .record on => [onCode on]
  | .clear flags => beBytes 4 flags.toNat
  | .retract official seq => [streamCode official] ++ beBytes 4 seq.toNat
  | .replace official seq chars =>
    [streamCode official] ++ beBytes 4 seq.toNat ++ beBytes 1 chars.length ++ chars
  | .text body => body.payload
  | .shadow body => body.payload
  | .define payload => payload
  | .presence body => body.payload

/-- The message of a payload; none when the length does not fit the kind (R135 step 4) or a coded field holds a value
without meaning (R183). Unused bits and bytes are not read. -/
def Msg.parse (k : FrameKind) (p : List Byte) : Option Msg :=
  match k with
  | .claim => if p.length = 5 then some (.claim (BitVec.ofNat 32 (fieldAt p 0 4)) ((fieldAt p 4 1).testBit 0)) else none
  | .reliefReq => if p.length = 0 then some .reliefReq else none
  | .reliefBusy =>
    if p.length = 1 ∧ (fieldAt p 0 1 = 1 ∨ fieldAt p 0 1 = 2) then some (.reliefBusy (fieldAt p 0 1 == 2)) else none
  | .pass =>
    if p.length = 9 ∧ fieldAt p 0 1 ≤ 15 then
      some (.pass (BitVec.ofNat 4 (fieldAt p 0 1)) (BitVec.ofNat 32 (fieldAt p 1 4)) (BitVec.ofNat 32 (fieldAt p 5 4)))
    else none
  | .floorFree => if p.length = 4 then some (.floorFree (BitVec.ofNat 32 (fieldAt p 0 4))) else none
  | .record => if p.length = 1 ∧ fieldAt p 0 1 ≤ 1 then some (.record (fieldAt p 0 1 == 1)) else none
  | .clear => if p.length = 4 then some (.clear (BitVec.ofNat 32 (fieldAt p 0 4))) else none
  | .retract =>
    if p.length = 5 ∧ (fieldAt p 0 1 = 1 ∨ fieldAt p 0 1 = 2) then
      some (.retract (fieldAt p 0 1 == 1) (BitVec.ofNat 32 (fieldAt p 1 4)))
    else none
  | .replace =>
    if 6 ≤ p.length ∧ p.length = 6 + fieldAt p 5 1 ∧ (fieldAt p 0 1 = 1 ∨ fieldAt p 0 1 = 2) then
      some (.replace (fieldAt p 0 1 == 1) (BitVec.ofNat 32 (fieldAt p 1 4)) (p.drop 6))
    else none
  | .text => (TextBody.parse p).map .text
  | .shadow => (TextBody.parse p).map .shadow
  | .define => some (.define p)
  | .presence => (PresenceBody.parse p).map .presence

/-- The outcome of the checks of R135 and R183. -/
inductive Verdict where
  /-- discarded or ignored with no flag -/
  | discarded
  /-- carries this station's address: ADDRESS_CLASH, discarded -/
  | clash
  | accepted (src : Station) (m : Msg)
  deriving DecidableEq, Repr

/-- The destination field: broadcast flag, then the address, sent as 0 with the flag. -/
def destField : Option Station → BitVec 5
  | none => 0x10
  | some a => BitVec.setWidth 5 a

end Sys2Proof.Machine

namespace Sys2Proof

open Machine

/-! ### Frames on the line (R127, R128) -/

/-- The bits the CRC covers: identifier, destination, length and payload in the order sent. -/
def LineFrame.covered (f : LineFrame) : List Bool :=
  bitsOf 11 f.ident.toNat ++ bitsOf 5 f.dest.toNat ++ bitsOf 8 f.length.toNat ++ byteBits f.payload

/-- All bits of a frame on the line, start bit first (R127). -/
def LineFrame.lineBits (f : LineFrame) : List Bool :=
  false :: (f.covered ++ bitsOf 16 f.crc.toNat ++ bitsOf 7 f.endBits.toNat)

def LineFrame.source (f : LineFrame) : Station := BitVec.ofNat 4 f.ident.toNat

def LineFrame.kind (f : LineFrame) : Option FrameKind :=
  FrameKind.ofCodes (f.ident.toNat / 256) (f.ident.toNat / 16 % 16)

/-- Step 1 of R135: read through with its CRC right and a recessive end field. -/
def LineFrame.intact (f : LineFrame) : Bool :=
  f.length.toNat ≤ 160 && f.payload.length == f.length.toNat && f.crc == crc16 f.covered &&
    f.endBits == BitVec.allOnes 7

/-- Step 3 of R135: broadcast, or addressed to this station. -/
def LineFrame.reaches (f : LineFrame) (me : Station) : Bool :=
  f.dest.msb || f.dest.toNat == me.toNat

/-- The checks of R135, in order, then the coded fields of R183. -/
def LineFrame.judge (me : Station) (f : LineFrame) : Verdict :=
  if !f.intact then .discarded
  else if f.source = me then .clash
  else if !f.reaches me then .discarded
  else
    match f.kind.bind fun k => Msg.parse k f.payload with
    | none => .discarded
    | some m => .accepted f.source m

end Sys2Proof

namespace Sys2Proof.Machine

/-- The frame a station sends for a message. -/
def Msg.frame (src : Station) (dest : Option Station) (m : Msg) : LineFrame :=
  let f : LineFrame :=
    { ident := m.kind.ident src, dest := destField dest, length := BitVec.ofNat 8 m.payload.length,
      payload := m.payload, crc := 0, endBits := BitVec.allOnes 7, age := 0 }
  { f with crc := crc16 f.covered }

/-! ### DEFINE payloads (R99, spec/12) -/

/-- The payload of a DEFINE: n, key sets, text length, text. -/
def definePayload (outline : List KeySet) (text : List Byte) : List Byte :=
  beBytes 1 outline.length ++ outline.flatMap (fun k => beBytes 3 k.toNat) ++ beBytes 1 text.length ++ text

/-- A text byte a definition may hold: 0x20..0x7E or 0xA0..0xFF (R93, R99). -/
def definable (b : Byte) : Bool :=
  (0x20 ≤ b.toNat && b.toNat ≤ 0x7E) || 0xA0 ≤ b.toNat

/-- The key sets of `n` strokes stored from offset `off` on, as 24-bit values. -/
def rawKeys (bs : List Byte) (off n : Nat) : List Nat :=
  (List.range n).map fun i => fieldAt bs (off + 3 * i) 3

/-- A well-formed DEFINE payload's outline and text; none: malformed (R99 step 2). -/
def parseDefine (p : List Byte) : Option (List KeySet × List Byte) :=
  let n := fieldAt p 0 1
  let keys := rawKeys p 1 n
  let len := fieldAt p (1 + 3 * n) 1
  let text := p.drop (2 + 3 * n)
  if 1 ≤ n ∧ n ≤ 8 ∧ 2 + 3 * n ≤ p.length ∧ p.length = 2 + 3 * n + len ∧ len ≤ 120 ∧
      keys.all (fun k => 0 < k && k < 2 ^ 23) ∧ text.all definable then
    some (keys.map (BitVec.ofNat 23), text)
  else none

end Sys2Proof.Machine
end

