-- ==== Sys2Proof/Machine/Ops.lean ====
section
/-! DEFINITION. Operations that several blocks share: requests at the memory port, the flash arbiter, handing a note,
handing a frame, raising the official sequence known. -/

namespace Sys2Proof.Machine

/-! ### Requests at the memory port (R32 to R34) -/

def MemoryPort.region (p : MemoryPort) (n : RegionName) : Option Region :=
  p.regions.find? fun r => r.name == n

def PortOp.isProgram : PortOp → Bool
  | .flashProgram => true
  | _ => false

/-- The port's check of a request before starting it (R34): the region has an entry that allows the operation, the
span lies inside it, and a program stays inside one 256-byte page of the device. -/
def MemoryPort.allows (p : MemoryPort) (n : RegionName) (op : PortOp) (off len : Nat) : Bool :=
  match p.region n with
  | none => false
  | some r =>
    r.allowed.contains op && decide (1 ≤ len) && decide (off + len ≤ r.size) &&
      (!op.isProgram || (decide (len ≤ 256) && (r.base + off) / 256 == (r.base + off + len - 1) / 256))

/-- The contents of a device. -/
def MemoryPort.contents (p : MemoryPort) : Device → Memory
  | .flash => p.flashMem
  | .ram => p.ramMem

/-- The bytes a read of a region answers with, at the absolute device address (R36, R41). -/
def MemoryPort.bytesAt (p : MemoryPort) (n : RegionName) (off len : Nat) : List Byte :=
  match p.region n with
  | none => []
  | some r => Memory.readBytes (p.contents r.device) (r.base + off) len

/-- A read request: refused (none) or its data (R32, R34). -/
def MemoryPort.readAt (p : MemoryPort) (n : RegionName) (off len : Nat) : Option (List Byte) :=
  let op := match n with
    | .overlay => PortOp.ramRead
    | _ => PortOp.flashRead
  if p.allows n op off len then some (p.bytesAt n off len) else none

/-- What a requester that has no rule for a refused read works on: the data, or where it is refused a FREE VALUE for
each byte (log entry 31). -/
def MemoryPort.dataAt (p : MemoryPort) (n : RegionName) (off len : Nat) : List Byte :=
  (p.readAt n off len).getD ((List.range len).map fun i => Config.refusedByte (off + i))

/-- The RAM after a write request: done at the absolute address, or refused with nothing changed (R32, R34, R41). -/
def MemoryPort.ramAfter (p : MemoryPort) (n : RegionName) (off : Nat) (bs : List Byte) : Memory :=
  if p.allows n .ramWrite off bs.length then
    Memory.writeBytes p.ramMem (((p.region n).map Region.base).getD 0 + off) bs
  else p.ramMem

/-- As `ramAfter`, for n bytes of 0xFF: what an unlisted byte reads as. -/
def MemoryPort.ramBlanked (p : MemoryPort) (n : RegionName) (off len : Nat) : Memory :=
  if p.allows n .ramWrite off len then
    Memory.blank p.ramMem (((p.region n).map Region.base).getD 0 + off) len
  else p.ramMem

/-! ### The flash arbiter (R38, R39) -/

/-- Records of the FIFO that are not part of the burst in flight (spec/02, the note FIFO). -/
def NotesWriter.waiting (n : NotesWriter) : Nat :=
  n.fifo.length - (n.burst.map Burst.count).getD 0

/-- The notes path takes notes: open, neither halted nor full. -/
def NotesWriter.pathOpen (n : NotesWriter) : Bool := n.opened && !n.halted && !n.full

/-- A burst is requested of the memory port (R21). -/
def NotesWriter.wantsBurst (n : NotesWriter) : Bool :=
  n.burst.isNone && n.pathOpen && (decide (6 ≤ n.waiting) || n.flushDue)

/-- The lookup in flight has a flash read to make: a claim stands (R39). -/
def LookupUnit.claims (l : LookupUnit) : Bool :=
  match l.search with
  | none => false
  | some q => q.probe.isSome && q.window != .w0

/-- The arbiter's decision, made whenever the flash is FREE with claims standing (R39). A granted read starts at once;
a granted burst starts with its BURST_START. -/
def arbitrate (s : State) : State :=
  if s.port.flash = .free ∧ s.port.burstGranted = false then
    if s.lookup.claims && !(s.notes.wantsBurst && decide (8 ≤ s.notes.fifo.length)) then
      { s with port := { s.port with flash := .reading } }
    else if s.notes.wantsBurst then { s with port := { s.port with burstGranted := true } }
    else s
  else s

/-! ### Handing a note (R18 to R21) -/

/-- The lost count saturates at 4 294 967 295 (R19). -/
def addLost (count more : Nat) : Nat := min (count + more) 4294967295

/-- Ms of the full flush period (R20). -/
def flushPeriod (s : State) : Nat := s.settings.flush * 100

/-- The flush timer starts when a record is waiting, no flush is due and the timer is stopped (R20). -/
def armFlush (s : State) : State :=
  if s.notes.flushTimer.isNone && s.notes.pathOpen && !s.notes.flushDue && decide (0 < s.notes.waiting) then
    { s with notes := { s.notes with flushTimer := some (flushPeriod s) } }
  else s

/-- One note counted as lost. -/
def loseNote (s : State) : State :=
  { s with notes := { s.notes with lostCount := addLost s.notes.lostCount 1 } }

/-- A handed note at the FIFO of an opened path (R19). -/
def joinNote (n : Note) (s : State) : State :=
  if s.notes.halted || s.notes.full then loseNote s
  else if 8 ≤ s.notes.fifo.length then setFlag .noteLost (loseNote s)
  else armFlush { s with notes := { s.notes with fifo := s.notes.fifo ++ [n] } }

/-- A block hands a note record to the notes writer (R18, R19), which may request a burst (R21). -/
def handNote (n : Note) (s : State) : State :=
  if s.notes.opened then arbitrate (joinNote n s)
  else if s.notes.heldNotes.length < 7 then
    { s with notes := { s.notes with heldNotes := s.notes.heldNotes ++ [n] } }
  else setFlag .noteLost (loseNote s)

/-! ### Handing a frame (R125, R129, R130) -/

def TxFrame.kind (f : TxFrame) : FrameKind := f.body.kind

def TxFrame.cls (f : TxFrame) : Nat := f.kind.cls

/-- Frames of classes 2..6 in the queue. -/
def lowClassCount (q : List TxFrame) : Nat := q.countP fun f => decide (2 ≤ f.cls)

/-- Classes 2..6 hold their 20 slots, or the queue holds 24 (R130). -/
def noLowSlot (q : List TxFrame) : Bool := decide (20 ≤ lowClassCount q) || decide (24 ≤ q.length)

/-- The place of the newest waiting frame of the highest class among waiting frames of classes 2..6 (R130). -/
def victimPlace (q : List TxFrame) : Option Nat :=
  let waiting := q.zipIdx.filter fun p => !p.1.sending && decide (2 ≤ p.1.cls)
  let top := waiting.foldl (fun m p => max m p.1.cls) 0
  ((waiting.filter fun p => p.1.cls == top).getLast?).map Prod.snd

def setQueue (q : List TxFrame) (s : State) : State := { s with bus := { s.bus with queue := q } }

/-- A handed frame of class 0 or 1 at a full queue (R130). -/
def displace (f : TxFrame) (s : State) : State :=
  match victimPlace s.bus.queue with
  | none => setFlag .txDrop s
  | some i =>
    let presence := (s.bus.queue[i]?.map TxFrame.kind) == some .presence
    setQueue (s.bus.queue.eraseIdx i ++ [f]) (setFlagIf (!presence) .txDrop s)

/-- A block hands a frame to the bus controller: discarded while the transmitter is inactive (R125), else taken by the
table of R130. -/
def handFrame (f : TxFrame) (s : State) : State :=
  if s.seq.phase ≠ .run then s
  else if f.kind = .presence then
    if s.bus.queue.any (fun g => g.kind == .presence && !g.sending) || noLowSlot s.bus.queue then s
    else setQueue (s.bus.queue ++ [f]) s
  else if 2 ≤ f.cls then
    if noLowSlot s.bus.queue then setFlag .txDrop s else setQueue (s.bus.queue ++ [f]) s
  else if s.bus.queue.length < 24 then setQueue (s.bus.queue ++ [f]) s
  else displace f s

/-- Hand a broadcast message. -/
def broadcast (m : Msg) (s : State) : State := handFrame ⟨.msg m, none, false⟩ s

/-- Hand a message addressed to one station. -/
def sendTo (a : Station) (m : Msg) (s : State) : State := handFrame ⟨.msg m, some a, false⟩ s

/-! ### The official sequence known (R114, R118) -/

/-- The known as a frame or note carries it: 0 when absent (R182). -/
def knownField (s : State) : Word := s.release.known.getD 0

/-- The known after hearing a value (R118): 0 leaves it, a higher value or an absent known takes it. -/
def raised (known : Option Word) (v : Word) : Option Word :=
  if v = 0 then known
  else
    match known with
    | none => some v
    | some k => if higher v k then some v else some k

def raiseKnown (v : Word) (s : State) : State :=
  { s with release := { s.release with known := raised s.release.known v } }

/-- The known after a PASS that names this station (R119): 0 leaves it, a known higher than the value stands, else it
takes the value. -/
def passed (known : Option Word) (v : Word) : Option Word :=
  if v = 0 then known
  else
    match known with
    | none => some v
    | some k => if higher k v then some k else some v

def passKnown (v : Word) (s : State) : State :=
  { s with release := { s.release with known := passed s.release.known v } }

end Sys2Proof.Machine
end

