-- ==== Sys2Proof/Machine/Peers.lean ====
section
/-! DEFINITION. The peer unit: peer table, restart counts, offset estimates, conversion of times (R139 to R149). -/

namespace Sys2Proof.Machine

def PeerUnit.record (u : PeerUnit) (a : Station) : Peer := u.table.getD a.toNat .initial

def setPeer (a : Station) (p : Peer) (s : State) : State :=
  { s with peers := { s.peers with table := s.peers.table.set a.toNat p } }

/-! ### The offset estimate (R146, R147) -/

/-- The sample d = Ts − Tr as a signed 32-bit value (R146). -/
def sample (ts tr : Word) : Int := (ts - tr).toInt

def clampInt (lo hi x : Int) : Int := max lo (min hi x)

/-- The estimate after a sample (R146). -/
def nextOffset (e : Option Int) (d : Int) : Int :=
  match e with
  | none => 16 * d
  | some e =>
    let r := 16 * d - e
    if 8000 < r ∨ r < -8000 then 16 * d
    else clampInt (-(2 ^ 35)) (2 ^ 35 - 1) (e + clampInt (-16) 16 (r / 8))

/-- A peer's time converted with an estimate (R147). -/
def convertWith (e : Int) (tp : Word) : Word := tp - BitVec.ofInt 32 ((e + 8) / 16)

/-- The time tp of peer a on the local clock, and whether an estimate was used (R147). -/
def convertTime (u : PeerUnit) (a : Station) (tp : Word) : Word × Bool :=
  match (u.record a).offset with
  | some e => (convertWith e tp, true)
  | none => (tp, false)

/-! ### Taking PRESENCE (R142, R143) -/

/-- The restart part of R142: a frame carrying 1..65535 that differs from a kept count clears the estimate and enables
definitions (R143); the count then takes the frame's value. -/
def Peer.takeRestart (p : Peer) (count : BitVec 16) : Peer :=
  if count = 0 then p
  else
    match p.restart with
    | none => { p with restart := some count }
    | some old =>
      if old = count then p
      else { p with restart := some count, offset := none, definitionsEnabled := true }

/-- A PRESENCE taken on its sender's record (R142). -/
def Peer.takePresence (p : Peer) (b : PresenceBody) (tr : Word) : Peer :=
  let p := p.takeRestart b.restart
  { p with
    offset := some (nextOffset p.offset (sample b.time tr))
    kind := some (if b.writer then .writer else .display)
    floor := some b.floor
    lastHeard := some tr
    present := true }

/-! ### Absence (R144) -/

/-- A record on absence: all but the restart count and definitions enabled is cleared (R139). -/
def Peer.gone (p : Peer) : Peer :=
  { Peer.initial with restart := p.restart, definitionsEnabled := p.definitionsEnabled }

/-- The record is found absent at the check (R144). -/
def Peer.silent (p : Peer) (now : Word) (limit : Nat) : Bool :=
  p.present &&
    match p.lastHeard with
    | none => true
    | some t => decide ((limit : Int) ≤ interval t now)

/-- The definitions enabled field of a record (R148). -/
def disableDefinitions (a : Station) (s : State) : State :=
  setPeer a { s.peers.record a with definitionsEnabled := false } s

end Sys2Proof.Machine
end

