-- ==== Sys2Proof/Machine/Floor.lean ====
section
/-! DEFINITION. The floor controller's own acts: entering ON, OFF and YIELDING, vacancy and the claim wait, the cut,
the drain check (R151 to R162). The acts that change the streams of units stand in Machine/FloorEvents.lean. -/

namespace Sys2Proof.Machine

def setFloor (f : FloorRecord) (s : State) : State := { s with floor := f }

/-- The station acts by every rule of the floor only in RUN (R151). -/
def inRun (s : State) : Bool := decide (s.seq.phase = .run)

/-- The full vacancy timeout in ms. -/
def vacancyPeriod (s : State) : Nat := s.settings.vacancy * s.settings.presence

/-- The claim hold-off in ms (R156). -/
def holdOffPeriod (s : State) : Nat := s.settings.claimWindow + 2 * s.settings.presence

/-! ### Entering states (R152) -/

/-- The FLOOR note of an entry to ON or OFF (R16, R152). -/
def floorNote (on : Bool) (s : State) : State := handNote (.floor on (knownField s)) s

def enterOn (s : State) : State :=
  requestPattern .floorGained <| floorNote true <|
    setFloor
      { s.floor with
        state := .on, holder := some s.seq.addr, withdrawn := false, partner := none, cut := none,
        claimWindow := none, reliefTimer := none, vacancyTimer := none } s

def enterOff (s : State) : State :=
  floorNote false <|
    setFloor
      { s.floor with
        state := .off, partner := none, cut := none, claimWindow := none, reliefTimer := none, yieldTimer := none,
        vacancyTimer := some (vacancyPeriod s) } s

def enterYielding (partner : Station) (s : State) : State :=
  requestPattern .reliefAsked <|
    setFloor
      { s.floor with state := .yielding, partner := some partner, yieldTimer := some (s.settings.yieldTime * 1000) } s

/-! ### Known holder and vacancy (R153, R154) -/

/-- The known holder becomes a; another station as holder ends the withdrawal (R153). -/
def setHolder (a : Station) (s : State) : State :=
  setFloor
    { s.floor with
      holder := some a, withdrawn := s.floor.withdrawn && decide (a = s.seq.addr) } s

def clearHolder (s : State) : State := setFloor { s.floor with holder := none } s

/-- This station is vacant (R154). -/
def vacant (s : State) : Bool := decide (s.floor.state = .off) && s.floor.holder.isNone

/-- The claim wait starts, under the conditions of R154 and R155: vacant, in RUN, not withdrawn, no wait or hold-off
running, the reporter active. -/
def vacancyFound (s : State) : State :=
  if inRun s && vacant s && !s.floor.withdrawn && s.floor.claimWait.isNone && s.floor.holdOff.isNone &&
      reporterActive s then
    setFloor { s.floor with claimWait := some (s.seq.addr.toNat * 20) } s
  else s

/-- The vacancy timer restarts from its full period: it runs in OFF, in RUN (R154). -/
def restartVacancy (s : State) : State :=
  if inRun s && decide (s.floor.state = .off) then
    setFloor { s.floor with vacancyTimer := some (vacancyPeriod s) } s
  else s

/-- A frame shows station a holding, in OFF: known holder a, vacancy timer restarted (R153, R154). -/
def holderShown (a : Station) (s : State) : State := restartVacancy (setHolder a s)

/-- A stroke is taken (R51, R155). -/
def strokeReported (s : State) : State :=
  vacancyFound (setFloor { s.floor with lastStroke := some s.seq.clock } s)

/-- The lowest address of a present WRITER that advertises a holding state in the peer table (R154). -/
def shownHolder (table : List Peer) : Option Station :=
  (table.findIdx? fun p =>
    p.present && decide (p.kind = some .writer) && (p.floor.map FloorState.holding).getD false).map (BitVec.ofNat 4)

/-! ### Claiming and asking (R155, R158, R164, R166) -/

/-- A CLAIM is handed and the station enters CLAIMING with its claim window; the vacancy timer runs only in OFF
(R154, R155, R158). -/
def claimNow (s : State) : State :=
  setFloor { s.floor with state := .claiming, claimWindow := some s.settings.claimWindow, vacancyTimer := none }
    (broadcast (.claim (knownField s) false) s)

/-- A holding station's answer to a CLAIM (R156). -/
def heldReply (s : State) : State := broadcast (.claim (knownField s) true) s

/-! ### Draining (R160 to R162) -/

/-- A TEXT frame of this station waits or is in flight. -/
def textQueued (s : State) : Bool := s.bus.queue.any fun f => f.kind == .text

/-- A unit HELD on the official stream. -/
def heldOfficial (u : TextUnit) : Bool := !u.released && decide (u.stream = .official)

/-- Leaving the floor at the end of a drain (R162). -/
def leaveFloor (s : State) : State :=
  match s.floor.partner with
  | some p =>
    enterOff (setHolder p (broadcast (.pass p (knownField s) (s.floor.cut.getD 0)) s))
  | none =>
    let s1 := broadcast (.floorFree (knownField s)) s
    enterOff (setFloor { s1.floor with withdrawn := true, holder := none } s1)

/-- The drain check (R162). -/
def drainCheck (s : State) : State :=
  if s.floor.state = .draining ∧ ¬ s.translator.history.any heldOfficial ∧ ¬ textQueued s then leaveFloor s else s

/-- The start time of the newest OFFICIAL unit of the history, or the local time (R160). -/
def cutTime (s : State) : Word :=
  ((s.translator.history.filter fun u => decide (u.stream = .official)).getLast?.map TextUnit.start).getD s.seq.clock

/-- The station goes to DRAINING with a cut time and makes the drain check (R160, R161). -/
def startDrain (s : State) : State :=
  drainCheck (setFloor { s.floor with state := .draining, cut := some (cutTime s), yieldTimer := none } s)

/-- The cut: only in YIELDING (R160). -/
def makeCut (s : State) : State := if s.floor.state = .yielding then startDrain s else s

/-- Text assembly reports the creation of a unit whose Speaker field is present (R160). -/
def speakerCreated (s : State) : State := if s.settings.autoCut then makeCut s else s

/-- The FREE command (R161). -/
def freeCommand (s : State) : State :=
  if inRun s && decide (s.floor.state = .on) then startDrain (setFloor { s.floor with partner := none } s) else s

/-- The YIELD command (R160). -/
def yieldCommand (s : State) : State := if inRun s then makeCut s else s

/-- The RELIEF command (R158); a station that leaves OFF stops its vacancy timer (R154). -/
def reliefCommand (s : State) : State :=
  if inRun s && decide (s.floor.state = .off) then
    match s.floor.holder with
    | some h =>
      if h = s.seq.addr then s
      else
        setFloor
          { s.floor with
            withdrawn := false, partner := some h, state := .requesting,
            reliefTimer := some (s.settings.relief * 1000), vacancyTimer := none }
          (sendTo h .reliefReq s)
    | none =>
      claimNow (setFloor { s.floor with withdrawn := false, claimWait := none, holdOff := none } s)
  else s

/-- Hand a class 0 or 1 frame outside the end of a drain: a TEXT it displaces may end the drain (R130, R162). -/
def urgent (hand : State → State) (s : State) : State := drainCheck (hand s)

end Sys2Proof.Machine
end

