-- ==== Sys2Proof/Machine/Text.lean ====
section
/-! DEFINITION. Text assembly as arithmetic on text: reading entry text, spacing, case, speaker labels, numbers and
untranslates (R65 to R67, R72 to R83). -/

namespace Sys2Proof.Machine

/-! ### Reading entry text (R72, R73) -/

/-- The control codes of spec/12 that have a name, SPEAKER apart. -/
inductive Code where
  | attach | cap | lower | para | glue
  | defOpen | defSep | defClose | relief | yieldCut | free | recordOff | recordOn | ack
  deriving DecidableEq, Repr

def Code.ofByte : Nat → Option Code
  | 0x01 => some .attach
  | 0x02 => some .cap
  | 0x03 => some .lower
  | 0x04 => some .para
  | 0x06 => some .glue
  | 0x08 => some .defOpen
  | 0x09 => some .defSep
  | 0x0A => some .defClose
  | 0x0B => some .relief
  | 0x0C => some .yieldCut
  | 0x0D => some .free
  | 0x0E => some .recordOff
  | 0x0F => some .recordOn
  | 0x10 => some .ack
  | _ => none

/-- A format code of R74 (the SPEAKER code is a token of its own). -/
def Code.isFormat : Code → Bool
  | .attach | .cap | .lower | .para | .glue => true
  | _ => false

/-- A literal byte of R72: 0x20..0x7E or 0xA0..0xFF. -/
def isLiteral (b : Byte) : Bool := definable b

/-- What entry text consists of, once dropped bytes and ignored codes are gone. -/
inductive Token where
  | lit (b : Byte)
  | code (c : Code)
  | speaker (n : Nat)
  deriving DecidableEq, Repr

/-- Reading entry text byte by byte (R72). -/
def tokens : List Byte → List Token
  | [] => []
  | b :: rest =>
    if b = 0x05 then
      match rest with
      | [] => []
      | n :: rest => if 1 ≤ n.toNat ∧ n.toNat ≤ 15 then .speaker n.toNat :: tokens rest else tokens rest
    else if isLiteral b then .lit b :: tokens rest
    else
      match Code.ofByte b.toNat with
      | some c => .code c :: tokens rest
      | none => tokens rest

def Token.isLit : Token → Bool
  | .lit _ => true
  | _ => false

def Token.byte? : Token → Option Byte
  | .lit b => some b
  | _ => none

/-- The literal characters of a text. -/
def literals (ts : List Token) : List Byte := ts.filterMap Token.byte?

/-- The codes before the first literal character; every code of a text with none (R73). -/
def leading (ts : List Token) : List Token := ts.takeWhile fun t => !t.isLit

/-- What follows the last literal character; nothing in a text with none (R73). -/
def trailing (ts : List Token) : List Token :=
  if ts.any Token.isLit then (ts.reverse.takeWhile fun t => !t.isLit).reverse else []

def holds (c : Code) (ts : List Token) : Bool := ts.contains (.code c)

/-- The speaker of the last applied SPEAKER code of the leading place (R74). -/
def leadingSpeaker (ts : List Token) : Option Nat :=
  (leading ts).foldl (fun acc t => match t with | .speaker n => some n | _ => acc) none

/-- The command codes of a text, in text order. -/
def commandsOf (ts : List Token) : List Code :=
  ts.filterMap fun t => match t with
    | .code c => if c.isFormat then none else some c
    | _ => none

/-- A command other than DEF_OPEN, DEF_SEP and DEF_CLOSE. -/
def Code.isPlainCommand : Code → Bool
  | .defOpen | .defSep | .defClose => false
  | c => !c.isFormat

/-- Commands handed before the unit: those of the leading place (R75). -/
def commandsBefore (ts : List Token) : List Code :=
  (commandsOf (leading ts)).filter Code.isPlainCommand

/-- Commands handed after the unit: the others, and DEF_OPEN wherever it stands (R75). -/
def commandsAfter (ts : List Token) : List Code :=
  (commandsOf (leading ts)).filter (· == .defOpen) ++
    (commandsOf (ts.drop (leading ts).length)).filter fun c => c.isPlainCommand || c == .defOpen

/-! ### Case (R78, R79) -/

def isUpper (b : Byte) : Bool :=
  (0x41 ≤ b.toNat && b.toNat ≤ 0x5A) || (0xC0 ≤ b.toNat && b.toNat ≤ 0xDE && b.toNat != 0xD7)

def isLower (b : Byte) : Bool :=
  (0x61 ≤ b.toNat && b.toNat ≤ 0x7A) || (0xE0 ≤ b.toNat && b.toNat ≤ 0xFE && b.toNat != 0xF7)

def isLetter (b : Byte) : Bool := isUpper b || isLower b

/-- The action of a cap mode on a letter (R78). -/
def CapMode.act (m : CapMode) (b : Byte) : Byte :=
  match m with
  | .none => b
  | .capNext => if isLower b then b - 0x20 else b
  | .lowerNext => if isUpper b then b + 0x20 else b

/-- The case walk under way: mode, whether a code of this text set it, whether the first letter is passed, characters
so far in order. -/
structure CaseWalk where
  mode : CapMode
  byCode : Bool
  passed : Bool
  chars : List Byte
  deriving DecidableEq, Repr

def CaseWalk.step (w : CaseWalk) : Token → CaseWalk
  | .lit b =>
    if isLetter b && !w.passed then
      { mode := .none, byCode := false, passed := true, chars := w.chars ++ [w.mode.act b] }
    else { w with chars := w.chars ++ [b] }
  | .code .cap => { w with mode := .capNext, byCode := true }
  | .code .lower => { w with mode := .lowerNext, byCode := true }
  | _ => w

/-- The case walk through a text from a cap mode (R78). -/
def caseWalk (m : CapMode) (ts : List Token) : CaseWalk := ts.foldl CaseWalk.step ⟨m, false, false, []⟩

/-- A sentence end of R79. -/
def endsSentence (b : Byte) : Bool := b == 0x2E || b == 0x3F || b == 0x21

/-- The tokens after the k-th literal character of a text. -/
def afterLiteral : Nat → List Token → List Token
  | 0, ts => ts
  | _ + 1, [] => []
  | k + 1, .lit _ :: ts => afterLiteral k ts
  | k + 1, _ :: ts => afterLiteral (k + 1) ts

/-! ### Assembly of an ENTRY text (R76 to R81, R83) -/

/-- At most 120 characters are kept (R81). -/
def textLimit : Nat := 120

/-- What text assembly makes of an entry's text under a formatting state. -/
structure Assembled where
  kind : UnitKind
  text : List Byte
  spaceBefore : Bool
  paragraph : Bool
  truncated : Bool
  speaker : Option Nat
  after : Formatting
  deriving DecidableEq, Repr

/-- The characters of label n that are characters (R80). -/
def labelChars (labels : List (List Byte)) (n : Nat) : List Byte := (labels.getD (n - 1) []).filter isLiteral

/-- The space-before flag of a unit with characters (R77). -/
def takesSpace (f : Formatting) (first attachLead glue : Bool) : Bool :=
  !first && !f.attachNext && !attachLead && !(glue && f.glueLast)

/-- The cap mode a WORD unit leaves (R78 to R80). `label` counts the label's characters. -/
def capAfterWord (ts : List Token) (w : CaseWalk) (speaker : Option Nat) (label : Nat) : CapMode :=
  let kept := min w.chars.length (textLimit - label)
  let lastKept := (w.chars.take kept).getLast?
  let codeAfter := (afterLiteral kept ts).any fun t => t == .code .cap || t == .code .lower
  if (lastKept.map endsSentence).getD false then (if codeAfter then w.mode else .capNext)
  else if speaker.isSome then (if w.byCode then w.mode else .capNext)
  else w.mode

/-- A WORD unit (R77 to R81, R83). -/
def assembleWord (f : Formatting) (ts : List Token) (speaker : Option Nat) (label : List Byte) : Assembled :=
  let w := caseWalk f.cap ts
  let lead := leading ts
  let first := f.paragraphStart || holds .para lead || speaker.isSome
  let glue := holds .glue ts
  let chars := label ++ w.chars
  { kind := .word
    text := chars.take textLimit
    spaceBefore := takesSpace f first (holds .attach lead) glue
    paragraph := first
    truncated := decide (textLimit < chars.length)
    speaker := speaker
    after :=
      { cap := capAfterWord ts w speaker label.length
        attachNext := holds .attach (trailing ts) || w.chars.isEmpty
        glueLast := glue
        speaker := speaker <|> f.speaker
        paragraphStart := holds .para (trailing ts) } }

/-- A FORMAT unit: it changes only what its codes set (R80, R83). -/
def assembleFormat (f : Formatting) (ts : List Token) (speaker : Option Nat) : Assembled :=
  let w := caseWalk f.cap ts
  { kind := .format
    text := []
    spaceBefore := false
    paragraph := false
    truncated := false
    speaker := speaker
    after :=
      { cap := if w.byCode then w.mode else if speaker.isSome then .capNext else f.cap
        attachNext := f.attachNext || holds .attach ts
        glueLast := f.glueLast || holds .glue ts
        speaker := speaker <|> f.speaker
        paragraphStart := f.paragraphStart || holds .para ts || speaker.isSome } }

/-- A format code in effect anywhere in the text (R76). -/
def hasFormat (ts : List Token) : Bool :=
  ts.any fun t => match t with
    | .code c => c.isFormat
    | .speaker _ => true
    | .lit _ => false

/-- What an ENTRY resolution becomes (R76): none when it is commands only. -/
def assembleEntry (labels : List (List Byte)) (f : Formatting) (text : List Byte) : Option Assembled :=
  let ts := tokens text
  let speaker := leadingSpeaker ts
  let label := (speaker.map (labelChars labels)).getD []
  if (literals ts).isEmpty && label.isEmpty then
    if !hasFormat ts && !(commandsOf ts).isEmpty then none else some (assembleFormat f ts speaker)
  else some (assembleWord f ts speaker label)

/-! ### NUMBER, UNTRAN and GAP units (R82) -/

def assembleNumber (f : Formatting) (digits : List Byte) : Assembled :=
  { kind := .number, text := digits, spaceBefore := takesSpace f f.paragraphStart false true,
    paragraph := f.paragraphStart, truncated := false, speaker := none,
    after := { f with attachNext := false, paragraphStart := false, glueLast := true } }

def assembleUntran (f : Formatting) (letters : List Byte) : Assembled :=
  { kind := .untran, text := letters, spaceBefore := takesSpace f f.paragraphStart false false,
    paragraph := f.paragraphStart, truncated := false, speaker := none,
    after := { f with attachNext := false, paragraphStart := false, glueLast := false } }

def assembleGap (f : Formatting) : Assembled :=
  { kind := .gap, text := [], spaceBefore := true, paragraph := false, truncated := false, speaker := none,
    after := { f with attachNext := false, glueLast := false } }

/-! ### Number conversion (R65, R66) -/

def charByte (c : Char) : Byte := BitVec.ofNat 8 c.toNat

def chars (t : String) : List Byte := t.toList.map charByte

/-- Digit keys in steno order with their digits (R65). -/
def digitKeys : List (Nat × Char) :=
  [(1, '1'), (2, '2'), (4, '3'), (6, '4'), (8, '5'), (9, '0'), (13, '6'), (15, '7'), (17, '8'), (19, '9')]

/-- Excluded keys K-, W-, R-, *, -R, -B, -G, -S, -D (R65). -/
def excludedKeys : List Nat := [3, 5, 7, 10, 14, 16, 18, 20, 21]

def digitString (k : KeySet) : List Byte :=
  (digitKeys.filter fun d => k.getLsbD d.1).map fun d => charByte d.2

/-- Number conversion of one key set (R65, R66); none: it fails. -/
def convertNumber (k : KeySet) : Option (List Byte) :=
  let digits := digitString k
  let e := k.getLsbD 11
  let u := k.getLsbD 12
  if !k.getLsbD 0 || excludedKeys.any (fun p => k.getLsbD p) || e != u || digits.isEmpty then none
  else some ((if e then digits.reverse else digits) ++ (if k.getLsbD 22 then chars "00" else []))

/-! ### Untranslate text (R67) -/

/-- The character of each position in steno order. -/
def stenoLetters : List Char :=
  ['#', 'S', 'T', 'K', 'P', 'W', 'H', 'R', 'A', 'O', '*', 'E', 'U', 'F', 'R', 'P', 'B', 'L', 'G', 'T', 'S', 'D', 'Z']

/-- The letters of the keys present among some positions. -/
def lettersOf (k : KeySet) (positions : List Nat) : List Byte :=
  (positions.filter fun p => k.getLsbD p).map fun p => charByte (stenoLetters.getD p '#')

/-- The untranslate text of a key set, with the hyphen of R67. -/
def untranslate (k : KeySet) : List Byte :=
  let left := lettersOf k (List.range 8)
  let middle := lettersOf k [8, 9, 10, 11, 12]
  let right := lettersOf k [13, 14, 15, 16, 17, 18, 19, 20, 21, 22]
  left ++ middle ++ (if middle.isEmpty && !right.isEmpty then chars "-" else []) ++ right

/-! ### Text of a definition: pieces and retranslation (R103, R107) -/

/-- A definition's stored text assembled from a snapshot (R107): literal characters only, R77 to R79. -/
def assembleStored (f : Formatting) (text : List Byte) : Assembled :=
  assembleWord f (text.map .lit) none []

/-- The characters of the text buffer. -/
def Capture.chars (c : Capture) : List Byte := c.pieces.flatMap Piece.chars

/-- One piece joins the text buffer (R103): its characters, whether it is glue or number, the leading attach, and the
buffer state it leaves. -/
def Capture.addPiece (c : Capture) (strokes : List Word) (chars : List Byte) (glue attachLead : Bool)
    (after : BufferState) : Capture :=
  let space :=
    !c.chars.isEmpty && !chars.isEmpty && !c.buffer.attachNext && !attachLead && !(glue && c.buffer.glueLast)
  let all := (if space then Sys2Proof.Machine.chars " " else []) ++ chars
  let piece : Piece := ⟨strokes, all.take (textLimit - c.chars.length), c.buffer⟩
  { c with pieces := c.pieces ++ [piece], buffer := after }

/-- The piece of an ENTRY resolution (R103). A piece without characters changes only what its codes set, as a FORMAT
unit does (R83). -/
def Capture.entryPiece (c : Capture) (strokes : List Word) (text : List Byte) : Capture :=
  let ts := tokens text
  let w := caseWalk c.buffer.cap ts
  let glue := holds .glue ts
  let after : BufferState :=
    if w.chars.isEmpty then
      ⟨w.mode, c.buffer.attachNext || holds .attach ts, c.buffer.glueLast || glue⟩
    else ⟨w.mode, holds .attach (trailing ts), glue⟩
  c.addPiece strokes w.chars glue (holds .attach (leading ts)) after

/-- The piece of a NUMBER resolution. -/
def Capture.numberPiece (c : Capture) (strokes : List Word) (digits : List Byte) : Capture :=
  c.addPiece strokes digits true false ⟨c.buffer.cap, false, true⟩

/-- The piece of an UNTRAN resolution. -/
def Capture.untranPiece (c : Capture) (strokes : List Word) (letters : List Byte) : Capture :=
  c.addPiece strokes letters false false ⟨c.buffer.cap, false, false⟩

end Sys2Proof.Machine
end

