-- ==== Sys2Proof/Machine/Release.lean ====
section
/-! DEFINITION. The release unit and the translation history: hold-back, release, numbering, creation of units,
capacity, undo, record state (R84 to R88, R109 to R124). -/

namespace Sys2Proof.Machine

def setHistory (h : List TextUnit) (s : State) : State :=
  { s with translator := { s.translator with history := h } }

/-! ### Frames of units (R116) -/

def textBody (u : TextUnit) (seq : Word) (resumed : Bool) : TextBody :=
  { seq := seq, unit := u.number, start := u.start, spaceBefore := u.spaceBefore, paragraph := u.paragraph,
    marked := u.marked, offRecord := u.offRecord, truncated := u.truncated, gap := u.gap, resumed := resumed,
    speaker := u.speaker, text := u.text }

/-- TEXT carries bit 3 as 0 (spec/12). -/
def textFrame (u : TextUnit) (seq : Word) (resumed : Bool) : Msg :=
  .text { textBody u seq resumed with offRecord := false }

/-- SHADOW carries bit 6 as 0 (spec/12). -/
def shadowFrame (u : TextUnit) (seq : Word) : Msg := .shadow (textBody u seq false)

/-! ### Numbering (R114, R115) -/

/-- The next official sequence: one more than the known, an absent known counting as 0 (R114). -/
def nextOfficial (known : Option Word) : Word := succNonzero (known.getD 0)

/-! ### Hold-back and release (R112, R113) -/

/-- The unit is due (R112). -/
def due (s : State) (u : TextUnit) : Bool := decide ((s.settings.holdBack : Int) ≤ interval u.created s.seq.clock)

/-- The oldest HELD unit with its place. -/
def oldestHeld (h : List TextUnit) : Option (Nat × TextUnit) :=
  h.zipIdx.findSome? fun p => if p.1.released then none else some (p.2, p.1)

/-- One release of the unit at a place, whatever remains of its delay: number, RELEASED, frame, report (R113 steps 1 to
4, R114 to R117). A PENDING unit is never given here; it would be passed over without a number. -/
def releaseUnit (i : Nat) (u : TextUnit) (s : State) : State :=
  let mark (seq : Option Word) := setHistory (s.translator.history.set i { u with released := true, seq := seq }) s
  match u.kind, u.stream with
  | .format, _ => drainCheck (mark none)
  | _, .official =>
    let n := nextOfficial s.release.known
    let s1 := mark (some n)
    drainCheck <| broadcast (textFrame u n s.release.known.isNone)
      { s1 with release := { s1.release with known := some n } }
  | _, .shadow =>
    let n := s.release.nextShadow
    let s1 := mark (some n)
    drainCheck <| broadcast (shadowFrame u n)
      { s1 with release := { s1.release with nextShadow := succNonzero n } }
  | _, .pending => drainCheck (mark none)

/-- The release check, repeated after each release for the next unit (R113). -/
def releaseDue : Nat → State → State
  | 0, s => s
  | n + 1, s =>
    match oldestHeld s.translator.history with
    | none => s
    | some (i, u) =>
      if s.release.active && due s u && decide (u.stream ≠ .pending) then releaseDue n (releaseUnit i u s) else s

/-- The hold-back timer for the oldest HELD unit (R112): running while it is not due and release is active. -/
def armHold (s : State) : State :=
  let timer :=
    match oldestHeld s.translator.history with
    | none => none
    | some (_, u) =>
      if s.release.active && !due s u then
        some ((s.settings.holdBack : Int) - interval u.created s.seq.clock).toNat
      else none
  { s with release := { s.release with holdTimer := timer } }

/-- The release check of R113, then the hold-back timer. Each release leaves one unit fewer HELD, so the history's
length is fuel enough. -/
def settle (s : State) : State := armHold (releaseDue s.translator.history.length s)

/-! ### Creation of a unit (R84 to R86, R110) -/

/-- The stream of a new unit (R110). -/
def streamFor (s : State) : Stream :=
  if s.seq.phase = .run ∧ s.release.recordOn then
    match s.floor.state with
    | .on | .yielding => .official
    | .draining | .off => .shadow
    | .claiming | .requesting => .pending
  else .shadow

/-- The oldest unit, HELD, is released whatever remains of its delay; a PENDING one as SHADOW; with release suspended
with no sequence and no frame (R86, R117). -/
def forceOldest (u : TextUnit) (s : State) : State :=
  if s.release.active then
    releaseUnit 0 { u with stream := if u.stream = .pending then .shadow else u.stream } s
  else setHistory (s.translator.history.set 0 { u with released := true }) s

/-- The oldest unit leaves the history (R86). -/
def dropOldest (s : State) : State := setHistory s.translator.history.tail s

/-- The capacity rule: at 32 units the oldest leaves, released first when it is HELD (R86). DESIGN CHOICE (unsafe): the
drain check for the removal (R162) comes before the release check for the new oldest HELD unit (R112), which the rules
give no order (log entry 28). -/
def makeRoom (s : State) : State :=
  match s.translator.history with
  | [] => s
  | u :: _ =>
    if s.translator.history.length < 32 then s
    else if u.released then dropOldest s
    else settle (drainCheck (dropOldest (forceOldest u s)))

/-- The mark-next latch is taken up by a unit of any kind but FORMAT (R84). -/
def takesMark (k : UnitKind) : Bool := decide (k ≠ .format)

/-- The record of a new unit (R84, R110). -/
def newUnit (a : Assembled) (strokes : List Word) (start : Word) (gap : Option Nat) (s : State) : TextUnit :=
  { number := s.translator.nextUnit, kind := a.kind, strokes := strokes, start := start, created := s.seq.clock,
    text := a.text, spaceBefore := a.spaceBefore, paragraph := a.paragraph,
    marked := s.translator.markNext && takesMark a.kind, offRecord := !s.release.recordOn,
    truncated := a.truncated, gap := gap, speaker := a.speaker, snapshot := s.translator.formatting,
    stream := streamFor s, released := false, seq := none }

/-- A unit joins the history; formatting state, latch and next number follow (R83 to R85). -/
def appendUnit (u : TextUnit) (f : Formatting) (s : State) : State :=
  { s with
    translator :=
      { s.translator with
        history := s.translator.history ++ [u], formatting := f
        markNext := s.translator.markNext && !takesMark u.kind
        nextUnit := succNonzero s.translator.nextUnit } }

/-- What the creation of a unit is reported to: FEEDBACK for an UNTRAN, the floor controller for a speaker (R84). -/
def reportUnit (u : TextUnit) (s : State) : State :=
  let s := if u.kind = .untran then requestPattern .untran s else s
  if u.speaker.isSome then speakerCreated s else s

/-- Creation of a unit from its assembly: record, history, formatting state, latch, reports, and the release check where
the unit becomes the oldest HELD one (R84 to R86, R110, R112). -/
def createUnit (a : Assembled) (strokes : List Word) (start : Word) (gap : Option Nat) (s : State) : State :=
  let s := makeRoom s
  let u := newUnit a strokes start gap s
  let t := reportUnit u (appendUnit u a.after s)
  if (oldestHeld s.translator.history).isSome then t else settle t

/-! ### Undo in the history (R87, R88, R121) -/

/-- A retraction of a released unit's sequence (R121). -/
def retract (u : TextUnit) (s : State) : State :=
  match u.released, u.seq with
  | true, some n => broadcast (.retract (decide (u.stream = .official)) n) s
  | _, _ => s

/-- The hold-back timer stops when the HELD tail is empty (R112). -/
def stopHold (s : State) : State :=
  if (oldestHeld s.translator.history).isNone then { s with release := { s.release with holdTimer := none } } else s

/-- After HELD units left the history: the drain check, and the timer (R112, R162). -/
def heldRemoved (s : State) : State := stopHold (drainCheck s)

/-- The newest unit leaves the history; its snapshot and its mark come back (R87). -/
def dropNewest (u : TextUnit) (s : State) : State :=
  { s with
    translator :=
      { s.translator with
        history := s.translator.history.dropLast, formatting := u.snapshot
        markNext := s.translator.markNext || u.marked } }

/-- Undo in the history (R87, R88). -/
def undoHistory (s : State) : State :=
  match s.translator.history.getLast? with
  | none => s
  | some u => if u.released then retract u (dropNewest u s) else heldRemoved (dropNewest u s)

/-! ### Record state (R122, R123) -/

/-- The record state takes a value; a change hands a RECORD note with its source. -/
def setRecord (on : Bool) (source : Station) (s : State) : State :=
  let s1 := { s with release := { s.release with recordOn := on } }
  if s.release.recordOn = on then s1 else handNote (.record on source) s1

/-- REC_OFF or REC_ON: in RUN a RECORD frame follows (R122). -/
def recordCommand (on : Bool) (s : State) : State :=
  urgent (broadcast (.record on)) (setRecord on s.seq.addr s)

/-! ### Streams changed at floor outcomes (R111, R157, R163, R167) -/

/-- The stream of every HELD unit of one stream is decided anew. -/
def restream (was : Stream) (now : TextUnit → Stream) (s : State) : State :=
  setHistory (s.translator.history.map fun u =>
    if !u.released && decide (u.stream = was) then { u with stream := now u } else u) s

end Sys2Proof.Machine
end

