-- ==== Sys2Proof/Machine/FloorEvents.lean ====
section
/-! DEFINITION. The floor controller's acts on frames, timers and absences, with the stream changes they make and the
release check that follows (R153 to R168). -/

namespace Sys2Proof.Machine

/-! ### Outcomes that end a claim or a request -/

/-- Every HELD PENDING unit becomes SHADOW and the station enters OFF (R157). -/
def pendingLost (s : State) : State := enterOff (restream .pending (fun _ => .shadow) s)

/-- A relief request ends without the floor: PENDING units SHADOW, the flag, then OFF (R165). -/
def requestEnded (f : Flag) (s : State) : State := enterOff (setFlag f (restream .pending (fun _ => .shadow) s))

/-- The claim hold-off starts, or restarts, from its full period (R156). -/
def startHoldOff (s : State) : State := setFloor { s.floor with holdOff := some (holdOffPeriod s) } s

/-- Every HELD PENDING unit becomes OFFICIAL and the station enters ON: a claim window ended unlost (R157). -/
def claimWon (s : State) : State := settle (enterOn (restream .pending (fun _ => .official) s))

/-- The conflict rule (R167): the higher address leaves the floor. -/
def conflict (a : Station) (s : State) : State :=
  if s.seq.addr < a then s
  else
    let s := restream .official (fun _ => .shadow) s
    let s := match s.floor.partner with
      | some p => sendTo p (.reliefBusy true) s
      | none => s
    settle (enterOff (setHolder a (setFlag .floorConflict s)))

/-- A TEXT from a, or a PRESENCE of a advertising a holding state (R153, R154, R157, R167). -/
def holdingHeard (a : Station) (s : State) : State :=
  if inRun s then
    match s.floor.state with
    | .off => holderShown a s
    | .claiming => settle (setHolder a (pendingLost s))
    | .requesting => setHolder a s
    | .on | .yielding | .draining => conflict a s
  else setHolder a s

/-! ### Floor frames -/

/-- A CLAIM from a (R153, R156, R157); its known has gone to the release unit. -/
def claimHeard (a : Station) (held : Bool) (s : State) : State :=
  if inRun s then
    match s.floor.state with
    | .off =>
      let s1 := if vacant s then startHoldOff (setFloor { s.floor with claimWait := none } s) else s
      if held then holderShown a s1 else s1
    | .claiming =>
      if held then settle (startHoldOff (setHolder a (pendingLost s)))
      else if a < s.seq.addr then settle (startHoldOff (pendingLost s))
      else s
    | .requesting => if held then setHolder a s else s
    | .on | .yielding | .draining => urgent heldReply s
  else if held then setHolder a s else s

/-- A RELIEF_REQ from a (R159). -/
def reliefAsked (a : Station) (s : State) : State :=
  if inRun s then
    match s.floor.state with
    | .on => enterYielding a s
    | .yielding | .draining =>
      if s.floor.partner = some a then s else urgent (sendTo a (.reliefBusy false)) s
    | .off | .claiming | .requesting => urgent (sendTo a (.reliefBusy true)) s
  else s

/-- A RELIEF_BUSY from a (R165). NOT_HOLDER clears the known holder where a is the known holder (R153), and vacancy is
then found at once; where the known holder is absent already, vacancy is left to the vacancy timer (log entry 34). -/
def reliefRefused (a : Station) (notHolder : Bool) (s : State) : State :=
  if inRun s ∧ s.floor.state = .requesting ∧ s.floor.partner = some a then
    let s1 := requestEnded .reliefRefused s
    settle (if notHolder ∧ s1.floor.holder = some a then vacancyFound (clearHolder s1) else s1)
  else s

/-- The streams of PENDING units at a gain by PASS, by the converted cut (R163). -/
def streamAtCut (cut : Word) (u : TextUnit) : Stream := if after u.start cut then .official else .shadow

/-- The floor is gained by a PASS from a (R119, R163): the cut is converted, the known set, the PENDING units split by
the cut, and ON entered. -/
def passGained (a : Station) (known cut : Word) (s : State) : State :=
  let c := convertTime s.peers a cut
  settle (enterOn (restream .pending (streamAtCut c.1) (passKnown known (setFlagIf (!c.2) .noOffset s))))

/-- A PASS from a naming this station (R119, R163). -/
def passTaken (a : Station) (known cut : Word) (s : State) : State :=
  if inRun s then
    match s.floor.state with
    | .off | .claiming | .requesting => passGained a known cut s
    | .on | .yielding | .draining => passKnown known s
  else clearHolder (passKnown known s)

/-- A PASS naming another station t (R153, R157, R164); the release unit has taken its sequence. -/
def passOther (t : Station) (s : State) : State :=
  if inRun s then
    match s.floor.state with
    | .off => holderShown t s
    | .claiming => settle (setHolder t (pendingLost s))
    | .requesting =>
      let s1 := setHolder t s
      if s1.floor.partner = some t then s1
      else
        let s2 := sendTo t .reliefReq s1
        setFloor { s2.floor with partner := some t } s2
    | .on | .yielding | .draining => s
  else setHolder t s

/-- The known holder, when it is a, is cleared. -/
def dropHolder (a : Station) (s : State) : State := if s.floor.holder = some a then clearHolder s else s

/-- A requester whose partner left the floor claims at once, its PENDING units kept (R164, R166). -/
def claimFromRequest (s : State) : State :=
  claimNow (setFloor { s.floor with reliefTimer := none, partner := none, holder := none } s)

/-- A FLOOR_FREE from a (R153, R164); the release unit has taken its sequence. -/
def floorFreed (a : Station) (s : State) : State :=
  if inRun s then
    match s.floor.state with
    | .off => if s.floor.holder = some a then vacancyFound (clearHolder s) else s
    | .claiming => dropHolder a s
    | .requesting => if s.floor.partner = some a then claimFromRequest s else dropHolder a s
    | .on | .yielding | .draining => s
  else dropHolder a s

/-! ### Absence (R166) -/

/-- The peer unit reports the absence of a (R153, R166). -/
def absenceReported (a : Station) (s : State) : State :=
  if inRun s then
    match s.floor.state with
    | .off => if s.floor.holder = some a then vacancyFound (clearHolder s) else s
    | .claiming => dropHolder a s
    | .requesting => if s.floor.partner = some a then claimFromRequest s else dropHolder a s
    | .on => s
    | .yielding =>
      if s.floor.partner = some a then setFloor { s.floor with yieldTimer := none, partner := none, state := .on } s
      else s
    | .draining => if s.floor.partner = some a then setFloor { s.floor with partner := none } s else s
  else dropHolder a s

/-- The absence check over the peer table, address by address (R144). -/
def absenceCheck (s : State) : State :=
  (List.range 16).foldl (fun s i =>
    let a := BitVec.ofNat 4 i
    let p := s.peers.record a
    if p.silent s.seq.clock (s.settings.loss * s.settings.presence) then absenceReported a (setPeer a p.gone s)
    else s) s

/-! ### Timers -/

/-- The vacancy timer expires in OFF (R154). -/
def vacancyExpired (s : State) : State :=
  let s1 := match shownHolder s.peers.table with
    | some h => setHolder h s
    | none => vacancyFound (clearHolder s)
  restartVacancy s1

/-- The claim wait ends (R155). -/
def claimWaitEnded (s : State) : State :=
  let s := setFloor { s.floor with claimWait := none } s
  if vacant s then claimNow s else s

/-- The claim hold-off ends (R156). -/
def holdOffEnded (s : State) : State := vacancyFound (setFloor { s.floor with holdOff := none } s)

/-- The relief timer expires in REQUESTING (R165). -/
def reliefExpired (s : State) : State := settle (requestEnded .reliefTimeout s)

end Sys2Proof.Machine
end

