-- ==== Sys2Proof/Machine/Lookup.lean ====
section
/-! DEFINITION. The lookup unit: outline hash, probe of a window, combined result (R42 to R49). -/

namespace Sys2Proof.Machine

/-! ### Lookup arithmetic (R44) -/

/-- The outline hash before folding: h starts as n and becomes h × 33 + si for each stroke. -/
def hashRun (outline : List KeySet) : Word :=
  outline.foldl (fun h k => h * 33 + BitVec.setWidth 32 k) (BitVec.ofNat 32 outline.length)

/-- The outline hash h (R44): the folding step XORs floor(h / 2^13) in. -/
def outlineHash (outline : List KeySet) : Word :=
  let h := hashRun outline
  h ^^^ (h >>> 13)

/-- The home slot in a window of T slots. -/
def homeSlot (h : Word) (slots : Nat) : Nat := h.toNat % slots

/-- The slot after this one, wrapping from T - 1 to 0. -/
def nextSlot (slots i : Nat) : Nat := (i + 1) % slots

/-- Slot values (spec/03): empty and deleted. -/
def emptySlot : Nat := 0xFFFFFFFF
def deletedSlot : Nat := 0xFFFFFFFE

def EntryKind.code : EntryKind → Nat
  | .word => 1
  | .wordCont => 2
  | .cont => 3

def EntryKind.ofCode : Nat → Option EntryKind
  | 1 => some .word
  | 2 => some .wordCont
  | 3 => some .cont
  | _ => none

/-! ### Windows -/

def Window.region : Window → RegionName
  | .w0 => .overlay
  | .w1 => .job
  | .w2 => .main

def LookupUnit.geometry (l : LookupUnit) : Window → Option Geometry
  | .w0 => l.w0
  | .w1 => l.w1
  | .w2 => l.w2

/-- What a completed read of a probe leads to: another read, or the end of the window's probe with its result and
whether DICT_BAD is set. -/
inductive ProbeStep where
  | more (p : Probe)
  | ended (text : Option (EntryKind × List Byte)) (cont bad : Bool)
  deriving DecidableEq, Repr

def ProbeStep.miss : ProbeStep := .ended none false false
def ProbeStep.bad : ProbeStep := .ended none false true

/-- The unit goes on to the next slot, unless the probe limit is reached (R44). -/
def probeOn (g : Geometry) (p : Probe) : ProbeStep :=
  if p.visited + 1 < g.probe then .more ⟨nextSlot g.slots p.slot, p.visited + 1, .slot⟩ else .miss

/-- The request of the next read, of `least` bytes at least: refused by the port, the entry or text is bad (R34, R44,
R45). -/
def requestRead (port : MemoryPort) (r : RegionName) (off least : Nat) (p : Probe) : ProbeStep :=
  if (port.readAt r off least).isSome then .more p else .bad

/-- A slot value has been read (R44): an offset has its entry read, kind and stroke count first. -/
def onSlot (port : MemoryPort) (r : RegionName) (g : Geometry) (p : Probe) : ProbeStep :=
  match port.readAt r (g.slotBase + 4 * p.slot) 4 with
  | none => .bad
  | some bytes =>
    let v := beNat bytes
    if v = emptySlot then .miss
    else if v = deletedSlot then probeOn g p
    else if g.heapSize ≤ v then .bad
    else requestRead port r (g.heapBase + v) 2 { p with read := .entry v }

/-- The result of a hit by kind, before its text is read: CONT reads no text (R45). -/
def onHit (port : MemoryPort) (r : RegionName) (g : Geometry) (p : Probe) (v n : Nat) (k : EntryKind) : ProbeStep :=
  match k with
  | .cont => .ended none true false
  | _ => requestRead port r (g.heapBase + v + 2 + 3 * n) 1 { p with read := .text v k }

/-- An entry's kind, stroke count and key sets have been read (R44). -/
def onEntry (port : MemoryPort) (r : RegionName) (g : Geometry) (outline : List KeySet) (p : Probe) (v : Nat) :
    ProbeStep :=
  match port.readAt r (g.heapBase + v) 2 with
  | none => .bad
  | some head =>
    let n := fieldAt head 1 1
    if n < 1 ∨ 8 < n then .bad
    else
      match EntryKind.ofCode (fieldAt head 0 1), port.readAt r (g.heapBase + v) (2 + 3 * n) with
      | some k, some bytes =>
        if rawKeys bytes 2 n = outline.map BitVec.toNat then onHit port r g p v n k else probeOn g p
      | _, _ => .bad

/-- The text length and the text have been read (R45). -/
def onText (port : MemoryPort) (r : RegionName) (g : Geometry) (outline : List KeySet) (v : Nat) (k : EntryKind) :
    ProbeStep :=
  let at3 := g.heapBase + v + 2 + 3 * outline.length
  match port.readAt r at3 1 with
  | none => .bad
  | some head =>
    let len := fieldAt head 0 1
    if 120 < len ∨ g.heapSize < v + 3 + 3 * outline.length + len then .bad
    else
      match port.readAt r at3 (1 + len) with
      | none => .bad
      | some bytes => .ended (some (k, bytes.drop 1)) (k == .wordCont) false

/-- The read that the probe waits for ends. -/
def probeStep (port : MemoryPort) (r : RegionName) (g : Geometry) (outline : List KeySet) (p : Probe) : ProbeStep :=
  match p.read with
  | .slot => onSlot port r g p
  | .entry v => onEntry port r g outline p v
  | .text v k => onText port r g outline v k

/-- A probe run to its end on reads that never wait: W0 in RAM (R41, R47). The fuel covers two reads for each slot
visited and the text. -/
def probeRam (port : MemoryPort) (r : RegionName) (g : Geometry) (outline : List KeySet) : Nat → Probe → ProbeStep
  | 0, _ => .miss
  | n + 1, p =>
    match probeStep port r g outline p with
    | .more q => probeRam port r g outline n q
    | e => e

/-- The first visit of a window's probe. -/
def firstProbe (g : Geometry) (h : Word) : Probe := ⟨homeSlot h g.slots, 0, .slot⟩

/-! ### The combined result (R47, R48) -/

/-- A window's result added to the partial result: text from the lowest-numbered window that has it, continuation from
any (R48). -/
def LookupResult.add (r : LookupResult) (w : Window) (text : Option (EntryKind × List Byte)) (cont : Bool) :
    LookupResult :=
  { text := r.text <|> text.map fun t => ⟨w, t.1, t.2⟩
    cont := r.cont || cont }

/-- Neither part of the result can change any more (R47). -/
def LookupResult.settled (r : LookupResult) : Bool := r.text.isSome && r.cont

/-- The windows still to be searched after one. -/
def Window.later : Window → List Window
  | .w0 => [.w1, .w2]
  | .w1 => [.w2]
  | .w2 => []

/-- The search with its probe at the first enabled window of a list; none enabled, the search is over (R47). -/
def nextWindow (l : LookupUnit) (q : Search) : List Window → Search
  | [] => { q with probe := none }
  | w :: ws =>
    match l.geometry w with
    | none => nextWindow l q ws
    | some g => { q with window := w, probe := some (firstProbe g q.hash) }

/-- A window's probe has ended: its result is added, and the next window is searched or the search is over (R47). -/
def windowEnded (l : LookupUnit) (q : Search) (text : Option (EntryKind × List Byte)) (cont : Bool) : Search :=
  let q := { q with result := q.result.add q.window text cont }
  if q.result.settled then { q with probe := none } else nextWindow l q q.window.later

def setSearch (q : Option Search) (s : State) : State := { s with lookup := { s.lookup with search := q } }

/-- One step of the search on a completed read. -/
def searchStep (s : State) (q : Search) (step : ProbeStep) : State :=
  match step with
  | .more p => setSearch (some { q with probe := some p }) s
  | .ended text cont bad => setFlagIf bad .dictBad (setSearch (some (windowEnded s.lookup q text cont)) s)

/-- Fuel for a W0 probe: two reads for each visited slot, one text. -/
def probeFuel (g : Geometry) : Nat := 2 * g.probe + 2

/-- The first window of a new search is entered; W0 is searched to its end at once, in RAM (R47). -/
def beginSearch (outline : List KeySet) (s : State) : State :=
  let q : Search := ⟨outline, outlineHash outline, .w0, none, ⟨none, false⟩⟩
  match s.lookup.w0 with
  | none => setSearch (some (nextWindow s.lookup q (Window.w0).later)) s
  | some g =>
    searchStep s q (probeRam s.port .overlay g outline (probeFuel g) (firstProbe g q.hash))

/-- The lookup unit takes the waiting request when it is IDLE and the inbox is empty (R46, R100); its first flash read
claims the flash (R39). -/
def takeRequest (s : State) : State :=
  match s.lookup.request, s.lookup.search with
  | some outline, none =>
    if s.inbox.isEmpty then
      arbitrate (beginSearch outline { s with lookup := { s.lookup with request := none } })
    else s
  | _, _ => s

/-- A flash read of the lookup ends (R36): the flash is FREE, the unit acts on the data, and the arbiter decides again. -/
def flashReadEnds (s : State) : State :=
  let s := { s with port := { s.port with flash := .free } }
  match s.lookup.search with
  | some q =>
    match q.probe, s.lookup.geometry q.window with
    | some p, some g => arbitrate (searchStep s q (probeStep s.port q.window.region g q.outline p))
    | _, _ => arbitrate s
  | none => arbitrate s

end Sys2Proof.Machine
end

