-- ==== Sys2Proof/Machine/Overlay.lean ====
section
/-! DEFINITION. The overlay manager: the overlay in RAM, store and delete, the definition inbox, retranslation
(R90 to R100, R106, R107). -/

namespace Sys2Proof.Machine

/-! ### The overlay region (R90, spec/12) -/

/-- The slot count T. -/
def overlaySlots (s : State) : Nat := 2 ^ s.settings.overlayLog2

/-- The heap size in bytes. -/
def overlayHeapSize (s : State) : Nat := s.settings.overlayHeap * 1024

/-- Where the heap begins in the region. -/
def overlayHeapBase (s : State) : Nat := 16 + 4 * overlaySlots s

/-- A field of the OVERLAY region, by a RAM read of the overlay manager (R32, R41). -/
def overlayField (s : State) (off n : Nat) : Nat := beNat (s.port.dataAt .overlay off n)

/-- A RAM write request of the overlay manager: done, or refused by the port with nothing changed (R32, R34, R41). -/
def overlayWrite (off : Nat) (bs : List Byte) (s : State) : State :=
  { s with port := { s.port with ramMem := s.port.ramAfter .overlay off bs } }

/-- The header's counts. -/
structure OverlayCounts where
  used : Nat
  live : Nat
  deleted : Nat
  deriving DecidableEq, Repr

def readCounts (s : State) : OverlayCounts := ⟨overlayField s 4 4, overlayField s 8 2, overlayField s 10 2⟩

/-- Bytes 0..11 of a header. -/
def headerFields (slots : Nat) (c : OverlayCounts) : List Byte :=
  beBytes 4 slots ++ beBytes 4 c.used ++ beBytes 2 c.live ++ beBytes 2 c.deleted

/-- The 16 bytes of a header, with its CRC good, or inverted inside a change (R92). -/
def headerBytes (slots : Nat) (c : OverlayCounts) (good : Bool) : List Byte :=
  let body := headerFields slots c
  let crc := crc16 (byteBits body)
  body ++ [0, 0] ++ beBytes 2 (if good then crc else ~~~crc).toNat

def writeHeader (c : OverlayCounts) (good : Bool) (s : State) : State :=
  overlayWrite 0 (headerBytes (overlaySlots s) c good) s

/-- The keep test of R91 on a pin reset. -/
def overlayKept (s : State) : Bool :=
  let bs := s.port.dataAt .overlay 0 16
  let c := readCounts s
  decide (fieldAt bs 14 2 = (crc16 (byteBits (bs.take 12))).toNat) && decide (fieldAt bs 0 4 = overlaySlots s) &&
    decide (c.used ≤ overlayHeapSize s) && decide (c.live + c.deleted ≤ overlaySlots s)

/-- The RAM write of the empty value, 0xFFFFFFFF, into every slot, or its refusal (R34, R91). -/
def emptySlots (s : State) : State :=
  { s with port := { s.port with ramMem := s.port.ramBlanked .overlay 16 (4 * overlaySlots s) } }

/-- Clearing the overlay: every slot empty, then the header with zero counts (R91). -/
def clearOverlay (s : State) : State := writeHeader ⟨0, 0, 0⟩ true (emptySlots s)

/-- The geometry of W0 (R43). -/
def overlayGeometry (s : State) : Geometry :=
  ⟨overlaySlots s, s.settings.overlayProbe, 16, overlayHeapBase s, overlayHeapSize s⟩

/-! ### Entries (R90, R93) -/

/-- Bytes rounded up to a multiple of 4. -/
def roundUp4 (n : Nat) : Nat := (n + 3) / 4 * 4

/-- The heap bytes of an entry (R90). -/
def entrySize (strokes len : Nat) : Nat := roundUp4 (4 + 3 * strokes + len)

/-- The bytes of an overlay entry, padding included. -/
def entryBytes (k : EntryKind) (outline : List KeySet) (text : List Byte) (count : Nat) : List Byte :=
  let bs := beBytes 1 k.code ++ beBytes 1 outline.length ++ outline.flatMap (fun o => beBytes 3 o.toNat) ++
    beBytes 1 text.length ++ text ++ beBytes 1 count
  bs ++ List.replicate (entrySize outline.length text.length - bs.length) 0

/-- The value of a slot. -/
def slotValue (s : State) (i : Nat) : Nat := overlayField s (16 + 4 * i) 4

def writeSlotValue (i v : Nat) (s : State) : State := overlayWrite (16 + 4 * i) (beBytes 4 v) s

/-- A field of the entry at a heap offset. -/
def entryField (s : State) (v off n : Nat) : Nat := overlayField s (overlayHeapBase s + v + off) n

/-- The entry at a heap offset holds text: its kind is WORD or WORD_CONT (R93). -/
def entryHasText (s : State) (v : Nat) : Bool := entryField s v 0 1 != EntryKind.cont.code

/-- Where the prefix count of an entry lies in it (spec/12). -/
def countPlace (s : State) (v : Nat) : Nat :=
  let n := entryField s v 1 1
  3 + 3 * n + entryField s v (2 + 3 * n) 1

def prefixCount (s : State) (v : Nat) : Nat := entryField s v (countPlace s v) 1

/-- The entry at a heap offset is that of an outline. -/
def entryIs (s : State) (outline : List KeySet) (v : Nat) : Bool :=
  match s.port.readAt .overlay (overlayHeapBase s + v) (2 + 3 * outline.length) with
  | none => false
  | some bs =>
    decide (fieldAt bs 1 1 = outline.length) && decide (rawKeys bs 2 outline.length = outline.map BitVec.toNat)

/-! ### Finding outlines (R94) -/

inductive Found where
  /-- the outline's entry: its slot and heap offset -/
  | entry (slot offset : Nat)
  /-- absent, with the first free slot visited -/
  | absent (free : Option Nat)
  deriving DecidableEq, Repr

/-- The search for one outline over `n` more slots from slot `i`; slots in `taken` count as taken (R94). -/
def findFrom (s : State) (outline : List KeySet) (taken : List Nat) : Nat → Nat → Option Nat → Found
  | 0, _, free => .absent free
  | n + 1, i, free =>
    let next := nextSlot (overlaySlots s) i
    if taken.contains i then findFrom s outline taken n next free
    else
      let v := slotValue s i
      if v = emptySlot then .absent (free <|> some i)
      else if v = deletedSlot then findFrom s outline taken n next (free <|> some i)
      else if entryIs s outline v then .entry i v
      else findFrom s outline taken n next free

def findOutline (s : State) (outline : List KeySet) (taken : List Nat) : Found :=
  findFrom s outline taken s.settings.overlayProbe (homeSlot (outlineHash outline) (overlaySlots s)) none

/-- The proper prefixes P1 .. Pn-1, shortest first. -/
def properPrefixes (outline : List KeySet) : List (List KeySet) :=
  (List.range (outline.length - 1)).map fun k => outline.take (k + 1)

/-- The search for several outlines in order, each absent one taking its free slot before the next is searched (R94). -/
def findAll (s : State) : List (List KeySet) → List Nat → List (List KeySet × Found)
  | [], _ => []
  | o :: os, taken =>
    let f := findOutline s o taken
    let taken := match f with
      | .absent (some i) => i :: taken
      | _ => taken
    (o, f) :: findAll s os taken

/-- What a store finds, in the order P1 .. Pn-1, O; the search order is Pn-1 .. P1, O (R94). -/
def storePlan (s : State) (outline : List KeySet) : List (List KeySet × Found) :=
  match (findAll s ((properPrefixes outline).reverse ++ [outline]) []).reverse with
  | [] => []
  | o :: rest => rest ++ [o]

def Found.isAbsent : Found → Bool
  | .absent _ => true
  | _ => false

def Found.noPlace : Found → Bool
  | .absent none => true
  | _ => false

/-! ### The capacity check (R95) -/

/-- O has text before the store. -/
def hasText (s : State) : Found → Bool
  | .entry _ v => entryHasText s v
  | .absent _ => false

/-- The entries a store would create. -/
def createdCount (plan : List (List KeySet × Found)) : Nat := plan.countP fun p => p.2.isAbsent

/-- The heap bytes a store would append: O's new entry and each prefix entry created (R95). -/
def appendedBytes (plan : List (List KeySet × Found)) (outline : List KeySet) (len : Nat) : Nat :=
  entrySize outline.length len +
    ((plan.dropLast.filter fun p => p.2.isAbsent).map fun p => entrySize p.1.length 0).sum

/-- An existing proper prefix whose prefix count is 255. -/
def saturatedPrefix (s : State) (plan : List (List KeySet × Found)) : Bool :=
  plan.dropLast.any fun p => match p.2 with
    | .entry _ v => prefixCount s v == 255
    | .absent _ => false

/-- The store is refused (R95). -/
def storeRefused (s : State) (plan : List (List KeySet × Found)) (outline : List KeySet) (len : Nat) : Bool :=
  let c := readCounts s
  let had := ((plan.getLast?).map fun p => hasText s p.2).getD false
  decide (overlaySlots s * 3 / 4 < c.live + c.deleted + createdCount plan) ||
    decide (overlayHeapSize s < c.used + appendedBytes plan outline len) ||
    (!had && saturatedPrefix s plan) ||
    plan.any fun p => p.2.noPlace

/-! ### Storing (R96) -/

/-- The kind of an entry by its text and prefix count (R93). -/
def kindFor (text : Bool) (count : Nat) : EntryKind :=
  if !text then .cont else if count = 0 then .word else .wordCont

/-- The prefix count of an entry is written, and its kind rewritten (R96 steps 3 and 4, R97 step 2). -/
def writeCount (v count : Nat) (s : State) : State :=
  let text := entryHasText s v
  let s1 := overlayWrite (overlayHeapBase s + v + countPlace s v) (beBytes 1 count) s
  overlayWrite (overlayHeapBase s + v) (beBytes 1 (kindFor text count).code) s1

/-- A new entry is appended at the heap's used end and its slot takes its offset; the counts follow (R96 steps 1, 2, 5). -/
def appendEntry (k : EntryKind) (outline : List KeySet) (text : List Byte) (count slot : Nat)
    (p : OverlayCounts × State) : OverlayCounts × State :=
  let (c, s) := p
  let s1 := overlayWrite (overlayHeapBase s + c.used) (entryBytes k outline text count) s
  ({ c with used := c.used + entrySize outline.length text.length }, writeSlotValue slot c.used s1)

/-- The counts after an entry took a free slot. -/
def countCreated (s : State) (slot : Nat) (c : OverlayCounts) : OverlayCounts :=
  { c with live := c.live + 1, deleted := if slotValue s slot = deletedSlot then c.deleted - 1 else c.deleted }

/-- A prefix entry is created where the plan found none (R96 step 1). -/
def createPrefix (p : List KeySet × Found) (x : OverlayCounts × State) : OverlayCounts × State :=
  match p.2 with
  | .absent (some i) => appendEntry .cont p.1 [] 0 i (countCreated x.2 i x.1, x.2)
  | _ => x

/-- O's new entry is placed, taking the old entry's prefix count (R96 step 2). -/
def placeStored (p : List KeySet × Found) (text : List Byte) (x : OverlayCounts × State) : OverlayCounts × State :=
  match p.2 with
  | .entry i v =>
    let count := prefixCount x.2 v
    appendEntry (kindFor true count) p.1 text count i x
  | .absent (some i) => appendEntry .word p.1 text 0 i (countCreated x.2 i x.1, x.2)
  | .absent none => x

/-- The heap offsets of the prefixes' entries once the missing ones are created, from this used end on. -/
def entryOffsets : Nat → List (List KeySet × Found) → List Nat
  | _, [] => []
  | used, (_, .entry _ v) :: rest => v :: entryOffsets used rest
  | used, (o, .absent _) :: rest => used :: entryOffsets (used + entrySize o.length 0) rest

/-- The prefix count of the entry at a heap offset goes up by one (R96 step 3). -/
def raisePrefix (v : Nat) (s : State) : State := writeCount v (prefixCount s v + 1) s

/-- The writes of a store that passed its check, between the two header writes (R92, R96). -/
def writeStore (plan : List (List KeySet × Found)) (text : List Byte) (s : State) : State :=
  let c := readCounts s
  let s := writeHeader c false s
  match plan.getLast? with
  | none => s
  | some o =>
    let had := hasText s o.2
    let offsets := entryOffsets c.used plan.dropLast
    let (c, s) := placeStored o text (plan.dropLast.foldl (fun x p => createPrefix p x) (c, s))
    let s := if had then s else offsets.foldl (fun s v => raisePrefix v s) s
    writeHeader c true s

/-! ### Deleting (R97) -/

/-- A slot takes the deleted value; the counts follow. -/
def freeSlot (i : Nat) (p : OverlayCounts × State) : OverlayCounts × State :=
  ({ p.1 with live := p.1.live - 1, deleted := p.1.deleted + 1 }, writeSlotValue i deletedSlot p.2)

/-- The prefix count of a prefix's entry goes down by one (R97 step 2). -/
def lowerPrefix (prefixFound : Found) (x : OverlayCounts × State) : OverlayCounts × State :=
  match prefixFound with
  | .entry i v =>
    let count := prefixCount x.2 v - 1
    if count = 0 ∧ ¬ entryHasText x.2 v then freeSlot i (x.1, writeCount v count x.2)
    else (x.1, writeCount v count x.2)
  | .absent _ => x

/-- The writes of a delete of an entry with text (R92, R97). -/
def writeDelete (outline : List KeySet) (slot v : Nat) (s : State) : State :=
  let found := (properPrefixes outline).map fun p => findOutline s p []
  let c := readCounts s
  let s := writeHeader c false s
  let x :=
    if prefixCount s v = 0 then freeSlot slot (c, s)
    else (c, overlayWrite (overlayHeapBase s + v) (beBytes 1 EntryKind.cont.code) s)
  let (c, s) := found.foldl (fun x p => lowerPrefix p x) x
  writeHeader c true s

/-! ### Retranslation (R106, R107) -/

/-- A unit is the untranslate of a text. -/
def isUntranslate (u : TextUnit) (text : List Byte) : Bool := decide (u.kind = .untran) && decide (u.text = text)

/-- The run of n units from place i matches, unit by unit. -/
def runMatches (h : List TextUnit) (texts : List (List Byte)) (i : Nat) : Bool :=
  let run := (h.drop i).take texts.length
  run.length == texts.length && (run.zip texts).all fun p => isUntranslate p.1 p.2

/-- The place of the newest matching run (R106). -/
def newestRun (h : List TextUnit) (texts : List (List Byte)) : Option Nat :=
  (List.range h.length).reverse.find? fun i => runMatches h texts i

/-- The WORD unit that replaces a run (R107). -/
def retranslated (u : TextUnit) (run : List TextUnit) (text : List Byte) : TextUnit :=
  let a := assembleStored u.snapshot text
  { u with
    kind := .word, text := a.text, spaceBefore := a.spaceBefore, paragraph := a.paragraph,
    truncated := a.truncated, strokes := run.flatMap TextUnit.strokes, marked := run.any TextUnit.marked,
    speaker := none, gap := none }

/-- The REPLACE of the run's first unit, when it is RELEASED with a sequence (R107, R121). -/
def replaceFrame (u : TextUnit) (text : List Byte) (s : State) : State :=
  match u.released, u.seq with
  | true, some n => broadcast (.replace (decide (u.stream = .official)) n text) s
  | _, _ => s

/-- Retranslation of a stored outline (R106, R107). Where HELD units leave the history the drain check is made (R162), and
behind a RELEASED first unit the release check for the new oldest HELD unit (R112, R113). DESIGN CHOICE (unsafe): the
rules give the two no order; the drain check comes first (log entry 28). -/
def retranslate (outline : List KeySet) (text : List Byte) (s : State) : State :=
  let h := s.translator.history
  let texts := outline.map untranslate
  match newestRun h texts with
  | none => s
  | some i =>
    match (h.drop i).take texts.length with
    | [] => s
    | u :: us =>
      let new := retranslated u (u :: us) text
      let s := setHistory (h.take i ++ [new] ++ h.drop (i + texts.length)) s
      let s := us.foldl (fun s v => retract v s) (replaceFrame u new.text s)
      if us.any fun v => !v.released then (if u.released then settle (drainCheck s) else drainCheck s) else s

/-! ### Definitions stored and deleted (R95 to R98) -/

def setStale (s : State) : State := { s with translator := { s.translator with stale := true } }

/-- A store (R95 to R98); none: refused, with nothing changed. -/
def storeDefinition (outline : List KeySet) (text : List Byte) (source : Station) (s : State) : Option State :=
  let plan := storePlan s outline
  if storeRefused s plan outline text.length then none
  else
    some <| retranslate outline text <| setStale <|
      handNote (.define true (outline.headD 0) (outlineHash outline) outline.length source) (writeStore plan text s)

/-- A delete (R97, R98). -/
def deleteDefinition (outline : List KeySet) (source : Station) (s : State) : State :=
  match findOutline s outline [] with
  | .absent _ => s
  | .entry i v =>
    if entryHasText s v then
      setStale <|
        handNote (.define false (outline.headD 0) (outlineHash outline) outline.length source)
          (writeDelete outline i v s)
    else s

/-! ### Peer definitions (R99, R100) -/

/-- A peer definition is applied (R99 step 5). -/
def applyPeer (d : PeerDefinition) (s : State) : State :=
  if d.text.isEmpty then deleteDefinition d.outline d.source s
  else
    match storeDefinition d.outline d.text d.source s with
    | some s1 => s1
    | none => setFlag .overlayFull s

/-- A DEFINE arrives from a (R99). -/
def defineArrived (a : Station) (payload : List Byte) (s : State) : State :=
  if !(s.peers.record a).definitionsEnabled then s
  else
    match parseDefine payload with
    | none => setFlag .peerDefBad (disableDefinitions a s)
    | some (outline, text) =>
      if !s.seq.ramFit then setFlag .overlayFull s
      else if s.lookup.search.isSome || !s.inbox.isEmpty then
        if s.inbox.length < 4 then { s with inbox := s.inbox ++ [⟨a, outline, text⟩] }
        else setFlag .overlayFull s
      else applyPeer ⟨a, outline, text⟩ s

/-- The inbox is emptied, oldest first (R100). -/
def applyInbox (s : State) : State :=
  s.inbox.foldl (fun s d => applyPeer d s) { s with inbox := [] }

end Sys2Proof.Machine
end

