-- ==== Sys2Proof/Machine/Translate.lean ====
section
/-! DEFINITION. The translator: pending sequence, resolving, re-processing, forced resolution, stale results, overrun
markers, commands and definition capture (R50 to R64, R75, R76, R100 to R105). The event in flight is a list of work
items; `runWork` does them until one needs a lookup. -/

namespace Sys2Proof.Machine

def setCapture (c : Capture) (s : State) : State := { s with translator := { s.translator with capture := c } }

def setSequence (q : List PendingEntry) (s : State) : State :=
  { s with translator := { s.translator with sequence := q } }

/-! ### Definition capture (R101, R102, R104, R105) -/

/-- DEF_OPEN handed (R101): ignored outside NORMAL. -/
def openCapture (s : State) : State :=
  if s.translator.capture.state = .normal then setCapture { Capture.closed with state := .outline } s else s

/-- A definition is refused (R62, R102): the flag, both buffers empty, NORMAL. -/
def refuseCapture (s : State) : State := setFlag .defRefused (setCapture .closed s)

/-- The text entry of a lookup holds a DEF_SEP code (R102). -/
def isSeparator (r : LookupResult) : Bool := (r.text.map fun t => holds .defSep (tokens t.text)).getD false

/-- A stroke in DEF_OUTLINE with its lookup result (R102). -/
def outlineStroke (t : Taken) (r : LookupResult) (s : State) : State :=
  let c := s.translator.capture
  if isSeparator r then
    if c.outline.isEmpty then refuseCapture s
    else setCapture { c with state := .text, separator := some t } s
  else if c.outline.length < 8 then setCapture { c with outline := c.outline ++ [t] } s
  else refuseCapture s

/-- The DEFINE frame of an own definition (R104). -/
def sendDefine (outline : List KeySet) (text : List Byte) (s : State) : State :=
  broadcast (.define (definePayload outline text)) s

/-- The store or delete of a closed definition (R104). -/
def storeOwn (outline : List KeySet) (text : List Byte) (s : State) : State :=
  if !s.seq.ramFit then setFlag .defRefused s
  else if text.isEmpty then sendDefine outline text (deleteDefinition outline s.seq.addr s)
  else
    match storeDefinition outline text s.seq.addr s with
    | some s1 => sendDefine outline text s1
    | none => setFlag .defRefused s

/-- DEF_CLOSE in DEF_TEXT (R104). -/
def closeCapture (s : State) : State :=
  let c := s.translator.capture
  setCapture .closed (storeOwn (c.outline.map Taken.keys) c.chars s)

/-- UNDO in capture (R53, R105). -/
def undoCapture (s : State) : State :=
  let c := s.translator.capture
  match c.state with
  | .outline =>
    if c.outline.isEmpty then setCapture .closed s else setCapture { c with outline := c.outline.dropLast } s
  | .text =>
    if !s.translator.sequence.isEmpty then setSequence s.translator.sequence.dropLast s
    else
      match c.pieces.getLast? with
      | some p => setCapture { c with pieces := c.pieces.dropLast, buffer := p.before } s
      | none => setCapture { c with state := .outline, separator := none } s
  | .normal => s

/-- An UNDO stroke (R53). -/
def undoStroke (s : State) : State :=
  match s.translator.capture.state with
  | .normal =>
    if s.translator.sequence.isEmpty then undoHistory s else setSequence s.translator.sequence.dropLast s
  | _ => undoCapture s

/-- The key set of an UNDO stroke: the asterisk alone (R53). -/
def undoKeys : KeySet := 1024

/-! ### Commands (R75) -/

/-- ACK clears every status flag (R178). -/
def ackCommand (s : State) : State := { s with status := { s.status with flags := 0 } }

/-- A command handed to its owner (R75). -/
def runCommand (s : State) : Code → State
  | .defOpen => openCapture s
  | .relief => reliefCommand s
  | .yieldCut => yieldCommand s
  | .free => freeCommand s
  | .recordOff => recordCommand false s
  | .recordOn => recordCommand true s
  | .ack => ackCommand s
  | _ => s

/-! ### Resolutions and what receives them (R57, R75, R76, R103) -/

/-- What R55 makes of the front part of the sequence. -/
inductive Resolution where
  | entry (t : TextEntry)
  | number (digits : List Byte)
  | untran (letters : List Byte)
  deriving DecidableEq, Repr

/-- An ENTRY resolution at text assembly (R75, R76). -/
def assembleAndHand (text : List Byte) (strokes : List Word) (start : Word) (s : State) : State :=
  let ts := tokens text
  let s := (commandsBefore ts).foldl runCommand s
  let s := match assembleEntry s.settings.labels s.translator.formatting text with
    | some a => createUnit a strokes start none s
    | none => s
  (commandsAfter ts).foldl runCommand s

/-- A resolution in NORMAL goes to text assembly. -/
def deliverUnit (r : Resolution) (strokes : List Word) (start : Word) (s : State) : State :=
  match r with
  | .entry t => assembleAndHand t.text strokes start s
  | .number digits => createUnit (assembleNumber s.translator.formatting digits) strokes start none s
  | .untran letters => createUnit (assembleUntran s.translator.formatting letters) strokes start none s

/-- A resolution in DEF_TEXT becomes a piece; DEF_CLOSE closes after it (R103, R104), but not a definition that an
overrun marker has abandoned (R62). -/
def deliverPiece (r : Resolution) (strokes : List Word) (s : State) : State :=
  let c := s.translator.capture
  match r with
  | .entry t =>
    let s1 := setCapture (c.entryPiece strokes t.text) s
    if holds .defClose (tokens t.text) && !c.abandoned then closeCapture s1 else s1
  | .number digits => setCapture (c.numberPiece strokes digits) s
  | .untran letters => setCapture (c.untranPiece strokes letters) s

/-- A resolution is handed on (R57). -/
def deliver (r : Resolution) (strokes : List Taken) (s : State) : State :=
  let numbers := strokes.map Taken.number
  let start := (strokes.head?.map Taken.start).getD 0
  if s.translator.capture.state = .text then deliverPiece r numbers s else deliverUnit r numbers start s

/-- The place after the last entry whose prefix result has text, with that text (R55). -/
def longestText (q : List PendingEntry) : Option (Nat × TextEntry) :=
  q.zipIdx.foldl (fun acc p => match p.1.result.text with | some t => some (p.2 + 1, t) | none => acc) none

/-- NUMBER when conversion succeeds, else UNTRAN (R55). -/
def resolveKeys (k : KeySet) : Resolution :=
  match convertNumber k with
  | some digits => .number digits
  | none => .untran (untranslate k)

/-- The front part of the sequence is resolved and handed on, and the sequence emptied; the strokes behind it are to be
re-processed (R55, R56). -/
def resolveFront (s : State) : State × List Taken :=
  let q := s.translator.sequence
  let strokes := q.map PendingEntry.stroke
  match longestText q, strokes with
  | some (j, t), _ => (deliver (.entry t) (strokes.take j) (setSequence [] s), strokes.drop j)
  | none, [] => (s, [])
  | none, t :: ts => (deliver (resolveKeys t.keys) [t] (setSequence [] s), ts)

/-- An overrun marker is met: a definition being captured now is abandoned (R62). -/
def meetMarker (s : State) : State :=
  let c := s.translator.capture
  setCapture { c with abandoned := c.abandoned || decide (c.state ≠ .normal) } s

/-- The stroke of this number stands raw in the outline buffer of an open capture (R102). -/
def takenRaw (stroke : Word) (s : State) : Bool :=
  decide (s.translator.capture.state = .outline) && s.translator.capture.outline.any fun t => t.number == stroke

/-- An overrun marker after its forced resolution: a definition abandoned when it was met, or one that took the stroke
of its record raw, is refused, then the gap (R61, R62, log entry 13). -/
def overrunMarker (stroke : Word) (count : Nat) (start : Word) (s : State) : State :=
  let s := if s.translator.capture.abandoned || takenRaw stroke s then refuseCapture s else s
  createUnit (assembleGap s.translator.formatting) [] start (some count) s

/-! ### The event in flight (R51, R54, R56, R58, R59, R63, R64) -/

/-- The end of an event: the resolve timer is set and the translator is idle (R59). -/
def endEvent (s : State) : State :=
  let timer :=
    if s.translator.sequence.isEmpty || s.settings.resolve == 0 then none else some s.settings.resolve
  { s with translator := { s.translator with work := [], resolveTimer := timer } }

/-- The event waits for the lookup of an outline, with this work left. -/
def askFor (outline : List KeySet) (w : List Work) (s : State) : State :=
  { s with
    translator := { s.translator with work := w }
    lookup := { s.lookup with request := some outline } }

/-- The outline of the first entries of the sequence. -/
def sequenceKeys (s : State) : List KeySet := s.translator.sequence.map fun e => e.stroke.keys

/-- The outline looked up for a stroke: the whole new sequence, or in DEF_OUTLINE the stroke alone (R54, R102). -/
def takeOutline (s : State) (t : Taken) : List KeySet :=
  if s.translator.capture.state = .outline then [t.keys] else sequenceKeys s ++ [t.keys]

/-- Work done until an item needs a lookup or the event ends. -/
def runWork : List Work → State → State
  | [], s => endEvent s
  | .staleTest :: w, s =>
    if s.translator.stale then
      let s := { s with translator := { s.translator with stale := false } }
      if s.translator.sequence.isEmpty then runWork w s
      else askFor ((sequenceKeys s).take 1) (.recompute 0 :: w) s
    else runWork w s
  | .recompute i :: w, s =>
    if i < s.translator.sequence.length then askFor ((sequenceKeys s).take (i + 1)) (.recompute i :: w) s
    else runWork w s
  | .stroke t :: w, s =>
    if t.keys = undoKeys then runWork w (undoStroke s) else askFor (takeOutline s t) (.stroke t :: w) s
  | .reprocess [] :: w, s => runWork w s
  | .reprocess (t :: ts) :: w, s => askFor (takeOutline s t) (.reprocess (t :: ts) :: w) s
  | .markerMet :: w, s => runWork w (meetMarker s)
  | .force :: w, s =>
    if s.translator.sequence.isEmpty then runWork w s
    else
      let x := resolveFront s
      match x.2 with
      | [] => runWork w x.1
      | t :: ts => askFor (takeOutline x.1 t) (.reprocess (t :: ts) :: .force :: w) x.1
  | .marker stroke count start :: w, s => runWork w (overrunMarker stroke count start s)

/-- A stroke's lookup result is there (R54, R102): held, resolved, or taken raw into the outline buffer. -/
def strokeResult (t : Taken) (r : LookupResult) (w : List Work) (s : State) : State :=
  if s.translator.capture.state = .outline then runWork w (outlineStroke t r s)
  else
    let s := setSequence (s.translator.sequence ++ [⟨t, r⟩]) s
    if r.cont && decide (s.translator.sequence.length < 8) then runWork w s
    else
      let x := resolveFront s
      runWork (.reprocess x.2 :: w) x.1

/-- The prefix result of one entry is replaced (R63). -/
def setResult (i : Nat) (r : LookupResult) (s : State) : State :=
  setSequence (s.translator.sequence.modify i fun e => { e with result := r }) s

/-- A recomputation goes on behind the prefix that ends at a place: the next prefix is looked up, or, behind the last,
the stale mark is tested once more (R63, R64). -/
def recomputeNext (i : Nat) (w : List Work) (s : State) : State :=
  if i + 1 < s.translator.sequence.length then askFor ((sequenceKeys s).take (i + 2)) (.recompute (i + 1) :: w) s
  else runWork (.staleTest :: w) s

/-- The result of a stroke's lookup reaches the translator, which goes on with its event (R47, R54, R56). -/
def continueEvent (r : LookupResult) (s : State) : State :=
  match s.translator.work with
  | .stroke t :: w => strokeResult t r w s
  | .reprocess (t :: ts) :: w => strokeResult t r (.reprocess ts :: w) s
  | w => runWork w s

/-- An event begins with the resolve timer stopped (R59). -/
def beginEvent (w : List Work) (s : State) : State :=
  takeRequest (runWork w { s with translator := { s.translator with resolveTimer := none } })

end Sys2Proof.Machine
end

