-- ==== Sys2Proof/Machine/Bus.lean ====
section
/-! DEFINITION. The bus controller at work: choosing and sending a frame, losing it, reading frames from the line
(R125 to R136). -/

namespace Sys2Proof.Machine

/-- The receiver is active from the end of LOAD on (R125). -/
def receiverActive (s : State) : Bool :=
  match s.seq.phase with
  | .scan | .listen | .run => true
  | _ => false

/-- The transmitter is active in RUN (R125). -/
def transmitterActive (s : State) : Bool := decide (s.seq.phase = .run)

/-! ### Sending (R131 to R133) -/

/-- The place of the frame chosen to be sent: the oldest waiting frame of the lowest class present (R131). -/
def chosenPlace (q : List TxFrame) : Option Nat :=
  let waiting := q.zipIdx.filter fun p => !p.1.sending
  let low := waiting.foldl (fun m p => min m p.1.cls) 7
  ((waiting.filter fun p => p.1.cls == low).head?).map Prod.snd

/-- The contents a PRESENCE takes at its start bit (R141). -/
def presenceBody (s : State) : PresenceBody :=
  { time := s.seq.clock, writer := true, floor := s.floor.state, recordOn := s.release.recordOn,
    restart := BitVec.ofNat 16 (s.notes.restartCount.getD 0), known := knownField s, flags := s.status.flags }

/-- What a frame says when its start bit is sent. -/
def contents (s : State) : TxBody → Msg
  | .presence => .presence (presenceBody s)
  | .msg m => m

/-- The bits of a queued frame as they stand at its start bit. -/
def onTheLine (s : State) (f : TxFrame) : LineFrame := (contents s f.body).frame s.seq.addr f.dest

/-- The start bit is sent: the chosen frame is in flight (R131). -/
def startFrame (s : State) : State :=
  if transmitterActive s ∧ s.bus.follower = .idle ∧ s.bus.inFlight = none then
    match chosenPlace s.bus.queue with
    | none => s
    | some i =>
      match s.bus.queue[i]? with
      | none => s
      | some f =>
        { s with
          bus :=
            { s.bus with
              queue := s.bus.queue.set i { f with sending := true }
              inFlight := some (onTheLine s f)
              follower := .frame
              recessive := 0 } }
  else s

/-- The frame in flight goes back to waiting, its age unchanged (R132). -/
def loseArbitration (s : State) : State :=
  match s.bus.inFlight with
  | none => s
  | some _ =>
    { s with
      bus := { s.bus with inFlight := none, queue := s.bus.queue.map fun f => { f with sending := false } } }

/-- The frame in flight leaves the queue (R133); a TEXT leaving makes the drain check (R162). -/
def leaveQueue (s : State) : State :=
  let text := s.bus.queue.any fun f => f.sending && f.kind == .text
  let s :=
    { s with bus := { s.bus with inFlight := none, queue := s.bus.queue.filter fun f => !f.sending } }
  if text then drainCheck s else s

/-- A frame's seventh end bit is sent and read as sent (R126, R133); a recessive bit stops the stuck-line timer (R134). -/
def finishFrame (s : State) : State :=
  match s.bus.inFlight with
  | none => s
  | some _ =>
    leaveQueue { s with bus := { s.bus with follower := .waitIdle, recessive := 7, stuckTimer := 0 } }

/-- The line was recessive at the bit that was sent as a start bit: the follower found no start bit and stays IDLE, its
count of recessive bits complete (R126, log entry 35); a recessive bit clears the stuck-line timer (R134). -/
def noStartBit (b : BusController) : BusController :=
  if b.follower = .frame then { b with follower := .idle, recessive := 11, stuckTimer := 0 } else b

/-- A readback mismatch abandons the frame in flight (R133). The follower carries on from the bits read: at a later bit
than the start bit it is in FRAME and reads on; a start bit read back recessive leaves it IDLE (R126). -/
def abandonFrame (startBit : Bool) (s : State) : State :=
  match s.bus.inFlight with
  | none => s
  | some _ => leaveQueue (setFlag .txError { s with bus := if startBit then noStartBit s.bus else s.bus })

/-! ### Reading from the line (R126, R134 to R136) -/

/-- The follower can have read a frame to its end: it had its footing at the start bit, and this station is not sending
(R126, R132). -/
def canReceive (s : State) : Bool :=
  receiverActive s && s.bus.inFlight.isNone && decide (s.bus.follower ≠ .waitIdle)

/-- A frame is broken off: its length is above 160, or its end field holds a dominant bit (R126, R127). -/
def brokenOff (f : LineFrame) : Bool := decide (160 < f.length.toNat) || f.endBits != BitVec.allOnes 7

/-- The follower after a frame: WAIT_IDLE with the count at 7, or at 0 for a frame broken off (R126). The recessive end
bits stop the stuck-line timer (R134). -/
def frameEnded (f : LineFrame) (s : State) : State :=
  { s with
    bus :=
      { s.bus with
        follower := .waitIdle
        recessive := if brokenOff f then 0 else 7
        stuckTimer := if brokenOff f then s.bus.stuckTimer else 0 } }

/-- The receive time: the local time at the start bit (R126). -/
def receiveTime (f : LineFrame) (s : State) : Word := s.seq.clock - BitVec.ofNat 32 f.age

/-- A frame read to its end goes through the checks of R135; an accepted one goes to the blocks (R136). -/
def receive (f : LineFrame) (take : Station → Msg → State → State) (s : State) : State :=
  if canReceive s then
    let s := frameEnded f s
    match f.judge s.seq.addr with
    | .discarded => s
    | .clash => setFlag .addressClash s
    | .accepted src m => take src m s
  else s

/-- No block takes the frame. -/
def takenByNone (_ : Station) (_ : Msg) (s : State) : State := s

/-- The line has read dominant for `ms` ms, counted from its last recessive bit (R134): a later report in one spell
gives the reading of the timer at that moment, and the flag stands set once for the spell. The timer runs with the
receiver, from the end of LOAD on (log entry 33). -/
def lineStuck (ms : Nat) (s : State) : State :=
  if receiverActive s ∧ 10 < ms then
    let s1 := if s.bus.stuckSpell then s else setFlag .busStuck s
    { s1 with
      bus := { s1.bus with stuckTimer := ms, stuckSpell := true, follower := .waitIdle, recessive := 0 } }
  else s

/-- 11 consecutive recessive bits (R126, R134). The line follower runs with the receiver, from the end of LOAD on (log
entry 33). -/
def lineIdle (s : State) : State :=
  if receiverActive s ∧ s.bus.follower = .waitIdle then
    { s with bus := { s.bus with follower := .idle, recessive := 11, stuckTimer := 0, stuckSpell := false } }
  else s

end Sys2Proof.Machine
end

