-- ==== Sys2Proof/Machine/ExecBus.lean ====
section
/-! DEFINITION. The commands of the bus controller: sending, line faults and the frames read from the line. A frame
that is not of its command's kind ends like a frame no block takes (log entry 5). -/

namespace Sys2Proof.Machine

/-- FRAME_SEND_START (R131). -/
def execFrameSendStart (s : State) : Host.Outcome State Fault Refusal := .next (startFrame s)

/-- ARBITRATION_LOST (R132). -/
def execArbitrationLost (s : State) : Host.Outcome State Fault Refusal := .next (loseArbitration s)

/-- TRANSMIT_ERROR (R133). -/
def execTransmitError (s : State) (startBit : Bool := false) : Host.Outcome State Fault Refusal :=
  .next (abandonFrame startBit s)

/-- FRAME_SENT (R133). -/
def execFrameSent (s : State) : Host.Outcome State Fault Refusal := .next (finishFrame s)

/-- BUS_STUCK (R134). -/
def execBusStuck (dominantMs : Nat) (s : State) : Host.Outcome State Fault Refusal := .next (lineStuck dominantMs s)

/-- FRAME_DISCARDED (R135): ADDRESS_CLASH where the frame carries this station's address, else no flag. -/
def execFrameDiscarded (f : LineFrame) (s : State) : Host.Outcome State Fault Refusal :=
  .next (receive f takenByNone s)

/-- What a CLAIM does: the known, then the floor controller (R118, R156, R157). -/
def takeClaim (a : Station) (m : Msg) (s : State) : State :=
  match m with
  | .claim known held => claimHeard a held (raiseKnown known s)
  | _ => s

/-- CLAIM_RECEIVED (R156). -/
def execClaimReceived (f : LineFrame) (s : State) : Host.Outcome State Fault Refusal := .next (receive f takeClaim s)

def takeReliefReq (a : Station) (m : Msg) (s : State) : State :=
  match m with
  | .reliefReq => reliefAsked a s
  | _ => s

/-- RELIEF_REQ_RECEIVED (R159). -/
def execReliefReqReceived (f : LineFrame) (s : State) : Host.Outcome State Fault Refusal :=
  .next (receive f takeReliefReq s)

def takeReliefBusy (a : Station) (m : Msg) (s : State) : State :=
  match m with
  | .reliefBusy notHolder => reliefRefused a notHolder s
  | _ => s

/-- RELIEF_BUSY_RECEIVED (R165). -/
def execReliefBusyReceived (f : LineFrame) (s : State) : Host.Outcome State Fault Refusal :=
  .next (receive f takeReliefBusy s)

/-- A PASS that names this station (R119, R163). -/
def takePass (a : Station) (m : Msg) (s : State) : State :=
  match m with
  | .pass target known cut => if target = s.seq.addr then passTaken a known cut s else s
  | _ => s

/-- PASS_RECEIVED (R163). -/
def execPassReceived (f : LineFrame) (s : State) : Host.Outcome State Fault Refusal := .next (receive f takePass s)

/-- A PASS that names another station (R118, R164). -/
def takePassOther (_ : Station) (m : Msg) (s : State) : State :=
  match m with
  | .pass target known _ => if target = s.seq.addr then s else passOther target (raiseKnown known s)
  | _ => s

/-- PASS_OTHER_RECEIVED (R164). -/
def execPassOtherReceived (f : LineFrame) (s : State) : Host.Outcome State Fault Refusal :=
  .next (receive f takePassOther s)

def takeFloorFree (a : Station) (m : Msg) (s : State) : State :=
  match m with
  | .floorFree known => floorFreed a (raiseKnown known s)
  | _ => s

/-- FLOOR_FREE_RECEIVED (R164). -/
def execFloorFreeReceived (f : LineFrame) (s : State) : Host.Outcome State Fault Refusal :=
  .next (receive f takeFloorFree s)

def takeRecord (a : Station) (m : Msg) (s : State) : State :=
  match m with
  | .record on => setRecord on a s
  | _ => s

/-- RECORD_RECEIVED (R123). -/
def execRecordReceived (f : LineFrame) (s : State) : Host.Outcome State Fault Refusal := .next (receive f takeRecord s)

def takeClear (_ : Station) (m : Msg) (s : State) : State :=
  match m with
  | .clear flags => clearFlags flags s
  | _ => s

/-- CLEAR_RECEIVED (R178). -/
def execClearReceived (f : LineFrame) (s : State) : Host.Outcome State Fault Refusal := .next (receive f takeClear s)

/-- What a TEXT does: the known, then the floor controller (R118, R153, R167). -/
def takeText (a : Station) (m : Msg) (s : State) : State :=
  match m with
  | .text body => holdingHeard a (raiseKnown body.seq s)
  | _ => s

/-- TEXT_RECEIVED (R118). -/
def execTextReceived (f : LineFrame) (s : State) : Host.Outcome State Fault Refusal := .next (receive f takeText s)

def takeDefine (a : Station) (m : Msg) (s : State) : State :=
  match m with
  | .define payload => defineArrived a payload s
  | _ => s

/-- DEFINE_RECEIVED (R99). -/
def execDefineReceived (f : LineFrame) (s : State) : Host.Outcome State Fault Refusal := .next (receive f takeDefine s)

/-- What a PRESENCE heard at time `tr` does: the peer record, the known, and a holding state (R118, R142, R153). -/
def takePresence (tr : Word) (a : Station) (m : Msg) (s : State) : State :=
  match m with
  | .presence body =>
    let s := raiseKnown body.known (setPeer a ((s.peers.record a).takePresence body tr) s)
    if body.floor.holding then holdingHeard a s else s
  | _ => s

/-- PRESENCE_RECEIVED (R142). -/
def execPresenceReceived (f : LineFrame) (s : State) : Host.Outcome State Fault Refusal :=
  .next (receive f (takePresence (receiveTime f s)) s)

/-- RETRACT_RECEIVED (R136): accepted and handed to no block. -/
def execRetractReceived (f : LineFrame) (s : State) : Host.Outcome State Fault Refusal :=
  .next (receive f takenByNone s)

/-- REPLACE_RECEIVED (R136): accepted and handed to no block. -/
def execReplaceReceived (f : LineFrame) (s : State) : Host.Outcome State Fault Refusal :=
  .next (receive f takenByNone s)

/-- SHADOW_RECEIVED (R136): accepted and handed to no block. -/
def execShadowReceived (f : LineFrame) (s : State) : Host.Outcome State Fault Refusal :=
  .next (receive f takenByNone s)

/-- BUS_IDLE (R126, R134). -/
def execBusIdle (s : State) : Host.Outcome State Fault Refusal := .next (lineIdle s)

end Sys2Proof.Machine
end

