-- ==== Sys2Proof/Machine/Notes.lean ====
section
/-! DEFINITION. The notes writer: bursts, failure and second attempt, halt, full region, resume scan (R20 to R31). -/

namespace Sys2Proof.Machine

/-! ### The notes region -/

/-- Base of the notes region on the flash device. -/
def notesBase (s : State) : Nat := ((s.port.region .notes).map Region.base).getD 0

/-- Record slots of the notes region. -/
def notesSlots (s : State) : Nat := ((s.port.region .notes).map Region.size).getD 0 / 16

/-- The slot of the write position. -/
def writeSlot (s : State) : Nat := s.notes.writePos.getD 0 / 16

/-- Free slots: the region size minus the write position, divided by 16 (R17). -/
def freeSlots (s : State) : Nat := notesSlots s - writeSlot s

/-- The program operations of a burst of k records from slot p: one, or two where it crosses a page of 16 slots (R22). -/
def pageSplit (p k : Nat) : List (Nat × Nat) :=
  let room := 16 - p % 16
  if k ≤ room then [(p, k)] else [(p, room), (p + room, k - room)]

/-! ### Full region and near-full threshold (R27) -/

/-- Records of a FIFO other than LOST. -/
def handedCount (fifo : List Note) : Nat := fifo.countP fun n => !n.isLost

/-- The path becomes full: NOTES_FULL, the FIFO counted as lost and emptied, the flush timer stopped (R27). -/
def becomeFull (s : State) : State :=
  setFlag .notesFull
    { s with
      notes :=
        { s.notes with
          full := true
          lostCount := addLost s.notes.lostCount (handedCount s.notes.fifo)
          fifo := []
          flushTimer := none } }

/-- The threshold check after the free slots went from `before` to what they are now (R27). -/
def checkRegion (before : Nat) (s : State) : State :=
  let limit := 2 ^ s.settings.nearFull
  let s := setFlagIf (decide (limit ≤ before) && decide (freeSlots s < limit)) .notesNearFull s
  if freeSlots s = 0 then becomeFull s else s

/-- The write position advances by k slots. -/
def advanceWrite (k : Nat) (s : State) : State :=
  { s with notes := { s.notes with writePos := some (s.notes.writePos.getD 0 + 16 * k) } }

/-! ### Halt (R25) -/

/-- A second consecutive failure halts the path (R25). -/
def haltPath (s : State) : State :=
  setFlag .notesFault
    { s with
      notes :=
        { s.notes with
          halted := true
          lostCount := addLost s.notes.lostCount (handedCount s.notes.fifo)
          fifo := []
          flushTimer := none
          flushDue := false } }

/-! ### Burst start (R21, R22) -/

/-- Place a LOST record due at the burst start: at the head, behind a RESUME record standing there (R21). -/
def placeLost (fifo : List Note) (count : Nat) : List Note :=
  match fifo with
  | .resume c k :: rest => .resume c k :: .lost count :: rest
  | rest => .lost count :: rest

/-- The FIFO of a burst start. -/
def fifoAtStart (n : NotesWriter) : List Note :=
  if 0 < n.lostCount ∧ ¬ n.fifo.any Note.isLost then placeLost n.fifo n.lostCount else n.fifo

/-- The 50 ms program timer (R37). -/
def programLimit : Nat := 50

/-- The port's check of the operation that the burst in flight asks for next (R34). -/
def programAllowed (s : State) : Bool :=
  match s.notes.burst.map Burst.ops with
  | some ((slot, n) :: _) => s.port.allows .notes .flashProgram (16 * slot) (16 * n)
  | _ => false

/-- The burst's next program operation is requested, the arbiter's grant used up: it enters PROGRAMMING and starts its
timer (R37), or is refused, which changes no flash state (R34, log entry 31). -/
def startProgram (s : State) : State :=
  { s with
    port :=
      { s.port with
        flash := if programAllowed s then .programming else s.port.flash
        timer := if programAllowed s then some programLimit else s.port.timer
        burstGranted := false } }

/-- A program operation ends: the flash is FREE again (R37). -/
def endProgram (s : State) : State := { s with port := { s.port with flash := .free, timer := none } }

/-- The records of the burst in flight. -/
def burstRecords (n : NotesWriter) (b : Burst) : List Note := n.fifo.take b.count

/-- The record programmed at a slot by the burst in flight: VOID in the overwrite, else the record of that place (R24). -/
def recordFor (n : NotesWriter) (b : Burst) (i : Nat) : Note :=
  match b.stage with
  | .overwrite => .void
  | _ => (burstRecords n b).getD i .void

/-- The first slot of the span the present stage programs. -/
def stageBase (s : State) (b : Burst) : Nat :=
  match b.stage with
  | .overwrite => b.span.1
  | _ => writeSlot s

/-- Device address and data of the operation in flight. -/
def opData (s : State) (b : Burst) : Nat × List Byte :=
  match b.ops with
  | [] => (notesBase s, [])
  | (slot, n) :: _ =>
    (notesBase s + 16 * slot,
      (List.range n).flatMap fun i => (recordFor s.notes b (slot - stageBase s b + i)).bytes)

/-- BURST_START's work (R21): LOST placed, records taken, first operation started. -/
def startBurst (s : State) : State :=
  let fifo := fifoAtStart s.notes
  let k := min (min 8 fifo.length) (freeSlots s)
  let p := writeSlot s
  let notes :=
    { s.notes with
      fifo := fifo, burst := some ⟨.first, k, pageSplit p k, (p, k)⟩, flushTimer := none, flushDue := false }
  startProgram (armFlush { s with notes := notes })

/-! ### Ends of an operation (R22 to R25, R40) -/

/-- The flash is FREE after a program and the burst goes no further: the arbiter decides again (R40). -/
def releaseFlash (s : State) : State := arbitrate (endProgram s)

def setBurst (b : Option Burst) (s : State) : State := { s with notes := { s.notes with burst := b } }

/-- Counts carried by the LOST records among some records. -/
def lostCarried (ns : List Note) : Nat :=
  (ns.map fun n => match n with | .lost c => c | _ => 0).sum

/-- The burst succeeds (R23). -/
def burstSuccess (b : Burst) (s : State) : State :=
  let before := freeSlots s
  let carried := lostCarried (burstRecords s.notes b)
  let notes :=
    { s.notes with
      fifo := s.notes.fifo.drop b.count, burst := none, lostCount := s.notes.lostCount - carried }
  releaseFlash (checkRegion before (advanceWrite b.count { s with notes := notes }))

/-- The VOID overwrite has ended: the write position advances past the span; the second attempt follows where a slot is
free (R24), else the path is full by R27. -/
def overwriteDone (b : Burst) (s : State) : State :=
  let s1 := checkRegion (freeSlots s) (advanceWrite b.span.2 (setBurst none s))
  if s1.notes.full then releaseFlash s1
  else
    let k := min b.count (freeSlots s1)
    let p := writeSlot s1
    startProgram (armFlush (setBurst (some ⟨.second, k, pageSplit p k, b.span⟩) s1))

/-- An operation of the burst in flight is reported done. -/
def operationDone (s : State) : State :=
  match s.notes.burst with
  | none => releaseFlash s
  | some b =>
    let (addr, data) := opData s b
    let s1 := endProgram { s with port := { s.port with flashMem := Memory.program s.port.flashMem addr data } }
    match b.ops with
    | _ :: op :: ops => startProgram (setBurst (some { b with ops := op :: ops }) s1)
    | _ =>
      match b.stage with
      | .overwrite => overwriteDone b s1
      | _ => burstSuccess b s1

/-- What a failed, timed-out or cut-off operation leaves in the device: a free value (log entry 3). -/
def leaveResidue (s : State) : State :=
  match s.notes.burst with
  | none => s
  | some b =>
    let (addr, data) := opData s b
    { s with
      freeCount := s.freeCount + 1
      port := { s.port with flashMem := Memory.programPartly s.port.flashMem s.freeCount addr data } }

/-- An operation of the burst in flight is reported failed or timed out (R22, R24, R25). -/
def operationFailed (s : State) : State :=
  let s1 := endProgram (leaveResidue s)
  match s.notes.burst with
  | none => releaseFlash s1
  | some b =>
    match b.stage with
    | .first =>
      startProgram (setBurst (some ⟨.overwrite, b.count, pageSplit b.span.1 b.span.2, b.span⟩) s1)
    | .overwrite =>
      releaseFlash (haltPath (checkRegion (freeSlots s1) (advanceWrite b.span.2 (setBurst none s1))))
    | .second => releaseFlash (haltPath (setBurst none s1))

/-- The failure count of the burst in flight (R24). -/
def failureCount (n : NotesWriter) : Nat :=
  match n.burst with
  | some ⟨.second, _, _, _⟩ => 1
  | _ => 0

/-! ### The resume scan (R28, R29) -/

/-- The 16 bytes of a slot of the notes region, by one read of the resume scan (R28, R32). -/
def slotBytes (s : State) (i : Nat) : List Byte := s.port.dataAt .notes (16 * i) 16

/-- Forward scan over at most `n` slots from slot `i`: the write slot, and whether a damaged slot was passed (R28). -/
def forwardScan (s : State) : Nat → Nat → Bool → Nat × Bool
  | 0, i, damaged => (i, damaged)
  | n + 1, i, damaged =>
    let bs := slotBytes s i
    if slotErased bs then (i, damaged) else forwardScan s n (i + 1) (damaged || !slotGood bs)

/-- What a slot gives a backward scan: the value that `pick` takes from a good record (R28, R29). -/
def recordIn (pick : List Byte → Option Nat) (bs : List Byte) : Option Nat := if slotGood bs then pick bs else none

/-- Backward scan below slot `i`: the value the first good record gives that `pick` takes (R29). -/
def backwardScan (s : State) (pick : List Byte → Option Nat) : Nat → Option Nat
  | 0 => none
  | i + 1 =>
    match recordIn pick (slotBytes s i) with
    | some v => some v
    | none => backwardScan s pick i

/-- Stroke number of a STROKE record. -/
def pickStroke (bs : List Byte) : Option Nat :=
  if fieldAt bs 0 1 = 1 then some (fieldAt bs 1 4) else none

/-- Restart count of a RESUME record. -/
def pickResume (bs : List Byte) : Option Nat :=
  if fieldAt bs 0 1 = 6 then some (fieldAt bs 1 2) else none

/-- The next stroke number after what the first backward scan has found (R29). -/
def strokeAfter : Option Nat → Word
  | none => 1
  | some n => succNonzero (BitVec.ofNat 32 n)

/-- The restart count of this start after what the second backward scan has found (R29). -/
def restartAfter : Option Nat → Nat
  | none => 1
  | some n => min (n + 1) 65535

/-- What the resume scan fixes: the write slot, the next stroke number and the restart count; and whether a read still
to be made passes a damaged slot. -/
structure ScanResult where
  write : Nat
  stroke : Word
  restart : Nat
  damaged : Bool
  deriving DecidableEq, Repr

/-- The reads left of the resume scan, taken to their end (R28, R29). -/
def scanResult (s : State) : ResumeScan → ScanResult
  | .forward i =>
    let f := forwardScan s (notesSlots s - i) i false
    ⟨f.1, strokeAfter (backwardScan s pickStroke f.1), restartAfter (backwardScan s pickResume f.1), f.2⟩
  | .strokes i w => ⟨w, strokeAfter (backwardScan s pickStroke i), restartAfter (backwardScan s pickResume w), false⟩
  | .resumes i w n => ⟨w, n, restartAfter (backwardScan s pickResume i), false⟩
  | .over w n count => ⟨w, n, count, false⟩

/-- The backward scan for a RESUME record below slot i; with no slot left the scan is over. -/
def resumesBelow (i write : Nat) (stroke : Word) : ResumeScan :=
  if i = 0 then .over write stroke (restartAfter none) else .resumes i write stroke

/-- The backward scan for a STROKE record below slot i; with no slot left the next one begins. -/
def strokesBelow (i write : Nat) : ResumeScan :=
  if i = 0 then resumesBelow write write (strokeAfter none) else .strokes i write

/-- The resume scan after one read, and whether the slot read is damaged (R28, R29). -/
def scanRead (s : State) : ResumeScan → ResumeScan × Bool
  | .forward i =>
    if i < notesSlots s ∧ ¬ slotErased (slotBytes s i) then
      (if i + 1 < notesSlots s then .forward (i + 1) else strokesBelow (i + 1) (i + 1), !slotGood (slotBytes s i))
    else (strokesBelow i i, false)
  | .strokes 0 w => (strokesBelow 0 w, false)
  | .strokes (i + 1) w =>
    match recordIn pickStroke (slotBytes s i) with
    | some n => (resumesBelow w w (strokeAfter (some n)), false)
    | none => (strokesBelow i w, false)
  | .resumes 0 w n => (resumesBelow 0 w n, false)
  | .resumes (i + 1) w n =>
    match recordIn pickResume (slotBytes s i) with
    | some count => (.over w n (restartAfter (some count)), false)
    | none => (resumesBelow i w n, false)
  | .over w n count => (.over w n count, false)

/-- A read of the resume scan ends: its slot is judged at once, and the next read is granted while one is left
(R28, R36, R39). -/
def scanReadEnds (x : ResumeScan) (s : State) : State :=
  let y := scanRead s x
  setFlagIf y.2 .notesDamaged
    { s with
      notes := { s.notes with resumeScan := some y.1 }
      port := { s.port with flash := if y.1.isOver then .free else .reading } }

/-- The RESUME record enters the empty FIFO as its first record, or is counted as lost where the region is full
(R18, R30). -/
def enterResume (count : Nat) (s : State) : State :=
  if freeSlots s = 0 then loseNote (becomeFull s)
  else armFlush { s with notes := { s.notes with fifo := [.resume count s.seq.resetKind] } }

/-- The end of the resume scan at the notes writer: the reads left end (log entry 10), then the three quantities, the
flags, the RESUME record, and the notes held in SCAN (R18, R28 to R30). -/
def resumeNotes (s : State) : State :=
  let x := scanResult s (s.notes.resumeScan.getD (.forward 0))
  let held := s.notes.heldNotes
  let s :=
    { s with
      notes :=
        { s.notes with
          writePos := some (16 * x.write), restartCount := some x.restart, opened := true, heldNotes := []
          resumeScan := none }
      scanner := { s.scanner with nextStroke := some x.stroke } }
  let s := setFlagIf x.damaged .notesDamaged s
  let s := setFlagIf (decide (freeSlots s < 2 ^ s.settings.nearFull)) .notesNearFull s
  held.foldl (fun s n => joinNote n s) (enterResume x.restart s)

end Sys2Proof.Machine
end

