-- ==== Sys2Proof/Machine/Startup.lean ====
section
/-! DEFINITION. The start-up sequencer: configuration block, regions, dictionary headers, overlay, resume scan, LISTEN
and the entry to RUN (R42, R43, R91, R170 to R176). -/

namespace Sys2Proof.Machine

/-! ### Clamping (R172) -/

/-- A configured quantity: the value used, and whether CONFIG_CLAMPED is set for it. -/
structure Clamped where
  value : Nat
  flag : Bool
  deriving DecidableEq, Repr

/-- The value of a field whose bytes all read 0xFF. -/
def allOnes (n : Nat) : Nat := 256 ^ n - 1

/-- A value clamped to the nearer end of a range. -/
def clampTo (lo hi v : Nat) : Clamped := ⟨max lo (min hi v), decide (v < lo) || decide (hi < v)⟩

/-- A field of `n` bytes with a default: all 0xFF takes the default with no flag, any other value is clamped. -/
def clampField (blk : List Byte) (off n lo hi standard : Nat) : Clamped :=
  let v := fieldAt blk off n
  if v = allOnes n then ⟨standard, false⟩ else clampTo lo hi v

/-- *resolve*: 0 disables the timer and stands as it is. -/
def clampResolve (blk : List Byte) : Clamped :=
  if fieldAt blk 46 2 = 0 then ⟨0, false⟩ else clampField blk 46 2 100 3000 800

/-- The bit rate code: any code but 0, 1 and 2 is read as 1 (R125). -/
def clampRate (blk : List Byte) : Clamped :=
  let v := fieldAt blk 3 1
  if v ≤ 2 then ⟨v, false⟩ else ⟨1, true⟩

/-- The length of label n (0 for the first): 0xFF is an empty label, any other length above 24 is cut to 24. -/
def clampLabel (blk : List Byte) (n : Nat) : Clamped :=
  let v := fieldAt blk (68 + 25 * n) 1
  if v = 255 then ⟨0, false⟩ else clampTo 0 24 v

/-- The label n of the speaker table. -/
def labelAt (blk : List Byte) (n : Nat) : List Byte := (blk.drop (69 + 25 * n)).take (clampLabel blk n).value

/-- The smallest whole number of seconds not below yield + hold-back / 1000 + 2 s. -/
def reliefFloor (yieldTime holdBack : Nat) : Nat := yieldTime + (holdBack + 999) / 1000 + 2

/-- The relief time is raised where needed, with a flag for a raise. -/
def raiseRelief (relief : Clamped) (yieldTime holdBack : Nat) : Clamped :=
  let low := reliefFloor yieldTime holdBack
  ⟨max relief.value low, relief.flag || decide (relief.value < low)⟩

/-- The quantities of a configuration block after clamping, and whether CONFIG_CLAMPED is set (R172). -/
def readSettings (blk : List Byte) : Settings × Bool :=
  let scanPeriod := clampField blk 38 1 1 4 1
  let settleTime := clampField blk 39 1 2 100 10
  let debounce := clampField blk 40 1 1 7 2
  let stuckLimit := clampField blk 41 1 1 10 3
  let flush := clampField blk 42 2 1 600 20
  let nearFull := clampField blk 44 1 6 16 12
  let resolve := clampResolve blk
  let holdBack := clampField blk 48 2 0 5000 1500
  let presence := clampField blk 50 2 100 1000 250
  let loss := clampField blk 45 1 2 8 3
  let vacancy := clampField blk 52 1 1 10 4
  let claimWindow := clampField blk 53 1 10 200 50
  let activeWindow := clampField blk 54 1 2 60 10
  let yieldTime := clampField blk 56 1 5 120 20
  let relief := raiseRelief (clampField blk 55 1 5 120 45) yieldTime.value holdBack.value
  let rate := clampRate blk
  let flashSize := clampTo 1 16 (fieldAt blk 2 1)
  let ramSize := clampTo 32 2048 (fieldAt blk 4 2)
  let slots := clampField blk 58 1 8 12 10
  let heap := clampField blk 60 2 8 256 64
  let probe := clampField blk 59 1 1 64 16
  let fields :=
    [scanPeriod, settleTime, debounce, stuckLimit, flush, nearFull, resolve, holdBack, presence, loss, vacancy,
      claimWindow, activeWindow, yieldTime, relief, rate, flashSize, ramSize, slots, heap, probe] ++
      (List.range 15).map (clampLabel blk)
  ({ scanPeriod := scanPeriod.value, settle := settleTime.value, debounce := debounce.value,
     stuckLimit := stuckLimit.value, flush := flush.value, nearFull := nearFull.value, resolve := resolve.value,
     holdBack := holdBack.value, presence := presence.value, loss := loss.value, vacancy := vacancy.value,
     claimWindow := claimWindow.value, activeWindow := activeWindow.value, relief := relief.value,
     yieldTime := yieldTime.value, autoCut := fieldAt blk 57 1 != 0, bitRate := rate.value,
     flashSize := flashSize.value, ramSize := ramSize.value, overlayLog2 := slots.value, overlayHeap := heap.value,
     overlayProbe := probe.value, labels := (List.range 15).map (labelAt blk) },
    fields.any Clamped.flag)

/-! ### Regions (R33, R171) -/

/-- Base and size of a region as the block gives them. -/
structure Span where
  base : Nat
  size : Nat
  deriving DecidableEq, Repr

def spanAt (blk : List Byte) (off : Nat) : Span := ⟨fieldAt blk off 4, fieldAt blk (off + 4) 4⟩

def mainSpan (blk : List Byte) : Span := spanAt blk 6
def jobSpan (blk : List Byte) : Span := spanAt blk 14
def notesSpan (blk : List Byte) : Span := spanAt blk 22
def overlaySpan (blk : List Byte) : Span := spanAt blk 30

/-- Size 0 marks MAIN or JOB as not present (spec/12). -/
def Span.present (p : Span) : Bool := p.size != 0

/-- The size is a power of two from 4 KiB to `top`, the base a multiple of it, the span inside `limit`. -/
def Span.fits (p : Span) (top limit : Nat) : Bool :=
  decide (4096 ≤ p.size) && decide (p.size ≤ top) && (List.range 25).any (fun k => 2 ^ k == p.size) &&
    p.base % p.size == 0 && decide (p.base + p.size ≤ limit)

def Span.overlaps (p q : Span) : Bool := decide (p.base < q.base + q.size) && decide (q.base < p.base + p.size)

/-- The fixed CONFIG region: 4 KiB at base 0. -/
def configSpan : Span := ⟨0, 4096⟩

/-- The size of the configuration block in bytes (spec/12). -/
def configLength : Nat := 445

def mib : Nat := 1048576
def kib : Nat := 1024

/-- A flash region's own check (R171 step 4). -/
def flashSpanGood (t : Settings) (p : Span) : Bool := p.fits (16 * mib) (t.flashSize * mib) && !p.overlaps configSpan

/-- The OVERLAY region holds header, slot array and heap (R90, R171). -/
def overlaySpanGood (t : Settings) (p : Span) : Bool :=
  p.fits (2 * mib) (t.ramSize * kib) && decide (16 + 4 * 2 ^ t.overlayLog2 + t.overlayHeap * kib ≤ p.size)

/-- Step 4 of R171, against the clamped sizes. -/
def regionsGood (blk : List Byte) (t : Settings) (ramFit : Bool) : Bool :=
  let dictionaries := [mainSpan blk, jobSpan blk].filter Span.present
  flashSpanGood t (notesSpan blk) && dictionaries.all (fun p => flashSpanGood t p && !p.overlaps (notesSpan blk)) &&
    (!ramFit || overlaySpanGood t (overlaySpan blk))

/-- The region table of an accepted block (R33). -/
def installedRegions (blk : List Byte) (ramFit : Bool) : List Region :=
  let flashRegion (n : RegionName) (p : Span) (ops : List PortOp) : Region := ⟨n, .flash, p.base, p.size, ops⟩
  let dictionary (n : RegionName) (p : Span) := if p.present then [flashRegion n p [.flashRead]] else []
  [flashRegion .config configSpan [.flashRead]] ++ dictionary .main (mainSpan blk) ++
    dictionary .job (jobSpan blk) ++ [flashRegion .notes (notesSpan blk) [.flashRead, .flashProgram]] ++
    (if ramFit then [⟨.overlay, .ram, (overlaySpan blk).base, (overlaySpan blk).size, [.ramRead, .ramWrite]⟩] else [])

/-! ### Steps of LOAD (R171 to R174) -/

def setPhase (p : Phase) (s : State) : State := { s with seq := { s.seq with phase := p } }

def setLoadStep (l : LoadStep) (s : State) : State := { s with seq := { s.seq with loadStep := l } }

def setFlash (f : FlashState) (s : State) : State := { s with port := { s.port with flash := f } }

/-- FAULT is entered: ATTN and the FAULT pattern, whatever the enables (R174). -/
def enterFault (s : State) : State :=
  { s with
    seq := { s.seq with phase := .fault, loadStep := .done }
    port := { s.port with flash := .free }
    status := { s.status with playing := some (.fault, Pattern.fault.length), waiting := none } }

/-- SCAN is entered: the receiver becomes active and the first read of the resume scan is granted (R28, R39, R125,
R173, R175). -/
def enterScan (s : State) : State :=
  setFlash .reading
    (setPhase .scan (setLoadStep .done { s with notes := { s.notes with resumeScan := some (.forward 0) } }))

/-- After the flash windows: the overlay header with RAM fitted, else SCAN (R173, R91). -/
def afterMain (s : State) : State :=
  if s.seq.ramFit then setFlash .free (setLoadStep .overlayHeader s) else enterScan s

/-- After JOB: the MAIN header, where MAIN is present (R42). -/
def afterJob (s : State) : State :=
  if (s.port.region .main).isSome then setLoadStep .mainHeader s else afterMain s

/-- The dictionary headers are read, JOB first (R42). -/
def readHeaders (s : State) : State :=
  if (s.port.region .job).isSome then setLoadStep .jobHeader s else afterJob s

/-- Acceptance (R173): settings, regions, mask and enables are installed in one step, and MARK sampling starts. -/
def accept (blk : List Byte) (t : Settings) (s : State) : State :=
  { s with
    seq := { s.seq with accepted := true }
    settings := t
    port := { s.port with regions := installedRegions blk s.seq.ramFit }
    status :=
      { s.status with
        mask := BitVec.ofNat 32 (fieldAt blk 62 4), enables := BitVec.ofNat 4 (fieldAt blk 66 1) }
    scanner := { s.scanner with markActive := true, period := some 0 } }

/-- The block's own checks before clamping: CRC and version (R171 steps 1 and 2). A device that was not ready gives a
block that fails its CRC (R35). -/
def blockGood (blk : List Byte) (ready : Bool) : Bool :=
  ready && decide (fieldAt blk 443 2 = (crc16 (byteBits (blk.take 443))).toNat) && decide (fieldAt blk 0 2 = 1)

/-- The configuration block as the port reads it through the default window (R33, R171). -/
def configBlock (s : State) : List Byte := s.port.dataAt .default 0 configLength

/-- The configuration block is read and judged (R171 to R173). -/
def configRead (s : State) : State :=
  let blk := configBlock s
  if blockGood blk s.port.deviceReady then
    let (t, clamped) := readSettings blk
    let s1 := setFlagIf clamped .configClamped s
    if regionsGood blk t s.seq.ramFit then readHeaders (accept blk t s1) else enterFault s1
  else enterFault s

/-! ### Dictionary headers (R42) -/

def dictMagic : Nat := 0x5A3C9617

/-- The geometry of a dictionary whose header passes every check of R42, in a region of `size` bytes. -/
def dictGeometry (size : Nat) (h : List Byte) : Option Geometry :=
  let m := fieldAt h 4 1
  let heap := fieldAt h 6 4
  let heapSize := fieldAt h 10 4
  if fieldAt h 0 4 = dictMagic ∧ fieldAt h 14 2 = (crc16 (byteBits (h.take 14))).toNat ∧ 8 ≤ m ∧ m ≤ 22 ∧
      16 + 4 * 2 ^ m ≤ size ∧ 16 + 4 * 2 ^ m ≤ heap ∧ 1 ≤ heapSize ∧ heap + heapSize ≤ size then
    some ⟨2 ^ m, max 1 (min 64 (fieldAt h 5 1)), 16, heap, heapSize⟩
  else none

/-- The header of a window is read and judged: enabled, or disabled with DICT_BAD (R42). -/
def judgeWindow (w : Window) (s : State) : Option Geometry :=
  (s.port.readAt w.region 0 16).bind (dictGeometry (((s.port.region w.region).map Region.size).getD 0))

def jobRead (s : State) : State :=
  let g := judgeWindow .w1 s
  afterJob (setFlagIf g.isNone .dictBad { s with lookup := { s.lookup with w1 := g } })

def mainRead (s : State) : State :=
  let g := judgeWindow .w2 s
  afterMain (setFlagIf g.isNone .dictBad { s with lookup := { s.lookup with w2 := g } })

/-- A dictionary header read ends. -/
def headerRead (s : State) : State :=
  if s.seq.phase = .load then
    match s.seq.loadStep with
    | .jobHeader => jobRead s
    | .mainHeader => mainRead s
    | .recovery | .config | .overlayHeader | .done => s
  else s

/-- The overlay header is read: the overlay is kept or cleared, W0 is enabled, SCAN begins (R43, R91). -/
def overlayRead (s : State) : State :=
  let s := if s.seq.resetKind = .pin ∧ overlayKept s then s else clearOverlay s
  enterScan { s with lookup := { s.lookup with w0 := some (overlayGeometry s) } }

/-! ### SCAN, LISTEN and RUN (R175, R176) -/

/-- A held MARK edge is delivered: its note, and the mark-next latch (R15). -/
def deliverMark (s : State) : State :=
  match s.scanner.heldMark with
  | none => s
  | some t =>
    handNote (.mark t)
      { s with
        scanner := { s.scanner with heldMark := none }
        translator := { s.translator with markNext := true } }

/-- LISTEN is entered in one act: scanning and the translator become active and the presence timer starts (R175). -/
def enterListen (s : State) : State :=
  { s with
    seq := { s.seq with phase := .listen, listenExpiries := 0 }
    port := { s.port with flash := .free }
    scanner := { s.scanner with active := true }
    translator := { s.translator with active := true }
    peers := { s.peers with timer := some s.settings.presence } }

/-- The end of the resume scan (R18, R28 to R30, R175). -/
def resumeEnds (s : State) : State := arbitrate (deliverMark (enterListen (resumeNotes s)))

/-- The entry to RUN (R176): transmitter and release become active, a PRESENCE is handed, the vacancy timer starts and
vacancy is found when the known holder is absent. -/
def enterRun (s : State) : State :=
  let s := setPhase .run { s with release := { s.release with active := true } }
  let s := handFrame ⟨.presence, none, false⟩ (settle s)
  let s := { s with peers := { s.peers with timer := some s.settings.presence } }
  vacancyFound (restartVacancy s)

/-- An expiry of the presence timer (R140, R144, R176). -/
def presenceExpired (s : State) : State :=
  let s := absenceCheck { s with peers := { s.peers with timer := some s.settings.presence } }
  match s.seq.phase with
  | .run => handFrame ⟨.presence, none, false⟩ s
  | .listen =>
    let s := { s with seq := { s.seq with listenExpiries := s.seq.listenExpiries + 1 } }
    if s.seq.listenExpiries = 2 then enterRun s else s
  | .reset | .load | .fault | .scan => s

end Sys2Proof.Machine
end

