-- ==== Sys2Proof/Machine/ExecFloor.lean ====
section
/-! DEFINITION. The commands of the timers of peers, floor and status. -/

namespace Sys2Proof.Machine

/-- PRESENCE_TIMER_EXPIRY (R140, R144, R176). -/
def execPresenceTimerExpiry (s : State) : Host.Outcome State Fault Refusal :=
  .next (onExpiry s.peers.timer presenceExpired s)

/-- VACANCY_TIMER_EXPIRY (R154): the timer runs in OFF, in RUN. -/
def execVacancyTimerExpiry (s : State) : Host.Outcome State Fault Refusal :=
  .next (if inRun s ∧ s.floor.state = .off then onExpiry s.floor.vacancyTimer vacancyExpired s else s)

/-- CLAIM_WAIT_END (R155). -/
def execClaimWaitEnd (s : State) : Host.Outcome State Fault Refusal :=
  .next (if inRun s then onExpiry s.floor.claimWait claimWaitEnded s else s)

/-- CLAIM_HOLD_OFF_END (R156). -/
def execClaimHoldOffEnd (s : State) : Host.Outcome State Fault Refusal :=
  .next (if inRun s then onExpiry s.floor.holdOff holdOffEnded s else s)

/-- CLAIM_WINDOW_EXPIRY (R157). -/
def execClaimWindowExpiry (s : State) : Host.Outcome State Fault Refusal :=
  .next (if inRun s ∧ s.floor.state = .claiming then onExpiry s.floor.claimWindow claimWon s else s)

/-- RELIEF_TIMER_EXPIRY (R165). -/
def execReliefTimerExpiry (s : State) : Host.Outcome State Fault Refusal :=
  .next (if inRun s ∧ s.floor.state = .requesting then onExpiry s.floor.reliefTimer reliefExpired s else s)

/-- YIELD_TIMER_EXPIRY (R160): the cut. -/
def execYieldTimerExpiry (s : State) : Host.Outcome State Fault Refusal :=
  .next (if inRun s ∧ s.floor.state = .yielding then onExpiry s.floor.yieldTimer makeCut s else s)

/-- PATTERN_END (R174, R180). -/
def execPatternEnd (s : State) : Host.Outcome State Fault Refusal :=
  .next (onExpiry (s.status.playing.map Prod.snd) nextPattern s)

end Sys2Proof.Machine
end

