-- ==== Sys2Proof/Machine/ExecStart.lean ====
section
/-! DEFINITION. The commands of the start-up sequencer: the two resets and the steps of LOAD and SCAN. A command whose
event cannot come about in the present state leaves the state as it is (log entry 5). -/

namespace Sys2Proof.Machine

/-- POWER_ON_RESET (R170): every block at its value after reset; the devices hold what they hold at power-on. -/
def execPowerOnReset (straps : Straps) (flash ram : List Host.Cell) (s : State) :
    Host.Outcome State Fault Refusal :=
  .next <| State.started .powerOn straps (Memory.ofCells Config.flashSpace flash)
    (Memory.ofCells Config.ramSpace ram) s.pending s.freeCount

/-- PIN_RESET (R170): as power-on reset, with both devices keeping their contents; a program cut off leaves what the
flash device reached (R18, R32). -/
def execPinReset (straps : Straps) (s : State) : Host.Outcome State Fault Refusal :=
  let s := leaveResidue s
  .next (State.started .pin straps s.port.flashMem s.port.ramMem s.pending s.freeCount)

/-- The device is ready, or its 50 ms have passed: the configuration read is granted (R35, R171). -/
def recoveryOver (ready : Bool) (s : State) : State :=
  let s := if ready then s else elapse (s.port.timer.getD 0) s
  { s with
    seq := { s.seq with loadStep := .config }
    port := { s.port with flash := .reading, timer := none, deviceReady := ready } }

/-- FLASH_RECOVERY_END (R35). -/
def execFlashRecoveryEnd (ready : Bool) (s : State) : Host.Outcome State Fault Refusal :=
  .next (if s.seq.phase = .load ∧ s.seq.loadStep = .recovery then recoveryOver ready s else s)

/-- CONFIG_READ_DONE (R171 to R174). -/
def execConfigReadDone (s : State) : Host.Outcome State Fault Refusal :=
  .next (if s.seq.phase = .load ∧ s.seq.loadStep = .config then configRead s else s)

/-- DICT_HEADER_READ_DONE (R42). -/
def execDictHeaderReadDone (s : State) : Host.Outcome State Fault Refusal :=
  .next (headerRead s)

/-- OVERLAY_HEADER_READ_DONE (R91). -/
def execOverlayHeaderReadDone (s : State) : Host.Outcome State Fault Refusal :=
  .next (if s.seq.phase = .load ∧ s.seq.loadStep = .overlayHeader then overlayRead s else s)

/-- RESUME_SCAN_END (R28 to R30, R175). -/
def execResumeScanEnd (s : State) : Host.Outcome State Fault Refusal :=
  .next (if s.seq.phase = .scan then resumeEnds s else s)

end Sys2Proof.Machine
end

