-- ==== Sys2Proof/Machine/ExecTranslate.lean ====
section
/-! DEFINITION. The commands of the translator, the lookup unit and the release unit. -/

namespace Sys2Proof.Machine

/-- The translator is active and idle (R50, R51). -/
def translatorIdle (s : State) : Bool := s.translator.active && s.translator.work.isEmpty

/-- What a stroke event has to do: the stroke, then the overrun marker it carries (R51, R61). -/
def strokeWork (q : QueuedStroke) : List Work :=
  [.staleTest, .stroke ⟨q.stroke.number, q.stroke.keys, q.stroke.start⟩] ++
    match q.overrun with
    | some count => [.markerMet, .force, .marker q.stroke.number count q.stroke.finish]
    | none => []

/-- The oldest stroke is taken (R12, R51). -/
def takeStroke (s : State) : State :=
  match s.strokes with
  | [] => s
  | q :: rest => beginEvent (strokeWork q) (strokeReported { s with strokes := rest })

/-- STROKE_EVENT (R51). -/
def execStrokeEvent (s : State) : Host.Outcome State Fault Refusal :=
  .next (if translatorIdle s then takeStroke s else s)

/-- TIMER_EVENT (R51, R58). -/
def execTimerEvent (s : State) : Host.Outcome State Fault Refusal :=
  .next
    (if translatorIdle s then onExpiry s.translator.resolveTimer (beginEvent [.staleTest, .force]) s else s)

/-- The result of a lookup whose windows are searched goes to the translator, the inbox is emptied, and the next
request is taken (R47, R100). A recomputation takes its result into the sequence and goes on behind the inbox, so that
its last test of the stale mark sees a store applied at this completion (R64); any other event goes on before it
(log entry 32). -/
def lookupCompletes (s : State) : State :=
  match s.lookup.search with
  | none => s
  | some q =>
    if q.probe.isSome then s
    else
      let s := setSearch none s
      match s.translator.work with
      | .recompute i :: w => takeRequest (recomputeNext i w (applyInbox (setResult i q.result s)))
      | _ => takeRequest (applyInbox (continueEvent q.result s))

/-- LOOKUP_COMPLETION (R47, R100). -/
def execLookupCompletion (s : State) : Host.Outcome State Fault Refusal :=
  .next (lookupCompletes s)

/-- The hold-back timer reaches 0: the release check (R112, R113). -/
def holdBackExpired (s : State) : State :=
  settle { s with release := { s.release with holdTimer := none } }

/-- HOLD_BACK_TIMER_EXPIRY (R112, R113). -/
def execHoldBackTimerExpiry (s : State) : Host.Outcome State Fault Refusal :=
  .next (onExpiry s.release.holdTimer holdBackExpired s)

end Sys2Proof.Machine
end

