-- ==== Sys2Proof/Machine/Capture.lean ====
section
/-! DEFINITION. Stroke capture: debounce, chord former, strokes, stroke queue and the MARK line (R1 to R15). -/

namespace Sys2Proof.Machine

/-! ### Debounce (R4) -/

/-- A cell after one reading, and whether its debounced state changed. -/
def debounceCell (limit : Nat) (reading : Bool) (c : CellState) : CellState × Bool :=
  if reading = c.pressed then (⟨c.pressed, 0⟩, false)
  else if c.count + 1 < limit then (⟨c.pressed, c.count + 1⟩, false)
  else (⟨reading, 0⟩, true)

/-- The 24 cells after one scan, each with whether it changed. -/
def debounceCells (limit : Nat) (image : BitVec 24) (cells : List CellState) : List (CellState × Bool) :=
  cells.zipIdx.map fun c => debounceCell limit (image.getLsbD c.2) c.1

/-- The key set of the positions 0..22 that satisfy a test (R1). -/
def keysWhere (test : Nat → Bool) : KeySet :=
  (List.range 23).foldl (fun k p => if test p then k ||| BitVec.twoPow 23 p else k) 0

/-- Keys reported down in a scan. -/
def keysDown (cells : List (CellState × Bool)) : KeySet :=
  keysWhere fun p => ((cells[p]?).map fun c => c.1.pressed && c.2).getD false

/-- Keys whose debounced state is pressed after a scan. -/
def keysHeld (cells : List (CellState × Bool)) : KeySet :=
  keysWhere fun p => ((cells[p]?).map fun c => c.1.pressed).getD false

/-- Cell 23 changed from up to pressed (R5). -/
def faultDown (cells : List (CellState × Bool)) : Bool :=
  ((cells[23]?).map fun c => c.1.pressed && c.2).getD false

/-! ### Completed strokes (R10 to R13, R16) -/

/-- A stroke at a full queue raises the overrun count of the newest record, saturating at 65535 (R13). -/
def QueuedStroke.overrunMore (q : QueuedStroke) : QueuedStroke :=
  { q with overrun := some (min (q.overrun.getD 0 + 1) 65535) }

/-- A stroke offered to the stroke queue (R12, R13). -/
def offerStroke (r : StrokeRecord) (s : State) : State :=
  if s.strokes.length < 16 then { s with strokes := s.strokes ++ [⟨r, none⟩] }
  else
    setFlag .strokeOverrun
      { s with strokes := s.strokes.modify (s.strokes.length - 1) QueuedStroke.overrunMore }

/-- The duration of a STROKE note: end minus start, at most 65535 (R16). -/
def strokeDuration (r : StrokeRecord) : BitVec 16 := BitVec.ofNat 16 (min (r.finish - r.start).toNat 65535)

/-- A completed stroke is handed to the notes writer and offered to the queue (R11). -/
def strokeDone (r : StrokeRecord) (s : State) : State :=
  offerStroke r (handNote (.stroke r.number r.start r.keys (strokeDuration r)) s)

/-- A chord completes at time t with this accumulator (R7, R10). -/
def completeChord (keys : KeySet) (t : Word) (s : State) : State :=
  let r : StrokeRecord := ⟨s.scanner.nextStroke.getD 1, keys, s.scanner.chordStart.getD t, t⟩
  strokeDone r
    { s with
      scanner :=
        { s.scanner with
          chord := .idle, accumulator := 0, chordStart := none, nextStroke := some (succNonzero r.number) } }

/-! ### The chord former (R6 to R9) -/

/-- The chord has been open beyond the stuck limit (R8). -/
def chordStuck (s : State) (t : Word) : Bool :=
  decide ((s.settings.stuckLimit : Int) * 1000 < interval (s.scanner.chordStart.getD t) t)

/-- The chord former at one scan, with the keys reported down and the keys held after it. -/
def chordStep (down held : KeySet) (t : Word) (s : State) : State :=
  match s.scanner.chord with
  | .idle =>
    if down = 0 then s
    else { s with scanner := { s.scanner with chord := .chord, accumulator := down, chordStart := some t } }
  | .chord =>
    let keys := s.scanner.accumulator ||| down
    if held = 0 then completeChord keys t s
    else if chordStuck s t then
      setFlag .keyStuck { s with scanner := { s.scanner with chord := .drain, accumulator := 0, chordStart := none } }
    else { s with scanner := { s.scanner with accumulator := keys } }
  | .drain => if held = 0 then { s with scanner := { s.scanner with chord := .idle } } else s

/-- The matrix part of a scan at time t (R2, R4, R5). -/
def scanKeys (image : BitVec 24) (t : Word) (s : State) : State :=
  let cells := debounceCells s.settings.debounce image s.scanner.cells
  let s := { s with scanner := { s.scanner with image := image, cells := cells.map Prod.fst } }
  let s := setFlagIf (faultDown cells) .keyFault s
  chordStep (keysDown cells) (keysHeld cells) t s

/-! ### The MARK line (R14, R15) -/

/-- A MARK falling edge at time t: held before LISTEN, where the first edge's time stays; else its note and the latch. -/
def markEdge (t : Word) (s : State) : State :=
  if s.scanner.active then
    handNote (.mark t) { s with translator := { s.translator with markNext := true } }
  else
    { s with scanner := { s.scanner with heldMark := some (s.scanner.heldMark.getD t) } }

/-- One MARK sample: debounced as a cell with pressed read as low; the first sample sets the level with no edge. -/
def sampleMark (high : Bool) (t : Word) (s : State) : State :=
  match s.scanner.markLevel with
  | none => { s with scanner := { s.scanner with markLevel := some high, markCount := 0 } }
  | some level =>
    let (c, changed) := debounceCell s.settings.debounce (!high) ⟨!level, s.scanner.markCount⟩
    let s := { s with scanner := { s.scanner with markLevel := some (!c.pressed), markCount := c.count } }
    if changed && c.pressed then markEdge t s else s

/-! ### One scan -/

/-- A scan at the start of its period: the matrix while scanning is active, then the MARK sample (R2, R14). The time
left to the start of the period passes first. -/
def takeScan (image : BitVec 24) (markHigh : Bool) (s : State) : State :=
  match s.scanner.period with
  | none => s
  | some n =>
    let s := elapse n s
    let t := s.seq.clock
    let s := { s with scanner := { s.scanner with period := some s.settings.scanPeriod } }
    let s := if s.scanner.active then scanKeys image t s else s
    if s.scanner.markActive then sampleMark markHigh t s else s

end Sys2Proof.Machine
end

