-- ==== Sys2Proof/Machine/ExecWrite.lean ====
section
/-! DEFINITION. The commands of the key scanner, the notes writer and the memory port. -/

namespace Sys2Proof.Machine

/-- SCAN (R2, R14): with MARK sampling or scanning active, at the start of the next scan period. -/
def execScan (image : BitVec 24) (markHigh : Bool) (s : State) : Host.Outcome State Fault Refusal :=
  .next (takeScan image markHigh s)

/-- The flush timer reaches 0: a flush falls due for waiting records, and a burst is requested (R20, R21). -/
def flushExpired (s : State) : State :=
  arbitrate
    { s with
      notes := { s.notes with flushTimer := none, flushDue := s.notes.flushDue || decide (0 < s.notes.waiting) } }

/-- FLUSH_TIMER_EXPIRY (R20). -/
def execFlushTimerExpiry (s : State) : Host.Outcome State Fault Refusal :=
  .next (onExpiry s.notes.flushTimer flushExpired s)

/-- BURST_START (R21): the burst the arbiter has granted. -/
def execBurstStart (s : State) : Host.Outcome State Fault Refusal :=
  .next (if s.port.flash = .free ∧ s.port.burstGranted ∧ s.notes.wantsBurst then startBurst s else s)

/-- A flash read ends: the lookup or the resume scan goes on with its data (R36, R28); the reads of LOAD end by their
own commands. -/
def readEnds (s : State) : State :=
  match s.seq.phase, s.notes.resumeScan with
  | .listen, _ | .run, _ => flashReadEnds s
  | .scan, some x => scanReadEnds x s
  | .scan, none | .reset, _ | .load, _ | .fault, _ => s

/-- FLASH_READ_DONE (R36). -/
def execFlashReadDone (s : State) : Host.Outcome State Fault Refusal :=
  .next (if s.port.flash = .reading then readEnds s else s)

/-- PROGRAM_POLL_RESULT (R37): done, or failed. -/
def execProgramPollResult (error : Bool) (s : State) : Host.Outcome State Fault Refusal :=
  .next (if s.port.flash = .programming then (if error then operationFailed s else operationDone s) else s)

/-- The recovery limit after a timed-out program, 5 ms (R37). -/
def programRecoveryLimit : Nat := 5

/-- The 50 ms timer has expired with the device busy (R37). -/
def programExpired (s : State) : State :=
  { s with port := { s.port with flash := .recovering, timer := some programRecoveryLimit } }

/-- PROGRAM_TIMEOUT (R37). -/
def execProgramTimeout (s : State) : Host.Outcome State Fault Refusal :=
  .next (if s.port.flash = .programming then onExpiry s.port.timer programExpired s else s)

/-- RECOVERY_END (R37): the program is reported timed out. -/
def execRecoveryEnd (ready : Bool) (s : State) : Host.Outcome State Fault Refusal :=
  .next
    (if s.port.flash = .recovering ∧ s.notes.burst.isSome then
      operationFailed (if ready then s else elapse (s.port.timer.getD 0) s)
    else s)

end Sys2Proof.Machine
end

