-- ==== Sys2Proof/Machine/Dispatch.lean ====
section
/-! DEFINITION. One arm for each command. -/

namespace Sys2Proof.Machine

def exec (i : Instr) (s : State) : Host.Outcome State Fault Refusal :=
  match i with
  | .powerOnReset straps flash ram => Sys2Proof.Machine.execPowerOnReset straps flash ram s
  | .pinReset straps => Sys2Proof.Machine.execPinReset straps s
  | .flashRecoveryEnd ready => Sys2Proof.Machine.execFlashRecoveryEnd ready s
  | .configReadDone => Sys2Proof.Machine.execConfigReadDone s
  | .dictHeaderReadDone => Sys2Proof.Machine.execDictHeaderReadDone s
  | .overlayHeaderReadDone => Sys2Proof.Machine.execOverlayHeaderReadDone s
  | .resumeScanEnd => Sys2Proof.Machine.execResumeScanEnd s
  | .scan image markHigh => Sys2Proof.Machine.execScan image markHigh s
  | .flushTimerExpiry => Sys2Proof.Machine.execFlushTimerExpiry s
  | .burstStart => Sys2Proof.Machine.execBurstStart s
  | .flashReadDone => Sys2Proof.Machine.execFlashReadDone s
  | .programPollResult error => Sys2Proof.Machine.execProgramPollResult error s
  | .programTimeout => Sys2Proof.Machine.execProgramTimeout s
  | .recoveryEnd ready => Sys2Proof.Machine.execRecoveryEnd ready s
  | .strokeEvent => Sys2Proof.Machine.execStrokeEvent s
  | .timerEvent => Sys2Proof.Machine.execTimerEvent s
  | .lookupCompletion => Sys2Proof.Machine.execLookupCompletion s
  | .holdBackTimerExpiry => Sys2Proof.Machine.execHoldBackTimerExpiry s
  | .frameSendStart => Sys2Proof.Machine.execFrameSendStart s
  | .arbitrationLost => Sys2Proof.Machine.execArbitrationLost s
  | .transmitError startBit => Sys2Proof.Machine.execTransmitError s startBit
  | .frameSent => Sys2Proof.Machine.execFrameSent s
  | .busStuck dominantMs => Sys2Proof.Machine.execBusStuck dominantMs s
  | .frameDiscarded frame => Sys2Proof.Machine.execFrameDiscarded frame s
  | .claimReceived frame => Sys2Proof.Machine.execClaimReceived frame s
  | .reliefReqReceived frame => Sys2Proof.Machine.execReliefReqReceived frame s
  | .reliefBusyReceived frame => Sys2Proof.Machine.execReliefBusyReceived frame s
  | .passReceived frame => Sys2Proof.Machine.execPassReceived frame s
  | .passOtherReceived frame => Sys2Proof.Machine.execPassOtherReceived frame s
  | .floorFreeReceived frame => Sys2Proof.Machine.execFloorFreeReceived frame s
  | .recordReceived frame => Sys2Proof.Machine.execRecordReceived frame s
  | .clearReceived frame => Sys2Proof.Machine.execClearReceived frame s
  | .textReceived frame => Sys2Proof.Machine.execTextReceived frame s
  | .defineReceived frame => Sys2Proof.Machine.execDefineReceived frame s
  | .presenceReceived frame => Sys2Proof.Machine.execPresenceReceived frame s
  | .retractReceived frame => Sys2Proof.Machine.execRetractReceived frame s
  | .replaceReceived frame => Sys2Proof.Machine.execReplaceReceived frame s
  | .shadowReceived frame => Sys2Proof.Machine.execShadowReceived frame s
  | .presenceTimerExpiry => Sys2Proof.Machine.execPresenceTimerExpiry s
  | .vacancyTimerExpiry => Sys2Proof.Machine.execVacancyTimerExpiry s
  | .claimWaitEnd => Sys2Proof.Machine.execClaimWaitEnd s
  | .claimHoldOffEnd => Sys2Proof.Machine.execClaimHoldOffEnd s
  | .claimWindowExpiry => Sys2Proof.Machine.execClaimWindowExpiry s
  | .reliefTimerExpiry => Sys2Proof.Machine.execReliefTimerExpiry s
  | .yieldTimerExpiry => Sys2Proof.Machine.execYieldTimerExpiry s
  | .patternEnd => Sys2Proof.Machine.execPatternEnd s
  | .busIdle => Sys2Proof.Machine.execBusIdle s

end Sys2Proof.Machine
end

