-- ==== Sys2Proof/Safety.lean ====
section
/-! DEFINITION. What holds of the part at every moment, and the words in which claims about it are made. -/

namespace Sys2Proof.Machine

/-! ### What every step keeps -/

/-- Both devices' contents stand in canonical form. -/
def MemoryGood (s : State) : Prop := Memory.wf s.port.flashMem ∧ Memory.wf s.port.ramMem

/-- Positions 22..31 of the status flags stay clear (R177). -/
def FlagsGood (s : State) : Prop := s.status.flags &&& ~~~usedFlags = 0

/-- The bounds of the collections: stroke queue (R12), definition inbox (R99), pending sequence (R52), transmit queue
(R130), note FIFO (R19), peer table (R139), write position (R17). -/
def QueuesGood (s : State) : Prop :=
  s.strokes.length ≤ 16 ∧ s.inbox.length ≤ 4 ∧ s.translator.sequence.length ≤ 8 ∧
    s.bus.queue.length ≤ 24 ∧ lowClassCount s.bus.queue ≤ 20 ∧
    s.notes.fifo.length ≤ 9 ∧ handedCount s.notes.fifo ≤ 8 ∧
    s.peers.table.length = 16 ∧ s.notes.writePos.getD 0 % 16 = 0

/-- The HELD units are a contiguous tail (R85). -/
def HeldTail (h : List TextUnit) : Prop := h.Pairwise fun u v => u.released = false → v.released = false

/-- The history: at most 32 units, the HELD ones a contiguous tail, and Off-record text on the shadow stream only
(R85, R110, R116). -/
def HistoryGood (s : State) : Prop :=
  s.translator.history.length ≤ 32 ∧ HeldTail s.translator.history ∧
    ∀ u ∈ s.translator.history, u.offRecord = true → u.stream = .shadow

/-- The debounced state of key p is up. -/
def keyUp (s : State) (p : Nat) : Prop := (s.scanner.cells[p]?.map CellState.pressed).getD false = false

/-- The chord former: an open chord holds a key, in IDLE every key is up, and no stroke has an empty key set (R6). -/
def ChordGood (s : State) : Prop :=
  (s.scanner.chord = .chord → s.scanner.accumulator ≠ 0) ∧
    (s.scanner.chord = .idle → ∀ p < 23, keyUp s p) ∧
    ∀ q ∈ s.strokes, q.stroke.keys ≠ 0

/-! ### Words for claims -/

/-- A command that resets the part. -/
def isReset : Instr → Bool
  | .powerOnReset _ _ _ => true
  | .pinReset _ => true
  | _ => false

/-- The frame is read to its end by this station, passes the checks of R135 and R183, and says m from a. -/
def Accepts (s : State) (f : LineFrame) (a : Station) (m : Msg) : Prop :=
  canReceive s = true ∧ f.judge s.seq.addr = .accepted a m

/-- An address of the RAM that the OVERLAY region holds (R33). -/
def InOverlay (s : State) (x : Nat) : Prop :=
  ∃ r, s.port.region .overlay = some r ∧ r.base ≤ x ∧ x < r.base + r.size

/-- Neither device's contents have changed. -/
def DevicesKept (s t : State) : Prop := t.port.flashMem = s.port.flashMem ∧ t.port.ramMem = s.port.ramMem

/-- The flag set after setting a flag where a condition holds. -/
def flagsWith (s : State) (c : Bool) (f : Flag) : Word := if c then s.status.flags ||| f.mask else s.status.flags

/-- A scan is due in n ms, with key scanning active. -/
def ScanDue (s : State) (n : Nat) : Prop := s.scanner.period = some n ∧ s.scanner.active = true

/-- The cells as a scan of this image leaves them, each with whether it changed (R4). -/
def cellsAfter (s : State) (image : BitVec 24) : List (CellState × Bool) :=
  debounceCells s.settings.debounce image s.scanner.cells

/-- The local time in n ms. -/
def timeAfter (s : State) (n : Nat) : Word := s.seq.clock + BitVec.ofNat 32 n

/-- A STROKE note. -/
def isStrokeNote : Note → Bool
  | .stroke _ _ _ _ => true
  | _ => false

/-- The STROKE notes in the note FIFO and among the notes held before the path opens. -/
def strokeNotes (s : State) : List Note := (s.notes.heldNotes ++ s.notes.fifo).filter isStrokeNote

/-- No HELD unit waits for a floor outcome. -/
def NoPending (s : State) : Prop := ∀ u ∈ s.translator.history, u.released = false → u.stream ≠ .pending

/-- No HELD unit of the history is due, now or on any stream it may be given. -/
def NothingDue (s : State) : Prop := ∀ u ∈ s.translator.history, u.released = false → due s u = false

/-- A frame as it stands in the transmit queue, waiting. -/
def waitingFrame (m : Msg) (dest : Option Station) : TxFrame := ⟨.msg m, dest, false⟩

/-- In RUN, with a free slot in the transmit queue for a floor or record frame. -/
def RoomToSend (s : State) : Prop := s.seq.phase = .run ∧ s.bus.queue.length < 24

/-! ### Words for claims about start-up -/

/-- An address of a span. -/
def Span.has (p : Span) (a : Nat) : Prop := p.base ≤ a ∧ a < p.base + p.size

/-- Two spans share no address. -/
def Span.Apart (p q : Span) : Prop := ∀ a, ¬ (p.has a ∧ q.has a)

/-- A size that is a power of two from 4 KiB to `top`, a base that is a multiple of it, a span inside `limit`
(R171 step 4). -/
def Span.Allowed (p : Span) (top limit : Nat) : Prop :=
  (∃ k, 12 ≤ k ∧ p.size = 2 ^ k) ∧ p.size ≤ top ∧ p.size ∣ p.base ∧ p.base + p.size ≤ limit

/-- A flash region R171 step 4 allows, apart from CONFIG. -/
def Span.AllowedInFlash (p : Span) (t : Settings) : Prop :=
  p.Allowed (16 * 1048576) (t.flashSize * 1048576) ∧ p.Apart ⟨0, 4096⟩

/-- R171 step 4 in the manual's words, against the clamped sizes. -/
def RegionsAllowed (blk : List Byte) (t : Settings) (ramFit : Bool) : Prop :=
  (notesSpan blk).AllowedInFlash t ∧
    (∀ p ∈ [mainSpan blk, jobSpan blk], p.size ≠ 0 → p.AllowedInFlash t ∧ p.Apart (notesSpan blk)) ∧
    (ramFit = true →
      (overlaySpan blk).Allowed (2 * 1048576) (t.ramSize * 1024) ∧
        16 + 4 * 2 ^ t.overlayLog2 + t.overlayHeap * 1024 ≤ (overlaySpan blk).size)

/-- Steps 1 and 2 of R171 on a block of 445 bytes: the CRC-16 over the 443 bytes before its field, and version 1. -/
def BlockSound (blk : List Byte) : Prop :=
  BitVec.ofNat 16 (fieldAt blk 443 2) = crc16 (byteBits (blk.take 443)) ∧ fieldAt blk 0 2 = 1

/-- A clamped quantity takes its field of `n` bytes by R172: all 0xFF gives the default and no flag, a value in range
stands, a value outside takes the nearer end and the flag. -/
def Clamped.Takes (c : Clamped) (blk : List Byte) (off n lo hi standard : Nat) : Prop :=
  let v := fieldAt blk off n
  if v = 256 ^ n - 1 then c = ⟨standard, false⟩
  else if v < lo then c = ⟨lo, true⟩
  else if hi < v then c = ⟨hi, true⟩
  else c = ⟨v, false⟩

/-- A 16-byte dictionary header passes every check of R42 in a region of `size` bytes, with these fields. -/
def HeaderSound (size : Nat) (h : List Byte) (m heap heapSize : Nat) : Prop :=
  fieldAt h 0 4 = 0x5A3C9617 ∧ BitVec.ofNat 16 (fieldAt h 14 2) = crc16 (byteBits (h.take 14)) ∧
    fieldAt h 4 1 = m ∧ fieldAt h 6 4 = heap ∧ fieldAt h 10 4 = heapSize ∧
    8 ≤ m ∧ m ≤ 22 ∧ 16 + 4 * 2 ^ m ≤ heap ∧ 1 ≤ heapSize ∧ heap + heapSize ≤ size

/-- The overlay header of R90 says that the overlay may be kept (R91): CRC, slot count, heap used, counts. -/
def OverlayHeaderSound (t : Settings) (h : List Byte) : Prop :=
  BitVec.ofNat 16 (fieldAt h 14 2) = crc16 (byteBits (h.take 12)) ∧ fieldAt h 0 4 = 2 ^ t.overlayLog2 ∧
    fieldAt h 4 4 ≤ t.overlayHeap * 1024 ∧ fieldAt h 8 2 + fieldAt h 10 2 ≤ 2 ^ t.overlayLog2

/-- The notes writer as a step of LOAD leaves it: where SCAN begins, the resume scan stands at slot 0 (R28). -/
def scanBegun (s t : State) : NotesWriter :=
  if t.seq.phase = .scan then { s.notes with resumeScan := some (.forward 0) } else s.notes

/-- The sequencer waits in LOAD for this step. -/
def Loading (s : State) (l : LoadStep) : Prop := s.seq.phase = .load ∧ s.seq.loadStep = l

/-! ### Words for claims about capture and notes -/

/-- What a scan n ms from now leaves alone: everything but the scanner, the stroke queue, the notes path with the
arbiter's grant, the mark-next latch and the status unit is as n ms of time leave it. -/
def ScanKept (n : Nat) (s t : State) : Prop :=
  t.pending = s.pending ∧ t.freeCount = s.freeCount ∧ t.seq = (elapse n s).seq ∧ t.settings = s.settings ∧
    t.lookup = s.lookup ∧ t.inbox = s.inbox ∧ t.bus = (elapse n s).bus ∧ t.release = (elapse n s).release ∧
    t.peers = (elapse n s).peers ∧ t.floor = (elapse n s).floor ∧
    t.translator = { (elapse n s).translator with markNext := t.translator.markNext } ∧ DevicesKept s t ∧
    t.port.regions = s.port.regions

/-- Key p is reported down by a scan of this image: up before, read pressed, and its count complete (R4). -/
def KeyGoesDown (s : State) (image : BitVec 24) (p : Nat) : Prop :=
  ∃ c, s.scanner.cells[p]? = some c ∧ c.pressed = false ∧ image.getLsbD p = true ∧ s.settings.debounce ≤ c.count + 1

/-- The note FIFO takes notes: the path is open, with fewer than n records in it. -/
def RoomForNotes (s : State) (n : Nat) : Prop := s.notes.pathOpen = true ∧ s.notes.fifo.length < n

/-- The notes region as an accepted configuration installs it (R33, R171). -/
def NotesRegion (s : State) (r : Region) : Prop :=
  s.port.region .notes = some r ∧ r.device = .flash ∧ r.allowed = [.flashRead, .flashProgram] ∧ 256 ∣ r.base

/-- The first k record slots of the notes region read not erased, and slot k, where there is one, reads erased. -/
def WrittenUpTo (s : State) (r : Region) (k : Nat) : Prop :=
  NotesRegion s r ∧ k ≤ r.size / 16 ∧
    (∀ i < k, slotErased (Memory.readBytes s.port.flashMem (r.base + 16 * i) 16) = false) ∧
    (k < r.size / 16 → slotErased (Memory.readBytes s.port.flashMem (r.base + 16 * k) 16) = true)

/-- Slot j is the newest below k that holds a record of a kind with a good CRC-8. -/
def NewestOfKind (s : State) (r : Region) (kind k j : Nat) : Prop :=
  let slot := fun i => Memory.readBytes s.port.flashMem (r.base + 16 * i) 16
  j < k ∧ slotGood (slot j) = true ∧ fieldAt (slot j) 0 1 = kind ∧
    ∀ i, j < i → i < k → ¬ (slotGood (slot i) = true ∧ fieldAt (slot i) 0 1 = kind)

/-- The notes writer as SCAN finds it: nothing in the FIFO, path not open. -/
def NotesUnopened (s : State) : Prop :=
  s.notes.opened = false ∧ s.notes.fifo = [] ∧ s.notes.burst = none ∧ s.notes.flushTimer = none ∧
    s.notes.flushDue = false ∧ s.notes.halted = false ∧ s.notes.full = false ∧ s.lookup.search = none ∧
    s.port.burstGranted = false

/-- Program operations inside the notes region, each in one 256-byte page (R22). -/
def OpsFit (r : Region) (ops : List (Nat × Nat)) : Prop :=
  ∀ o ∈ ops, 1 ≤ o.2 ∧ o.1 % 16 + o.2 ≤ 16 ∧ o.1 + o.2 ≤ r.size / 16

/-- A burst in flight with its write position at slot w of the notes region r; its operations and its span lie in the
region. -/
def InBurst (s : State) (b : Burst) (r : Region) (w : Nat) : Prop :=
  s.notes.burst = some b ∧ NotesRegion s r ∧ s.notes.writePos = some (16 * w) ∧ w ≤ r.size / 16 ∧
    s.notes.opened = true ∧ s.notes.halted = false ∧ s.notes.full = false ∧ OpsFit r b.ops ∧ 1 ≤ b.count ∧
    b.count ≤ 8 ∧ 1 ≤ b.span.2 ∧ b.span.2 ≤ 8 ∧ b.span.1 + b.span.2 ≤ r.size / 16

/-- The operation in flight is reported failed, or timed out with the device ready again, by this command. -/
def ReportsFailure (s : State) (c : Instr) : Prop :=
  (c = .programPollResult true ∧ s.port.flash = .programming) ∨ (c = .recoveryEnd true ∧ s.port.flash = .recovering)

/-- Programmed bytes: from address a on, each byte holds the AND of what it held and of the data; nothing else in the
flash has changed. -/
def ProgrammedAt (s t : State) (a : Nat) (data : List Byte) : Prop :=
  (∀ i, (hi : i < data.length) → Memory.read t.port.flashMem (a + i) = Memory.read s.port.flashMem (a + i) &&& data[i]) ∧
    ∀ x, x < a ∨ a + data.length ≤ x → Memory.read t.port.flashMem x = Memory.read s.port.flashMem x

/-- A program that did not complete: from address a on, n bytes have bits cleared at most; nothing else has changed.
-/
def PartlyProgrammedAt (s t : State) (a n : Nat) : Prop :=
  (∀ x, Memory.read t.port.flashMem x &&& Memory.read s.port.flashMem x = Memory.read t.port.flashMem x) ∧
    ∀ x, x < a ∨ a + n ≤ x → Memory.read t.port.flashMem x = Memory.read s.port.flashMem x

/-! ### Words for claims about lookup and translation -/

/-- The translator is active and idle with nothing stale, no lookup under way or asked for, and no definition waits.
-/
def Resting (s : State) : Prop :=
  s.translator.active = true ∧ s.translator.work = [] ∧ s.translator.stale = false ∧ s.lookup.search = none ∧
    s.lookup.request = none ∧ s.inbox = []

/-- The lookup q has searched its windows, and the event that waits for it has this work; no definition waits. -/
def AwaitsResult (s : State) (q : Search) (w : List Work) : Prop :=
  s.lookup.search = some q ∧ q.probe = none ∧ s.lookup.request = none ∧ s.inbox = [] ∧ s.translator.work = w

/-- The stream that R110 gives a unit created now. -/
def StreamDecided (s : State) (stream : Stream) : Prop :=
  (s.seq.phase ≠ .run ∨ s.release.recordOn = false → stream = .shadow) ∧
    (s.seq.phase = .run → s.release.recordOn = true →
      (s.floor.state = .on ∨ s.floor.state = .yielding → stream = .official) ∧
      (s.floor.state = .claiming ∨ s.floor.state = .requesting → stream = .pending) ∧
      (s.floor.state = .draining ∨ s.floor.state = .off → stream = .shadow))

/-- What every unit created now carries (R84), whatever its text: `at` is the local time. -/
def CreatedNow (s : State) (now : Word) (strokes : List Word) (start : Word) (u : TextUnit) : Prop :=
  u.number = s.translator.nextUnit ∧ u.strokes = strokes ∧ u.start = start ∧ u.created = now ∧
    u.marked = s.translator.markNext ∧ u.offRecord = !s.release.recordOn ∧ u.truncated = false ∧ u.gap = none ∧
    u.speaker = none ∧ u.snapshot = s.translator.formatting ∧ u.released = false ∧ u.seq = none ∧
    StreamDecided s u.stream

/-- The spacing of R77 for a unit without codes. -/
def SpacedPlainly (f : Formatting) (number : Bool) (u : TextUnit) : Prop :=
  u.paragraph = f.paragraphStart ∧
    (u.spaceBefore = true ↔ f.paragraphStart = false ∧ f.attachNext = false ∧ ¬ (number = true ∧ f.glueLast = true))

/-- What a stroke taken carries on as. -/
def StrokeRecord.taken (r : StrokeRecord) : Taken := ⟨r.number, r.keys, r.start⟩

/-- The work that an overrun marker leaves for the end of its event (R61, R62). -/
def markerWork (q : QueuedStroke) : List Work :=
  match q.overrun with
  | some count => [.markerMet, .force, .marker q.stroke.number count q.stroke.finish]
  | none => []

/-- A text of 1 to 120 literal characters. -/
def PlainText (text : List Byte) : Prop := text ≠ [] ∧ (∀ b ∈ text, definable b = true) ∧ text.length ≤ 120

/-- The number of the unit after the next. -/
def unitAfter (s : State) : Word := if s.translator.nextUnit = 4294967295 then 1 else s.translator.nextUnit + 1

/-- A literal text joins the history as one WORD unit of these strokes, with the text and the formatting state that
assembly gives it (R55, R57, R76, R83, R84). -/
def WordJoins (s t : State) (now : Word) (taken : List Taken) (text : List Byte) : Prop :=
  ∃ u a, assembleEntry s.settings.labels s.translator.formatting text = some a ∧
    t.translator.history = s.translator.history ++ [u] ∧ u.kind = .word ∧ u.text = a.text ∧
    CreatedNow s now (taken.map Taken.number) ((taken.head?.map Taken.start).getD 0) u ∧
    SpacedPlainly s.translator.formatting false u ∧ t.translator.formatting = a.after ∧
    t.translator.markNext = false ∧ t.translator.nextUnit = unitAfter s

/-- A stroke without text joins the history as a NUMBER unit by number conversion, else as an UNTRAN unit with its
untranslate text (R55, R65 to R67, R82). -/
def KeysJoin (s t : State) (now : Word) (x : Taken) : Prop :=
  ∃ u, t.translator.history = s.translator.history ++ [u] ∧ CreatedNow s now [x.number] x.start u ∧
    (∀ digits, convertNumber x.keys = some digits →
      u.kind = .number ∧ u.text = digits ∧ SpacedPlainly s.translator.formatting true u) ∧
    (convertNumber x.keys = none →
      u.kind = .untran ∧ u.text = untranslate x.keys ∧ SpacedPlainly s.translator.formatting false u) ∧
    t.translator.formatting =
      { s.translator.formatting with
        attachNext := false, paragraphStart := false, glueLast := decide (u.kind = .number) } ∧
    t.translator.markNext = false ∧ t.translator.nextUnit = unitAfter s

/-- The strokes behind a resolved front part are re-processed, oldest first: the sequence is emptied and the first of
them is looked up alone, with this work behind (R55, R56). -/
def Reprocesses (t : State) (rest : List Taken) (w : List Work) : Prop :=
  t.translator.sequence = [] ∧ ∀ y ys, rest = y :: ys → t.translator.work = .reprocess rest :: w ∧
    ∃ search, t.lookup.search = some search ∧ search.outline = [y.keys]

/-- The cap mode that the last CAP or LOWER code among some bytes sets; none without one. -/
def lastCase (bytes : List Byte) : Option CapMode :=
  ((bytes.filter fun b => b = 0x02 ∨ b = 0x03).getLast?).map fun b => if b = 0x02 then .capNext else .lowerNext

/-- A byte of a format code without operand: ATTACH, CAP, LOWER, PARA, GLUE (R74). -/
def isFormatByte (b : Byte) : Bool := b = 0x01 ∨ b = 0x02 ∨ b = 0x03 ∨ b = 0x04 ∨ b = 0x06

/-- The literal characters among some bytes. -/
def literalBytes (bytes : List Byte) : List Byte := bytes.filter definable

/-- The cap mode that entry text leaves, in the words of R78 and R79: a code behind the last character decides, then a
sentence end, then the last code behind the first letter, or the mode a spent letter leaves; without a letter the last
code, or the mode before. -/
def CapLeft (spent before after : CapMode) (text trail : List Byte) : Prop :=
  (∀ m, lastCase trail = some m → after = m) ∧
    ∀ b, (literalBytes text).getLast? = some b → lastCase trail = none →
      (endsSentence b = true → after = .capNext) ∧
        (endsSentence b = false →
          (∀ pre c post, text = pre ++ c :: post → (∀ x ∈ pre, isLetter x = false) → isLetter c = true →
            after = (lastCase post).getD spent) ∧
          ((∀ x ∈ text, isLetter x = false) → after = (lastCase text).getD before))

/-- A run of units that are the untranslates of an outline's strokes (R106). -/
def UntranRun (run : List TextUnit) (outline : List KeySet) : Prop :=
  run.map (fun u => (u.kind, u.text)) = outline.map fun k => (UnitKind.untran, untranslate k)

/-- The REPLACE or RETRACT frames that a unit of a retranslated run sends: one where it is RELEASED with a sequence
(R107, R121). -/
def runFrames (say : Bool → Word → Msg) (u : TextUnit) : List TxFrame :=
  match u.released, u.seq with
  | true, some n => [waitingFrame (say (decide (u.stream = .official)) n) none]
  | _, _ => []

/-- What the translator's event leaves alone: sequencer, settings, scanner, peers, the contents of the flash and the
commands waiting. -/
def OutsideTranslator (s t : State) : Prop :=
  t.seq = s.seq ∧ t.settings = s.settings ∧ t.scanner = s.scanner ∧ t.peers = s.peers ∧
    t.port.flashMem = s.port.flashMem ∧ t.port.regions = s.port.regions ∧ t.pending = s.pending ∧
    t.freeCount = s.freeCount

/-- An entry lies whole in the heap at an offset: kind, stroke count, key sets, text length and text (R44, R45). -/
def EntryAt (port : MemoryPort) (r : RegionName) (g : Geometry) (v : Nat) (k : EntryKind) (outline : List KeySet)
    (text : List Byte) : Prop :=
  1 ≤ outline.length ∧ outline.length ≤ 8 ∧ text.length ≤ 120 ∧
    v + 3 + 3 * outline.length + text.length ≤ g.heapSize ∧
    port.readAt r (g.heapBase + v) (3 + 3 * outline.length + text.length) =
      some ([BitVec.ofNat 8 k.code, BitVec.ofNat 8 outline.length] ++ outline.flatMap (fun o => beBytes 3 o.toNat) ++
        [BitVec.ofNat 8 text.length] ++ text)

/-- The value of slot i of a window. -/
def slotAt (port : MemoryPort) (r : RegionName) (g : Geometry) (i : Nat) : Nat :=
  beNat (port.bytesAt r (g.slotBase + 4 * i) 4)

/-- A slot that the probe for an outline goes past: deleted, or an entry of another outline (R44). -/
def GoesPast (port : MemoryPort) (r : RegionName) (g : Geometry) (outline : List KeySet) (i : Nat) : Prop :=
  slotAt port r g i = 0xFFFFFFFE ∨
    ∃ k other text, other ≠ outline ∧ EntryAt port r g (slotAt port r g i) k other text ∧
      slotAt port r g i < 0xFFFFFFFE

/-- The j-th slot that the probe for an outline visits (R44). -/
def visitedSlot (g : Geometry) (outline : List KeySet) (j : Nat) : Nat :=
  ((outlineHash outline).toNat + j) % g.slots

/-! ### Words for claims about release, bus and floor -/

/-- The record of a holding station: ON, YIELDING or DRAINING. -/
def Holding (s : State) : Prop :=
  s.floor.state = .on ∨ s.floor.state = .yielding ∨ s.floor.state = .draining

/-- A history in which every HELD unit of one stream has been given another. -/
def Restreamed (was : Stream) (now : TextUnit → Stream) (h : List TextUnit) : List TextUnit :=
  h.map fun u => if u.released = false ∧ u.stream = was then { u with stream := now u } else u

/-- The vacancy timeout and the claim hold-off in ms (R154, R156). -/
def vacancyMs (s : State) : Nat := s.settings.vacancy * s.settings.presence
def holdOffMs (s : State) : Nat := s.settings.claimWindow + 2 * s.settings.presence

/-- A note handed on an open path with room joins the note FIFO as its newest record (R19). -/
def Noted (s t : State) (n : Note) : Prop :=
  s.notes.opened = true → RoomForNotes s 8 → t.notes.fifo = s.notes.fifo ++ [n]

/-- What taking a frame leaves alone beside the bus: sequencer, settings, scanner, strokes, the translator's own work,
the lookup unit, the contents of the flash, the commands waiting. -/
def OutsideFrame (s t : State) : Prop :=
  t.seq = s.seq ∧ t.settings = s.settings ∧ t.scanner = s.scanner ∧ t.strokes = s.strokes ∧ t.lookup = s.lookup ∧
    t.port.flashMem = s.port.flashMem ∧ t.port.regions = s.port.regions ∧ t.pending = s.pending ∧
    t.freeCount = s.freeCount ∧ t.translator.sequence = s.translator.sequence ∧ t.translator.work = s.translator.work ∧
    t.translator.capture = s.translator.capture ∧ t.translator.resolveTimer = s.translator.resolveTimer

/-- What taking a floor frame leaves alone besides: the overlay, the definition inbox, the peer table, the record
state. -/
def OutsideFloor (s t : State) : Prop :=
  OutsideFrame s t ∧ t.port.ramMem = s.port.ramMem ∧ t.inbox = s.inbox ∧ t.peers = s.peers ∧
    t.release.recordOn = s.release.recordOn

/-- The floor record after entering OFF (R152), before its other changes. -/
def offRecord (s : State) : FloorRecord :=
  { s.floor with
    state := .off, partner := none, cut := none, claimWindow := none, reliefTimer := none, yieldTimer := none,
    vacancyTimer := some (vacancyMs s) }

/-- The floor record after entering ON (R152). -/
def onRecord (s : State) : FloorRecord :=
  { s.floor with
    state := .on, holder := some s.seq.addr, withdrawn := false, partner := none, cut := none, claimWindow := none,
    reliefTimer := none, vacancyTimer := none }

/-- The floor record with a known holder (R153): another station as holder ends the withdrawal. -/
def heldBy (s : State) (a : Station) (r : FloorRecord) : FloorRecord :=
  { r with holder := some a, withdrawn := r.withdrawn && decide (a = s.seq.addr) }

/-- The floor record with the claim wait that a vacancy found starts (R154, R155). -/
def waitStarted (s : State) (r : FloorRecord) : FloorRecord :=
  if r.withdrawn = false ∧ r.claimWait = none ∧ r.holdOff = none ∧ reporterActive s = true then
    { r with claimWait := some (s.seq.addr.toNat * 20) }
  else r

/-- The end of a drain (R162): PASS to the partner, who becomes the known holder, or FLOOR_FREE, after which the holder
is absent and the station withdrawn; then OFF, with its FLOOR note. -/
def LeavesFloor (e t : State) (partner : Option Station) (cut : Word) : Prop :=
  let known := e.release.known.getD 0
  t.translator = e.translator ∧ t.release = e.release ∧ Noted e t (.floor false known) ∧
    (∀ p, partner = some p → t.floor = heldBy e p (offRecord e) ∧
      (RoomToSend e → t.bus.queue = e.bus.queue ++ [waitingFrame (.pass p known cut) none])) ∧
    (partner = none → t.floor = { offRecord e with withdrawn := true, holder := none } ∧
      (RoomToSend e → t.bus.queue = e.bus.queue ++ [waitingFrame (.floorFree known) none])) ∧
    OutsideFloor e t

/-- The drain check (R162): a DRAINING station with no OFFICIAL unit HELD and no TEXT in its queue leaves the floor. -/
def DrainChecked (e t : State) : Prop :=
  let drained := e.floor.state = .draining ∧
    (∀ u ∈ e.translator.history, u.released = false → u.stream ≠ .official) ∧ ∀ f ∈ e.bus.queue, f.kind ≠ .text
  (¬ drained → t = e) ∧ (drained → LeavesFloor e t e.floor.partner (e.floor.cut.getD 0))

/-- The cut (R160, R161): the station drains with a cut time, the start of its newest OFFICIAL unit or else the local
time, and makes the drain check. -/
def CutMade (e t : State) (partner : Option Station) : Prop :=
  ∃ cut,
    (∀ us u vs, e.translator.history = us ++ u :: vs → u.stream = .official → (∀ v ∈ vs, v.stream ≠ .official) →
      cut = u.start) ∧
    ((∀ u ∈ e.translator.history, u.stream ≠ .official) → cut = e.seq.clock) ∧
    DrainChecked
      { e with floor := { e.floor with state := .draining, partner := partner, cut := some cut, yieldTimer := none } } t

/-! ### Words for claims about releases -/

/-- A frame of classes 2 to 5 is handed (R125, R130): it joins the queue where there is room, is dropped with TX_DROP
where there is none, and is discarded outside RUN. -/
def HandedLow (s t : State) (m : Msg) : Prop :=
  (s.seq.phase = .run → s.bus.queue.length < 20 →
    t.bus.queue = s.bus.queue ++ [waitingFrame m none] ∧ t.status = s.status) ∧
    (s.seq.phase = .run → 24 ≤ s.bus.queue.length ∨ 20 ≤ lowClassCount s.bus.queue →
      t.bus.queue = s.bus.queue ∧ t.status = (setFlag .txDrop s).status) ∧
    (s.seq.phase ≠ .run → t.bus.queue = s.bus.queue ∧ t.status = s.status)

/-- The official sequence after the known (R114). -/
def officialAfter : Option Word → Word
  | none => 1
  | some k => if k = 4294967295 then 1 else k + 1

/-- One release, of a unit u that takes its place between us and vs (R113 to R117, R162): numbered by its stream, or as
a FORMAT unit not at all, RELEASED, its frame handed, and the drain check made. -/
def UnitReleased (s t : State) (us : List TextUnit) (u : TextUnit) (vs : List TextUnit) : Prop :=
  let official := officialAfter s.release.known
  let body := fun (seq : Word) (offRecord resumed : Bool) =>
    (⟨seq, u.number, u.start, u.spaceBefore, u.paragraph, u.marked, offRecord, u.truncated, u.gap, resumed, u.speaker,
      u.text⟩ : TextBody)
  let history := fun seq => us ++ { u with released := true, seq := seq } :: vs
  ∃ m : State, DrainChecked m t ∧
    (u.kind ≠ .format → u.stream = .official →
      m.translator.history = history (some official) ∧ m.release = { s.release with known := some official } ∧
      HandedLow s m (.text (body official false s.release.known.isNone))) ∧
    (u.kind ≠ .format → u.stream = .shadow →
      m.translator.history = history (some s.release.nextShadow) ∧
      m.release =
        { s.release with
          nextShadow := if s.release.nextShadow = 4294967295 then 1 else s.release.nextShadow + 1 } ∧
      HandedLow s m (.shadow (body s.release.nextShadow u.offRecord false))) ∧
    (u.kind = .format →
      m.translator.history = history none ∧ m.release = s.release ∧ m.bus = s.bus ∧ m.status = s.status) ∧
    m =
      { s with
        translator := { s.translator with history := m.translator.history }
        release := m.release, bus := { s.bus with queue := m.bus.queue }, status := m.status }

/-- The oldest HELD unit of the history, with the units before and behind it. -/
def OldestHeld (s : State) (us : List TextUnit) (u : TextUnit) (vs : List TextUnit) : Prop :=
  s.translator.history = us ++ u :: vs ∧ (∀ v ∈ us, v.released = true) ∧ u.released = false

/-- The oldest HELD unit may be released now (R113). -/
def Releasable (s : State) (u : TextUnit) : Prop :=
  s.release.active = true ∧ due s u = true ∧ u.stream ≠ .pending

/-- The hold-back timer stands for the oldest HELD unit (R112): to its due time where release is active and it is not
due yet, else stopped; nothing else has changed. -/
def HoldArmed (s t : State) : Prop :=
  t = { s with release := { s.release with holdTimer := t.release.holdTimer } } ∧
    ((∀ u ∈ s.translator.history, u.released = true) → t.release.holdTimer = none) ∧
    ∀ us u vs, OldestHeld s us u vs →
      (s.release.active = true ∧ due s u = false → ∃ n, t.release.holdTimer = some n ∧
        (n : Int) = (s.settings.holdBack : Int) - (s.seq.clock - u.created).toInt) ∧
      (s.release.active = false ∨ due s u = true → t.release.holdTimer = none)

/-- The release check (R112, R113): the oldest HELD unit is released while it may be, one unit behind another, each by
its own act; then the hold-back timer is set. -/
inductive ReleaseCheck : State → State → Prop
  | over {s t : State} : (∀ us u vs, OldestHeld s us u vs → ¬ Releasable s u) → HoldArmed s t → ReleaseCheck s t
  | release {s m t : State} {us : List TextUnit} {u : TextUnit} {vs : List TextUnit} :
      OldestHeld s us u vs → Releasable s u → UnitReleased s m us u vs → ReleaseCheck m t → ReleaseCheck s t

/-- An event on s whose own act ends in m and is followed by the release check; where no HELD unit is due, only the
hold-back timer moves. -/
def ThenReleases (s m t : State) : Prop :=
  ReleaseCheck m t ∧ OutsideFloor m t ∧
    (NothingDue s → t = { m with release := { m.release with holdTimer := t.release.holdTimer } })

/-- As `ThenReleases` where the condition holds; elsewhere the event ends in m. -/
def ReleasesWhere (c : Prop) (s m t : State) : Prop := (c → ThenReleases s m t) ∧ (¬ c → t = m)

/-- Room for one more unit (R86, R117): in a history of 32 the oldest unit leaves; a HELD one is released first,
whatever remains of its delay, a PENDING one as SHADOW; with release suspended it leaves without a release. A HELD unit
that left is followed by the drain check, and by the release check for the next one. -/
def RoomMade (s t : State) : Prop :=
  (s.translator.history.length < 32 → t = s) ∧
    ∀ u us, s.translator.history = u :: us → 32 ≤ s.translator.history.length →
      (u.released = true → t = { s with translator := { s.translator with history := us } }) ∧
      (u.released = false → ∃ m x : State,
        (s.release.active = true →
          UnitReleased s m [] { u with stream := if u.stream = .pending then .shadow else u.stream } us) ∧
        (s.release.active = false → m = s) ∧
        DrainChecked { m with translator := { m.translator with history := us } } x ∧ ReleaseCheck x t)

/-- A GAP unit joins the history for an overrun count, its start time the end of the stroke that carried it (R61, R82,
R84). -/
def GapJoins (s t : State) (now : Word) (count : Nat) (start : Word) : Prop :=
  ∃ u stream, t.translator.history = s.translator.history ++ [u] ∧ StreamDecided s stream ∧
    u =
      { number := s.translator.nextUnit, kind := .gap, strokes := [], start := start, created := now, text := [],
        spaceBefore := true, paragraph := false, marked := s.translator.markNext, offRecord := !s.release.recordOn,
        truncated := false, gap := some count, speaker := none, snapshot := s.translator.formatting, stream := stream,
        released := false, seq := none } ∧
    t.translator.formatting = { s.translator.formatting with attachNext := false, glueLast := false } ∧
    t.translator.markNext = false ∧ t.translator.nextUnit = unitAfter s

/-- A unit has joined the history, and is HELD: beside the translator's record of it only the hold-back timer and the
pattern player have moved. -/
def OnlyJoined (s t : State) : Prop :=
  t =
    { s with
      translator :=
        { s.translator with
          history := t.translator.history, formatting := t.translator.formatting, markNext := t.translator.markNext
          nextUnit := t.translator.nextUnit }
      release := { s.release with holdTimer := t.release.holdTimer }
      status := { s.status with playing := t.status.playing, waiting := t.status.waiting } }

/-- No capture: NORMAL, with both buffers empty and the buffer state of R103. -/
def noCapture : Capture := ⟨.normal, [], none, [], ⟨.none, true, false⟩, false⟩

/-- The last step of an overrun marker (R61, R62): a definition it has abandoned is refused, then the GAP unit joins. -/
def GapBehind (s t : State) (count : Nat) (start : Word) : Prop :=
  let refused :=
    { s with
      translator := { s.translator with capture := noCapture }
      status := (setFlag .defRefused s).status }
  ∃ y, RoomMade (if s.translator.capture.abandoned = true then refused else s) y ∧
    GapJoins y t s.seq.clock count start ∧ OnlyJoined y t

/-- An overrun marker behind a sequence that is held outside a definition's text (R55, R56, R61): its front part joins
as a unit, then the strokes behind it are re-processed, with the rest of the work behind them; with none left the GAP
unit joins. -/
def MarkerBehind (s t : State) (sequence : List PendingEntry) (behind : List Work) (count : Nat) (start : Word) : Prop :=
  ∃ m, RoomMade s m ∧
    let goesOn := fun (joins : State → Prop) (rest : List PendingEntry) =>
      (rest ≠ [] → joins t ∧ Reprocesses t (rest.map PendingEntry.stroke) behind) ∧
        (rest = [] → ∃ x, joins x ∧ OnlyJoined m x ∧ GapBehind x t count start)
    (∀ es e rest entry, sequence = es ++ e :: rest → e.result.text = some entry → (∀ y ∈ rest, y.result.text = none) →
      PlainText entry.text →
      goesOn (fun x => WordJoins m x s.seq.clock ((es ++ [e]).map PendingEntry.stroke) entry.text) rest) ∧
      ∀ e rest, sequence = e :: rest → (∀ y ∈ sequence, y.result.text = none) →
        goesOn (fun x => KeysJoin m x s.seq.clock e.stroke) rest

/-! ### Words for claims about definition capture -/

/-- The text entry of a result holds a DEF_SEP code (R102). -/
def HasSeparator (r : LookupResult) : Prop := ∃ entry, r.text = some entry ∧ Token.code .defSep ∈ tokens entry.text

/-- One piece joins the text buffer (R103): a space before its characters where both the buffer and it have some,
unless attach-next stands, the piece attaches, or it is glue or number behind glue; cut where the buffer holds 120. -/
def PieceJoins (c d : Capture) (strokes : List Word) (characters : List Byte) (glue attached : Bool)
    (after : BufferState) : Prop :=
  let held := c.pieces.flatMap Piece.chars
  let all :=
    if held = [] ∨ characters = [] ∨ c.buffer.attachNext = true ∨ attached = true ∨
      (glue = true ∧ c.buffer.glueLast = true) then characters else 0x20 :: characters
  d = { c with pieces := c.pieces ++ [⟨strokes, all.take (120 - held.length), c.buffer⟩], buffer := after }

/-- A byte that is no character of a piece and no SPEAKER code: a format code or a command code. -/
def isCodeByte (b : Byte) : Bool := isFormatByte b || decide (0x08 ≤ b.toNat ∧ b.toNat ≤ 0x10)

/-- The cap mode that a case walk through a text leaves (R78): that of the last code behind the first letter, or NONE
there; without a letter that of the last code, or the mode before. -/
def WalkLeaves (before after : CapMode) (text : List Byte) : Prop :=
  (∀ pre b post, text = pre ++ b :: post → (∀ x ∈ pre, isLetter x = false) → isLetter b = true →
    after = (lastCase post).getD .none) ∧
    ((∀ x ∈ text, isLetter x = false) → after = (lastCase text).getD before)

/-- The piece of an entry text of characters and codes, its leading and trailing codes apart (R72 to R74, R77, R83,
R103): the case walk from the buffer's mode acts on its first letter; a piece without characters changes only what its
codes set. -/
def EntryPiece (c d : Capture) (strokes : List Word) (lead body trail : List Byte) : Prop :=
  let text := lead ++ body ++ trail
  let glue := decide (0x06 ∈ text)
  let attached := decide (0x01 ∈ lead)
  (∀ pre b post, text = pre ++ b :: post → (∀ x ∈ pre, isLetter x = false) → isLetter b = true →
    PieceJoins c d strokes (literalBytes pre ++ ((lastCase pre).getD c.buffer.cap).act b :: literalBytes post) glue
      attached d.buffer) ∧
    ((∀ x ∈ text, isLetter x = false) → PieceJoins c d strokes (literalBytes text) glue attached d.buffer) ∧
    WalkLeaves c.buffer.cap d.buffer.cap text ∧
    (body ≠ [] → d.buffer.attachNext = decide (0x01 ∈ trail) ∧ d.buffer.glueLast = glue) ∧
    (body = [] → d.buffer.attachNext = (c.buffer.attachNext || decide (0x01 ∈ lead)) ∧
      d.buffer.glueLast = (c.buffer.glueLast || glue))

/-- A message that a frame can carry: field values in their widths, texts of at most 120 bytes, gap and speaker only
as R182 writes them. -/
def TextBody.WellFormed (b : TextBody) : Prop :=
  b.text.length ≤ 120 ∧ (∀ g, b.gap = some g → g < 65536) ∧ (∀ n, b.speaker = some n → 1 ≤ n ∧ n < 256)

def Msg.WellFormed : Msg → Prop
  | .claim _ _ => True
  | .reliefReq => True
  | .reliefBusy _ => True
  | .pass _ _ _ => True
  | .floorFree _ => True
  | .record _ => True
  | .clear _ => True
  | .retract _ _ => True
  | .replace _ _ chars => chars.length ≤ 120
  | .text b => b.WellFormed
  | .shadow b => b.WellFormed
  | .define payload => payload.length ≤ 160
  | .presence _ => True

/-- The header of an overlay with these counts, CRC good (R90, R92). -/
def OverlayHeaderIs (t : Settings) (h : List Byte) (used live deleted : Nat) : Prop :=
  OverlayHeaderSound t h ∧ fieldAt h 4 4 = used ∧ fieldAt h 8 2 = live ∧ fieldAt h 10 2 = deleted

/-! ### Words for claims about the overlay -/

/-- The overlay of an accepted configuration: the region, its three parts inside it, and its header (R90, R91). -/
def OverlayStands (s : State) (r : Region) (used live deleted : Nat) : Prop :=
  s.port.region .overlay = some r ∧ r.device = .ram ∧ r.allowed = [.ramRead, .ramWrite] ∧
    8 ≤ s.settings.overlayLog2 ∧ s.settings.overlayLog2 ≤ 12 ∧ s.settings.overlayHeap ≤ 256 ∧
    16 + 4 * 2 ^ s.settings.overlayLog2 + s.settings.overlayHeap * 1024 ≤ r.size ∧ Memory.wf s.port.ramMem ∧
    OverlayHeaderIs s.settings (Memory.readBytes s.port.ramMem r.base 16) used live deleted

/-- The device address of slot i of the overlay, and of an offset of its heap (R90). -/
def slotPlace (r : Region) (i : Nat) : Nat := r.base + 16 + 4 * i
def heapPlace (s : State) (r : Region) (v : Nat) : Nat := r.base + 16 + 4 * 2 ^ s.settings.overlayLog2 + v

/-- The value of slot i of the overlay. -/
def slotHolds (s : State) (r : Region) (i : Nat) : Nat := fieldAt (Memory.readBytes s.port.ramMem (slotPlace r i) 4) 0 4

/-- The heap bytes an overlay entry takes (R90). -/
def entrySpan (outline : List KeySet) (text : List Byte) : Nat := (4 + 3 * outline.length + text.length + 3) / 4 * 4

/-- An overlay entry stands at a heap offset, below the heap's used end: kind, stroke count, key sets, text length,
text, prefix count (R90). -/
def EntryStands (s : State) (r : Region) (used v : Nat) (k : EntryKind) (outline : List KeySet) (text : List Byte)
    (count : Nat) : Prop :=
  1 ≤ outline.length ∧ outline.length ≤ 8 ∧ text.length ≤ 120 ∧ count ≤ 255 ∧ v + entrySpan outline text ≤ used ∧
    Memory.readBytes s.port.ramMem (heapPlace s r v) (4 + 3 * outline.length + text.length) =
      [BitVec.ofNat 8 k.code, BitVec.ofNat 8 outline.length] ++ outline.flatMap (fun o => beBytes 3 o.toNat) ++
        [BitVec.ofNat 8 text.length] ++ text ++ [BitVec.ofNat 8 count]

/-- Every slot that holds an offset points to an entry below the used end, and the entries of two slots are apart
(R90, R93). -/
def HeapSound (s : State) (r : Region) (used : Nat) : Prop :=
  let holds := fun i => i < 2 ^ s.settings.overlayLog2 ∧ slotHolds s r i < 0xFFFFFFFE
  (∀ i, holds i → ∃ k o text count, EntryStands s r used (slotHolds s r i) k o text count) ∧
    ∀ i j, holds i → holds j → i ≠ j → ∀ k o text count k' o' text' count',
      EntryStands s r used (slotHolds s r i) k o text count →
      EntryStands s r used (slotHolds s r j) k' o' text' count' →
      slotHolds s r i + entrySpan o text ≤ slotHolds s r j ∨ slotHolds s r j + entrySpan o' text' ≤ slotHolds s r i

/-- The heap bytes of the prefix entries that a store creates (R95). -/
def prefixBytes (plan : List (List KeySet × Found)) : Nat :=
  (plan.map fun p => if p.2.isAbsent then entrySpan p.1 [] else 0).sum

/-- The free slots that a store takes. -/
def slotsTaken (plan : List (List KeySet × Found)) : List Nat :=
  plan.filterMap fun p => match p.2 with
    | .absent i => i
    | .entry _ _ => none

/-- A DEFINE of this outline and text from a is applied at once (R99): its sender is enabled, RAM is fitted, no lookup
is under way and no definition waits. -/
def DefineApplies (s : State) (f : LineFrame) (a : Station) (outline : List KeySet) (text : List Byte) : Prop :=
  Accepts s f a (.define (definePayload outline text)) ∧ (s.peers.record a).definitionsEnabled = true ∧
    s.seq.ramFit = true ∧ s.lookup.search = none ∧ s.inbox = [] ∧ 1 ≤ outline.length ∧ outline.length ≤ 8 ∧
    (∀ k ∈ outline, k ≠ 0) ∧ text.length ≤ 120 ∧ ∀ b ∈ text, definable b = true

/-- Until the configuration read is judged, and in FAULT, every block stands at its reset values (R3, R171, R174). -/
def QuietGood (s : State) : Prop :=
  (s.seq.phase = .fault ∨ Loading s .recovery ∨ Loading s .config) →
    s.settings = Settings.standard ∧ s.scanner = Scanner.initial ∧ s.strokes = [] ∧ s.notes = NotesWriter.initial ∧
    s.port.regions = defaultRegions ∧ s.lookup = LookupUnit.initial ∧ s.translator = Translator.initial ∧
    s.inbox = [] ∧ s.release = ReleaseUnit.initial ∧ s.bus = BusController.initial ∧ s.peers = PeerUnit.initial ∧
    s.floor = FloorRecord.initial

end Sys2Proof.Machine
end

