-- ==== Sys2Proof/WellFormed.lean ====
section
/-! DEFINITION. Which command terms describe an event that can come about, as far as the term alone shows it. -/

namespace Sys2Proof

/-- The class and kind code of R129 stand in the identifier. -/
def LineFrame.hasKind (f : LineFrame) (cls kind : Nat) : Bool :=
  f.ident.toNat / 256 == cls && f.ident.toNat / 16 % 16 == kind

/-- A frame read through to the end of its end field: length at most 160, as many payload bytes, and a duration that
fits the slowest bit rate (1328 bits at 250 kbit/s, R127). -/
def LineFrame.readThrough (f : LineFrame) : Bool :=
  f.length.toNat ≤ 160 && f.payload.length == f.length.toNat && f.age ≤ 6

/-- A frame that the checks of R135 could accept: read through, with a recessive end field. -/
def LineFrame.complete (f : LineFrame) : Bool :=
  f.readThrough && f.endBits == BitVec.allOnes 7

/-- A device image lists addresses of the device only. -/
def imageFits (space : Nat) (cells : List Host.Cell) : Bool :=
  cells.all fun c => c.1 < space

/-- Well-formedness of a command. -/
def Instr.wellFormed : Instr → Bool
  | .powerOnReset _ flash ram => imageFits Config.flashSpace flash && imageFits Config.ramSpace ram
  | .pinReset _ => true
  | .flashRecoveryEnd _ => true
  | .configReadDone => true
  | .dictHeaderReadDone => true
  | .overlayHeaderReadDone => true
  | .resumeScanEnd => true
  | .scan _ _ => true
  | .flushTimerExpiry => true
  | .burstStart => true
  | .flashReadDone => true
  | .programPollResult _ => true
  | .programTimeout => true
  | .recoveryEnd _ => true
  | .strokeEvent => true
  | .timerEvent => true
  | .lookupCompletion => true
  | .holdBackTimerExpiry => true
  | .frameSendStart => true
  | .arbitrationLost => true
  | .transmitError _ => true
  | .frameSent => true
  | .busStuck ms => 10 < ms
  | .frameDiscarded f => f.readThrough || (160 < f.length.toNat && f.payload.isEmpty)
  | .claimReceived f => f.complete && f.hasKind 0 0
  | .reliefReqReceived f => f.complete && f.hasKind 0 1
  | .reliefBusyReceived f => f.complete && f.hasKind 0 2
  | .passReceived f => f.complete && f.hasKind 0 3
  | .passOtherReceived f => f.complete && f.hasKind 0 3
  | .floorFreeReceived f => f.complete && f.hasKind 0 4
  | .recordReceived f => f.complete && f.hasKind 1 0
  | .clearReceived f => f.complete && f.hasKind 1 1
  | .textReceived f => f.complete && f.hasKind 3 0
  | .defineReceived f => f.complete && f.hasKind 5 0
  | .presenceReceived f => f.complete && f.hasKind 6 0
  | .retractReceived f => f.complete && f.hasKind 2 0
  | .replaceReceived f => f.complete && f.hasKind 2 1
  | .shadowReceived f => f.complete && f.hasKind 4 0
  | .presenceTimerExpiry => true
  | .vacancyTimerExpiry => true
  | .claimWaitEnd => true
  | .claimHoldOffEnd => true
  | .claimWindowExpiry => true
  | .reliefTimerExpiry => true
  | .yieldTimerExpiry => true
  | .patternEnd => true
  | .busIdle => true

end Sys2Proof
end

