-- ==== Sys2Proof/Certificates/Slice0/Obligations.lean ====
section
/-! DEFINITION. The statements about the part, from the numbered rules of spec/. -/

open Sys2Proof Sys2Proof.Machine

/-! ### The queue and the resets -/

/-- A step takes the command at the front of the queue and runs it on the rest (the block's own rule); with no command
waiting one ms passes (log entry 1): the clock and a running stuck-line timer go on by 1, every other running timer
loses 1, a stroke time as old as the active window is forgotten (R155), nothing else changes. -/
def Obligations.StepRunsFrontOrTicks : Prop :=
  (∀ (c : Instr) (rest : List Instr) (s : State),
    step { s with pending := c :: rest } = exec c { s with pending := rest }) ∧
  ∀ s : State, s.pending = [] → ∃ t, step s = .next t ∧
    t.seq = { s.seq with clock := s.seq.clock + 1 } ∧
    t.scanner = { s.scanner with period := s.scanner.period.map (· - 1) } ∧
    t.notes = { s.notes with flushTimer := s.notes.flushTimer.map (· - 1) } ∧
    t.port = { s.port with timer := s.port.timer.map (· - 1) } ∧
    t.translator = { s.translator with resolveTimer := s.translator.resolveTimer.map (· - 1) } ∧
    t.release = { s.release with holdTimer := s.release.holdTimer.map (· - 1) } ∧
    t.peers = { s.peers with timer := s.peers.timer.map (· - 1) } ∧
    t.floor.claimWait = s.floor.claimWait.map (· - 1) ∧ t.floor.holdOff = s.floor.holdOff.map (· - 1) ∧
    t.floor.claimWindow = s.floor.claimWindow.map (· - 1) ∧ t.floor.reliefTimer = s.floor.reliefTimer.map (· - 1) ∧
    t.floor.yieldTimer = s.floor.yieldTimer.map (· - 1) ∧ t.floor.vacancyTimer = s.floor.vacancyTimer.map (· - 1) ∧
    (t.floor.state, t.floor.holder, t.floor.partner, t.floor.cut, t.floor.withdrawn) =
      (s.floor.state, s.floor.holder, s.floor.partner, s.floor.cut, s.floor.withdrawn) ∧
    (∀ w, s.floor.lastStroke = some w →
      t.floor.lastStroke =
        if (s.seq.clock + 1 - w).toNat < s.settings.activeWindow * 1000 then some w else none) ∧
    (s.floor.lastStroke = none → t.floor.lastStroke = none) ∧
    t.bus = { s.bus with stuckTimer := if s.bus.stuckTimer = 0 then 0 else s.bus.stuckTimer + 1 } ∧
    t.status = { s.status with playing := s.status.playing.map fun p => (p.1, p.2 - 1) } ∧
    (t.pending, t.freeCount, t.settings, t.strokes, t.lookup, t.inbox) =
      ([], s.freeCount, s.settings, s.strokes, s.lookup, s.inbox)

/-- What either reset leaves in every block, from the reset tables of the chapters; the machine right after reset is
such a state. Model's choices: strap levels and device contents come from outside, and the machine right after reset
has the straps low and nothing listed in its devices (log entry 2); every configured quantity stands at its default
before acceptance, where the spec gives it no value (log entry 24). -/
def Obligations.BlocksAfterEitherReset : Prop :=
  ∀ (kind : ResetKind) (straps : Straps) (flash ram : Memory) (queue : List Instr) (free : Nat),
    let t := State.started kind straps flash ram queue free
    (t.seq.phase, t.seq.resetKind, t.seq.addr, t.seq.ramFit, t.seq.clock) =
      (.load, kind, straps.addr, straps.ramFit, 0) ∧
    (t.seq.loadStep, t.seq.accepted, t.seq.listenExpiries, t.settings) = (.recovery, false, 0, .standard) ∧
    (t.scanner.active = false ∧ t.scanner.markActive = false ∧ t.scanner.period = none ∧ t.scanner.image = 0 ∧
      t.scanner.cells = List.replicate 24 ⟨false, 0⟩ ∧
      t.scanner.chord = .idle ∧ t.scanner.accumulator = 0 ∧ t.scanner.chordStart = none ∧
      t.scanner.nextStroke = none ∧ t.scanner.markLevel = none ∧ t.scanner.markCount = 0 ∧
      t.scanner.heldMark = none) ∧
    t.strokes = [] ∧
    (t.notes.opened = false ∧ t.notes.resumeScan = none ∧ t.notes.fifo = [] ∧ t.notes.burst = none ∧
      t.notes.writePos = none ∧ t.notes.flushTimer = none ∧
      t.notes.flushDue = false ∧ t.notes.lostCount = 0 ∧ t.notes.halted = false ∧ t.notes.full = false ∧
      t.notes.restartCount = none ∧ t.notes.heldNotes = []) ∧
    (t.port.flash = .recovering ∧ t.port.timer = some 50 ∧ t.port.burstGranted = false ∧ t.port.deviceReady = false ∧
      t.port.regions = [⟨.default, .flash, 0, 16 * 1024 * 1024, [.flashRead]⟩] ∧
      t.port.flashMem = flash ∧ t.port.ramMem = ram) ∧
    (t.lookup.w0 = none ∧ t.lookup.w1 = none ∧ t.lookup.w2 = none ∧ t.lookup.search = none ∧
      t.lookup.request = none) ∧
    (t.translator.active = false ∧ t.translator.sequence = [] ∧ t.translator.resolveTimer = none ∧
      t.translator.stale = false ∧ t.translator.work = [] ∧ t.translator.capture.state = .normal ∧
      t.translator.capture.outline = [] ∧ t.translator.capture.separator = none ∧ t.translator.capture.pieces = [] ∧
      t.translator.capture.buffer = ⟨.none, true, false⟩ ∧ t.translator.capture.abandoned = false ∧
      t.translator.formatting = ⟨.capNext, false, false, none, true⟩ ∧ t.translator.markNext = false ∧
      t.translator.history = [] ∧ t.translator.nextUnit = 1) ∧
    t.inbox = [] ∧
    (t.release.recordOn = true ∧ t.release.known = none ∧ t.release.nextShadow = 1 ∧ t.release.holdTimer = none ∧
      t.release.active = false) ∧
    (t.bus.follower = .waitIdle ∧ t.bus.recessive = 0 ∧ t.bus.queue = [] ∧ t.bus.inFlight = none ∧
      t.bus.stuckTimer = 0 ∧ t.bus.stuckSpell = false) ∧
    (∀ a : Station, t.peers.record a = ⟨false, none, none, none, none, none, true⟩) ∧ t.peers.timer = none ∧
    (t.floor.state = .off ∧ t.floor.holder = none ∧ t.floor.partner = none ∧ t.floor.cut = none ∧
      t.floor.lastStroke = none ∧ t.floor.withdrawn = false ∧ t.floor.claimWait = none ∧ t.floor.holdOff = none ∧
      t.floor.claimWindow = none ∧ t.floor.reliefTimer = none ∧ t.floor.yieldTimer = none ∧
      t.floor.vacancyTimer = none) ∧
    (t.status.flags = Flag.restarted.mask ∧ t.status.mask = 0 ∧ t.status.enables = 0 ∧ t.status.playing = none ∧
      t.status.waiting = none) ∧
    State.reset = State.started .powerOn ⟨0, false⟩ [] [] [] 0

/-- The machine right after reset meets every invariant below. Model's choices: its straps and devices (log entry 2);
every configured quantity stands at its default before acceptance (log entry 24). -/
def Obligations.ResetMeetsInvariants : Prop :=
  MemoryGood State.reset ∧ FlagsGood State.reset ∧ QueuesGood State.reset ∧ HistoryGood State.reset ∧
    ChordGood State.reset ∧ QuietGood State.reset

/-- POWER_ON_RESET and PIN_RESET (R170): every block at its value after reset, in every state; a pin reset leaves the
devices their contents, but that a program it cuts off has at most cleared bits (R17, R18). Model's choices: what the
straps and the devices hold at power-on comes with the command (log entry 2); what a cut-off program leaves is a free
value (log entry 3); a byte of RAM that the command does not list reads 0xFF, as an erased byte of the flash does (log
entry 4); every configured quantity stands at its default before acceptance (log entry 24). -/
def Obligations.ResetsRestartEveryBlock : Prop :=
  ∀ (straps : Straps) (s : State),
    (∀ flash ram : List Host.Cell, (flash.map Prod.fst).Nodup → (ram.map Prod.fst).Nodup →
      Instr.wellFormed (.powerOnReset straps flash ram) = true →
      ∃ t, exec (.powerOnReset straps flash ram) s = .next t ∧
        t = State.started .powerOn straps t.port.flashMem t.port.ramMem s.pending s.freeCount ∧
        (∀ c ∈ flash, Memory.read t.port.flashMem c.1 = c.2) ∧ (∀ c ∈ ram, Memory.read t.port.ramMem c.1 = c.2) ∧
        (∀ a, a ∉ flash.map Prod.fst → Memory.read t.port.flashMem a = 0xFF) ∧
        ∀ a, a ∉ ram.map Prod.fst → Memory.read t.port.ramMem a = 0xFF) ∧
    ∃ t, exec (.pinReset straps) s = .next t ∧
      t = State.started .pin straps t.port.flashMem s.port.ramMem s.pending t.freeCount ∧
      (s.notes.burst = none → t.port.flashMem = s.port.flashMem) ∧
      (Memory.wf s.port.flashMem → ∀ a, Memory.read t.port.flashMem a &&& Memory.read s.port.flashMem a =
        Memory.read t.port.flashMem a)

/-! ### LOAD, SCAN and LISTEN -/

/-- FLASH_RECOVERY_END and PROGRAM_TIMEOUT (R35, R37): after the start the flash is handed to the configuration read,
at once or when the limit has passed; a program still busy when its timer ends leaves the flash RECOVERING for 5 ms.
Elsewhere the commands change nothing (log entry 5). Model's choices: the time left passes with an expiry command or a
scan (log entry 1); the end of the recovery hands the flash to the configuration read at once, with no arbitration, and
its outcome is kept for the CRC check (log entry 11). -/
def Obligations.FlashRecoveryAndTimeout : Prop :=
  ∀ s : State,
    (Loading s .recovery →
      exec (.flashRecoveryEnd true) s = .next
        { s with
          seq := { s.seq with loadStep := .config }
          port := { s.port with flash := .reading, timer := none, deviceReady := true } } ∧
      exec (.flashRecoveryEnd false) s = .next
        { elapse (s.port.timer.getD 0) s with
          seq := { s.seq with loadStep := .config, clock := s.seq.clock + BitVec.ofNat 32 (s.port.timer.getD 0) }
          port := { s.port with flash := .reading, timer := none, deviceReady := false } }) ∧
    (∀ ready, ¬ Loading s .recovery → exec (.flashRecoveryEnd ready) s = .next s) ∧
    (∀ n, s.port.flash = .programming → s.port.timer = some n →
      exec .programTimeout s =
        .next { elapse n s with port := { s.port with flash := .recovering, timer := some 5 } }) ∧
    (s.port.flash ≠ .programming → exec .programTimeout s = .next s)

/-- CONFIG_READ_DONE refusing the block (R171, R174): FAULT, with ATTN driven and the FAULT pattern begun; a
CONFIG_CLAMPED set before a refusal for its regions stays, and nothing else changes. Model's choices: LOAD reads need
no arbitration and a device not ready fails the CRC (log entry 11). -/
def Obligations.RefusedConfigurationEntersFault : Prop :=
  ∀ s : State, Loading s .config → s.port.regions = defaultRegions →
    let blk := Memory.readBytes s.port.flashMem 0 445
    let sound := s.port.deviceReady = true ∧ BlockSound blk
    (¬ sound ∨ ¬ RegionsAllowed blk (readSettings blk).1 s.seq.ramFit) →
    ∃ t, exec .configReadDone s = .next t ∧ attnDriven t = true ∧
      (¬ sound → t.status.flags = s.status.flags) ∧
      (sound → t.status.flags = flagsWith s (readSettings blk).2 .configClamped) ∧
      t =
        { s with
          seq := { s.seq with phase := .fault, loadStep := .done }
          port := { s.port with flash := .free }
          status := { s.status with flags := t.status.flags, playing := some (.fault, 500), waiting := none } }

/-- CONFIG_READ_DONE accepting the block (R171, R173): the clamped values, the region table, mask and enables are
installed, MARK sampling starts, and the headers come next: JOB, else MAIN, else the overlay, else SCAN. Model's
choices: the first scan period begins at acceptance (log entry 8); LOAD reads need no arbitration and a device not
ready fails the CRC (log entry 11). -/
def Obligations.AcceptedConfigurationIsInstalled : Prop :=
  ∀ s : State, Loading s .config → s.port.regions = defaultRegions →
    let blk := Memory.readBytes s.port.flashMem 0 445
    s.port.deviceReady = true → BlockSound blk → RegionsAllowed blk (readSettings blk).1 s.seq.ramFit →
    ∃ t, exec .configReadDone s = .next t ∧ t.settings = (readSettings blk).1 ∧ t.seq.accepted = true ∧
      t.port.region .config = some ⟨.config, .flash, 0, 4096, [.flashRead]⟩ ∧
      t.port.region .notes =
        some ⟨.notes, .flash, fieldAt blk 22 4, fieldAt blk 26 4, [.flashRead, .flashProgram]⟩ ∧
      t.port.region .main =
        (if fieldAt blk 10 4 = 0 then none else some ⟨.main, .flash, fieldAt blk 6 4, fieldAt blk 10 4, [.flashRead]⟩) ∧
      t.port.region .job =
        (if fieldAt blk 18 4 = 0 then none else some ⟨.job, .flash, fieldAt blk 14 4, fieldAt blk 18 4, [.flashRead]⟩) ∧
      t.port.region .overlay =
        (if s.seq.ramFit then some ⟨.overlay, .ram, fieldAt blk 30 4, fieldAt blk 34 4, [.ramRead, .ramWrite]⟩
        else none) ∧
      t.port.region .default = none ∧
      t.status.mask = BitVec.ofNat 32 (fieldAt blk 62 4) ∧ t.status.enables = BitVec.ofNat 4 (fieldAt blk 66 1) ∧
      t.status.flags = flagsWith s (readSettings blk).2 .configClamped ∧
      t.scanner = { s.scanner with markActive := true, period := some 0 } ∧
      (t.seq.phase, t.seq.loadStep, t.port.flash) =
        (if fieldAt blk 18 4 ≠ 0 then (.load, .jobHeader, s.port.flash)
        else if fieldAt blk 10 4 ≠ 0 then (.load, .mainHeader, s.port.flash)
        else if s.seq.ramFit then (.load, .overlayHeader, .free)
        else (.scan, .done, .reading)) ∧
      DevicesKept s t ∧ t.notes = scanBegun s t ∧
      t =
        { s with
          seq := t.seq, notes := t.notes, settings := t.settings
          port := { s.port with flash := t.port.flash, regions := t.port.regions }
          scanner := t.scanner, status := t.status }

/-- R172: each numeric field is taken by its row of the table, the relief time is raised to what yield and hold-back
need, at most 127 s, and CONFIG_CLAMPED stands for a clamp or a raise. -/
def Obligations.ClampedSettingsStayInRange : Prop :=
  ∀ blk : List Byte,
    let t := (readSettings blk).1
    let resolve := fieldAt blk 46 2
    let label := fun n => fieldAt blk (68 + 25 * n) 1
    (∃ c1 c2 c3 c4 c5 c6 c7 c8 c9 c10 c11 c12 c13 c14 c15 c16 c17 : Clamped,
      c1.Takes blk 38 1 1 4 1 ∧ c2.Takes blk 39 1 2 100 10 ∧ c3.Takes blk 40 1 1 7 2 ∧ c4.Takes blk 41 1 1 10 3 ∧
      c5.Takes blk 42 2 1 600 20 ∧ c6.Takes blk 44 1 6 16 12 ∧ c7.Takes blk 48 2 0 5000 1500 ∧
      c8.Takes blk 50 2 100 1000 250 ∧ c9.Takes blk 45 1 2 8 3 ∧ c10.Takes blk 52 1 1 10 4 ∧
      c11.Takes blk 53 1 10 200 50 ∧ c12.Takes blk 54 1 2 60 10 ∧ c13.Takes blk 56 1 5 120 20 ∧
      c14.Takes blk 55 1 5 120 45 ∧ c15.Takes blk 58 1 8 12 10 ∧ c16.Takes blk 60 2 8 256 64 ∧
      c17.Takes blk 59 1 1 64 16 ∧
      (t.scanPeriod, t.settle, t.debounce, t.stuckLimit, t.flush, t.nearFull) =
        (c1.value, c2.value, c3.value, c4.value, c5.value, c6.value) ∧
      (t.holdBack, t.presence, t.loss, t.vacancy, t.claimWindow, t.activeWindow, t.yieldTime) =
        (c7.value, c8.value, c9.value, c10.value, c11.value, c12.value, c13.value) ∧
      t.relief = max c14.value (c13.value + (c7.value + 999) / 1000 + 2) ∧
      (t.overlayLog2, t.overlayHeap, t.overlayProbe) = (c15.value, c16.value, c17.value) ∧
      ((readSettings blk).2 = true ↔
        (c1.flag || c2.flag || c3.flag || c4.flag || c5.flag || c6.flag || c7.flag || c8.flag || c9.flag || c10.flag ||
          c11.flag || c12.flag || c13.flag || c14.flag || c15.flag || c16.flag || c17.flag ||
          decide (c14.value < t.relief)) = true ∨
        (resolve ≠ 0 ∧ resolve ≠ 65535 ∧ (resolve < 100 ∨ 3000 < resolve)) ∨ 2 < fieldAt blk 3 1 ∨
        fieldAt blk 2 1 < 1 ∨ 16 < fieldAt blk 2 1 ∨ fieldAt blk 4 2 < 32 ∨ 2048 < fieldAt blk 4 2 ∨
        ∃ n < 15, 24 < label n ∧ label n ≠ 255)) ∧
    t.resolve = (if resolve = 0 then 0 else if resolve = 65535 then 800 else max 100 (min 3000 resolve)) ∧
    (t.autoCut = false ↔ fieldAt blk 57 1 = 0) ∧
    t.bitRate = (if fieldAt blk 3 1 ≤ 2 then fieldAt blk 3 1 else 1) ∧
    t.flashSize = max 1 (min 16 (fieldAt blk 2 1)) ∧ t.ramSize = max 32 (min 2048 (fieldAt blk 4 2)) ∧
    t.relief ≤ 127 ∧
    t.labels =
      (List.range 15).map fun n => (blk.drop (69 + 25 * n)).take (if label n = 255 then 0 else min 24 (label n))

/-- DICT_HEADER_READ_DONE (R42): the window of the header just read is enabled with the header's values, or disabled
with DICT_BAD; the other window and everything but the next step of LOAD stays; SCAN begins the resume scan at slot 0.
Model's choices: LOAD reads need no arbitration and a device not ready fails the CRC (log entry 11). -/
def Obligations.DictionaryHeaderEnablesOrDisables : Prop :=
  ∀ (s : State) (r : Region) (job : Bool), r.device = .flash → .flashRead ∈ r.allowed →
    Loading s (if job then .jobHeader else .mainHeader) →
    s.port.region (if job then .job else .main) = some r →
    let h := Memory.readBytes s.port.flashMem r.base 16
    ∃ t, exec .dictHeaderReadDone s = .next t ∧
      (∀ m heap heapSize, HeaderSound r.size h m heap heapSize →
        (if job then t.lookup.w1 else t.lookup.w2) =
          some ⟨2 ^ m, max 1 (min 64 (fieldAt h 5 1)), 16, heap, heapSize⟩ ∧ t.status = s.status) ∧
      ((¬ ∃ m heap heapSize, HeaderSound r.size h m heap heapSize) →
        (if job then t.lookup.w1 else t.lookup.w2) = none ∧ t.status = (setFlag .dictBad s).status) ∧
      (t.seq.phase, t.seq.loadStep, t.port.flash) =
        (if job ∧ (s.port.region .main).isSome then (.load, .mainHeader, s.port.flash)
        else if s.seq.ramFit then (.load, .overlayHeader, .free)
        else (.scan, .done, .reading)) ∧
      t.notes = scanBegun s t ∧
      t =
        { s with
          notes := t.notes
          seq := { s.seq with phase := t.seq.phase, loadStep := t.seq.loadStep }
          port := { s.port with flash := t.port.flash }
          lookup := if job then { s.lookup with w1 := t.lookup.w1 } else { s.lookup with w2 := t.lookup.w2 }
          status := t.status }

/-- OVERLAY_HEADER_READ_DONE (R91, R43): kept only on a pin reset with a sound header; else every slot becomes empty
and the header carries zero counts and its good CRC, with nothing else in RAM changed. W0 is enabled either way, and
the resume scan begins at slot 0 (R28). -/
def Obligations.OverlayClearedUnlessKept : Prop :=
  ∀ (s : State) (r : Region), Loading s .overlayHeader → s.port.region .overlay = some r → r.device = .ram →
    r.allowed = [.ramRead, .ramWrite] → 16 + 4 * 2 ^ s.settings.overlayLog2 ≤ r.size →
    Memory.wf s.port.ramMem → s.settings.overlayLog2 ≤ 12 →
    let slots := 2 ^ s.settings.overlayLog2
    let kept := s.seq.resetKind = .pin ∧ OverlayHeaderSound s.settings (Memory.readBytes s.port.ramMem r.base 16)
    ∃ t, exec .overlayHeaderReadDone s = .next t ∧
      t.lookup =
        { s.lookup with
          w0 := some ⟨slots, s.settings.overlayProbe, 16, 16 + 4 * slots, s.settings.overlayHeap * 1024⟩ } ∧
      t.seq = { s.seq with phase := .scan, loadStep := .done } ∧
      (kept → t.port.ramMem = s.port.ramMem) ∧
      (¬ kept →
        (∀ a, r.base + 16 ≤ a → a < r.base + 16 + 4 * slots → Memory.read t.port.ramMem a = 0xFF) ∧
        OverlayHeaderSound s.settings (Memory.readBytes t.port.ramMem r.base 16) ∧
        fieldAt (Memory.readBytes t.port.ramMem r.base 16) 4 4 = 0 ∧
        fieldAt (Memory.readBytes t.port.ramMem r.base 16) 8 2 = 0 ∧
        fieldAt (Memory.readBytes t.port.ramMem r.base 16) 10 2 = 0 ∧
        ∀ a, a < r.base ∨ r.base + 16 + 4 * slots ≤ a → Memory.read t.port.ramMem a = Memory.read s.port.ramMem a) ∧
      t =
        { s with
          notes := { s.notes with resumeScan := some (.forward 0) }, seq := t.seq, lookup := t.lookup
          port := { s.port with flash := .reading, ramMem := t.port.ramMem } }

/-! ### The resume scan -/

/-- RESUME_SCAN_END (R18, R28, R30, R175): the write position is the first erased slot, the flags stand for damage
among the slots still to be read and for a nearly full or full region, the RESUME record, the notes held in SCAN and a
held mark enter the FIFO in that order; the eighth behind the RESUME record finds it full and is lost with NOTE_LOST,
and in a full region all are counted as lost; LISTEN begins. FLASH_READ_DONE in SCAN (R28, R36) ends one read of the
scan, judging a slot of the forward scan at once, and changes nothing of the scan's outcome. Model's choices: the flush
timer stands in ms (log entry 9); reads left at the end of the scan end with it (log entry 10). FLASH_READ_DONE with no
read under way changes nothing, in any phase (log entry 5). -/
def Obligations.ResumeScanOpensTheNotes : Prop :=
  (∀ (s : State) (r : Region) (j k : Nat), s.seq.phase = .scan → NotesUnopened s → WrittenUpTo s r k →
    s.notes.resumeScan = some (.forward j) → j ≤ k →
    let marks := s.scanner.heldMark.toList.map Note.mark
    let handed := s.notes.heldNotes ++ marks
    let free := r.size / 16 - k
    let slot := fun i => Memory.readBytes s.port.flashMem (r.base + 16 * i) 16
    ∃ t, exec .resumeScanEnd s = .next t ∧ t.notes.writePos = some (16 * k) ∧ t.notes.opened = true ∧
      t.notes.resumeScan = none ∧ t.notes.heldNotes = [] ∧ t.notes.halted = false ∧ t.notes.burst = none ∧
      t.notes.full = decide (free = 0) ∧
      (∀ f : Machine.Flag, t.status.isSet f = true ↔
        s.status.isSet f = true ∨
        (f = .notesDamaged ∧ ∃ i < k, j ≤ i ∧ slotGood (slot i) = false) ∨
        (f = .notesNearFull ∧ free < 2 ^ s.settings.nearFull) ∨ (f = .notesFull ∧ free = 0) ∨
        (f = .noteLost ∧ 0 < free ∧ 7 < handed.length)) ∧
      (0 < free → ∃ count, t.notes.restartCount = some count ∧
        t.notes.fifo = .resume count s.seq.resetKind :: handed.take 7 ∧
        (handed.length ≤ 7 → t.notes.lostCount = s.notes.lostCount) ∧
        (7 < handed.length → s.notes.lostCount ≤ 4294967295 →
          t.notes.lostCount = min (s.notes.lostCount + (handed.length - 7)) 4294967295) ∧
        t.notes.flushTimer = some (s.settings.flush * 100) ∧
        (t.port.burstGranted = true ↔ 6 ≤ t.notes.fifo.length)) ∧
      (free = 0 → t.notes.fifo = [] ∧ t.notes.flushTimer = none ∧ t.port.burstGranted = false ∧
        (s.notes.lostCount ≤ 4294967295 →
          t.notes.lostCount = min (s.notes.lostCount + 1 + handed.length) 4294967295)) ∧
      t.seq = { s.seq with phase := .listen, listenExpiries := 0 } ∧
      t.scanner = { s.scanner with active := true, heldMark := none, nextStroke := t.scanner.nextStroke } ∧
      t.translator =
        { s.translator with active := true, markNext := s.translator.markNext || s.scanner.heldMark.isSome } ∧
      t.peers = { s.peers with timer := some s.settings.presence } ∧
      t.port = { s.port with flash := .free, burstGranted := t.port.burstGranted } ∧
      (t.settings, t.strokes, t.lookup, t.inbox, t.release, t.bus, t.floor, t.pending) =
        (s.settings, s.strokes, s.lookup, s.inbox, s.release, s.bus, s.floor, s.pending)) ∧
  (∀ (s : State) (x : ResumeScan), s.seq.phase = .scan → s.notes.resumeScan = some x → s.port.flash = .reading →
    ∃ t y, exec .flashReadDone s = .next t ∧ exec .resumeScanEnd t = exec .resumeScanEnd s ∧
      (∀ (r : Region) (j : Nat), NotesRegion s r → x = .forward j → j < r.size / 16 →
        let slot := Memory.readBytes s.port.flashMem (r.base + 16 * j) 16
        (slotErased slot = true → t.status = s.status ∧ ∀ i, y ≠ .forward i) ∧
        (slotErased slot = false → slotGood slot = false → t.status = (setFlag .notesDamaged s).status) ∧
        (slotErased slot = false → slotGood slot = true → t.status = s.status) ∧
        (slotErased slot = false → j + 1 < r.size / 16 → y = .forward (j + 1))) ∧
      (t.port.flash = .free ↔ y.isOver = true) ∧
      t =
        { s with
          notes := { s.notes with resumeScan := some y }
          port := { s.port with flash := if y.isOver then .free else .reading }
          status := t.status }) ∧
  ∀ s : State, s.port.flash ≠ .reading → exec .flashReadDone s = .next s

/-- R29: the next stroke number follows the newest good STROKE record below the write position, else 1; the restart
count follows the newest good RESUME record, saturating at 65535, else 1, and stands in the PRESENCE frames to come.
Model's choice: reads left at the end of the scan end with it (log entry 10). -/
def Obligations.ResumeScanFixesNumbers : Prop :=
  ∀ (s : State) (r : Region) (j k : Nat), s.seq.phase = .scan → NotesUnopened s → WrittenUpTo s r k →
    s.notes.resumeScan = some (.forward j) → j ≤ k →
    let slot := fun i => Memory.readBytes s.port.flashMem (r.base + 16 * i) 16
    ∃ t, exec .resumeScanEnd s = .next t ∧
      (∀ j, NewestOfKind s r 1 k j →
        t.scanner.nextStroke = some (if fieldAt (slot j) 1 4 = 4294967295 then 1
          else BitVec.ofNat 32 (fieldAt (slot j) 1 4 + 1))) ∧
      ((∀ j, ¬ NewestOfKind s r 1 k j) → t.scanner.nextStroke = some 1) ∧
      (∀ j, NewestOfKind s r 6 k j → t.notes.restartCount = some (min (fieldAt (slot j) 1 2 + 1) 65535)) ∧
      ((∀ j, ¬ NewestOfKind s r 6 k j) → t.notes.restartCount = some 1) ∧
      t.scanner.active = true ∧
      ∀ count, t.notes.restartCount = some count → (presenceBody t).restart = BitVec.ofNat 16 count

/-! ### Key scanner and stroke queue -/

/-- R4: what one scan does to each cell. A reading equal to the debounced state clears the count; a differing one
counts, and changes the state when the count is complete. Model's choice: the ms left of its period pass with the scan,
whose time is their end (log entry 1). -/
def Obligations.ScanDebouncesEveryCell : Prop :=
  ∀ (s : State) (n : Nat) (image : BitVec 24) (mark : Bool), ScanDue s n →
    ∃ t, exec (.scan image mark) s = .next t ∧ t.scanner.image = image ∧
      t.scanner.period = some s.settings.scanPeriod ∧ t.scanner.cells.length = s.scanner.cells.length ∧
      (∀ p c, s.scanner.cells[p]? = some c →
        t.scanner.cells[p]? = some
          (if image.getLsbD p = c.pressed then ⟨c.pressed, 0⟩
          else if c.count + 1 < s.settings.debounce then ⟨c.pressed, c.count + 1⟩
          else ⟨image.getLsbD p, 0⟩)) ∧
      ScanKept n s t

/-- R6: in IDLE a scan with key-downs among keys 0..22 opens a chord with those keys and this scan's time, and one with
none leaves the chord former as it is; in every step from a state where IDLE means all keys up and an open chord holds
a key, that stays so, and no stroke with an empty key set is queued. Model's choices: the ms left of its period pass
with the scan, whose time is their end, and an idle step is one ms (log entry 1). -/
def Obligations.ChordOpensOnKeyDown : Prop :=
  (∀ (s : State) (n : Nat) (image : BitVec 24) (mark : Bool), ScanDue s n → s.scanner.chord = .idle →
    ∃ (t : State) (down : KeySet), exec (.scan image mark) s = .next t ∧
      (∀ p < 23, (down.getLsbD p = true ↔ KeyGoesDown s image p)) ∧
      (down ≠ 0 → t.scanner.chord = .chord ∧ t.scanner.accumulator = down ∧
        t.scanner.chordStart = some (timeAfter s n)) ∧
      (down = 0 → t.scanner.chord = .idle ∧ t.scanner.accumulator = s.scanner.accumulator ∧
        t.scanner.chordStart = s.scanner.chordStart) ∧
      t.scanner.nextStroke = s.scanner.nextStroke ∧ t.strokes = s.strokes ∧ strokeNotes t = strokeNotes s ∧
      ScanKept n s t) ∧
  ∀ s t : State, ChordGood s → step s = .next t → ChordGood t

/-- R8: at a scan that leaves a key down, a chord open for more than the stuck limit, by the signed difference, is
discarded with KEY_STUCK and no stroke number; one not beyond the limit stays open and gathers its key-downs. Model's
choice: the ms left of its period pass with the scan, whose time is their end (log entry 1). -/
def Obligations.OverlongChordIsDiscarded : Prop :=
  ∀ (s : State) (n : Nat) (image : BitVec 24) (mark : Bool) (c : Word), ScanDue s n → s.scanner.chord = .chord →
    s.scanner.chordStart = some c → keysHeld (cellsAfter s image) ≠ 0 →
    ∃ t, exec (.scan image mark) s = .next t ∧
      ((s.settings.stuckLimit : Int) * 1000 < (timeAfter s n - c).toInt →
        t.scanner.chord = .drain ∧ t.scanner.accumulator = 0 ∧ t.scanner.chordStart = none ∧
        t.status.isSet .keyStuck = true) ∧
      ((timeAfter s n - c).toInt ≤ (s.settings.stuckLimit : Int) * 1000 →
        t.scanner.chord = .chord ∧
        t.scanner.accumulator = s.scanner.accumulator ||| keysDown (cellsAfter s image) ∧
        t.scanner.chordStart = some c ∧ t.status.isSet .keyStuck = s.status.isSet .keyStuck) ∧
      t.scanner.nextStroke = s.scanner.nextStroke ∧ t.strokes = s.strokes ∧ strokeNotes t = strokeNotes s ∧
      ScanKept n s t

/-- R9: in DRAIN key-downs enter nothing; a scan that leaves every key up ends it, with no stroke; while it lasts
KEY_STUCK is not set again. Model's choice: the ms left of its period pass with the scan, whose time is their end (log
entry 1). -/
def Obligations.DrainWaitsForClearKeyboard : Prop :=
  ∀ (s : State) (n : Nat) (image : BitVec 24) (mark : Bool), ScanDue s n → s.scanner.chord = .drain →
    ∃ t, exec (.scan image mark) s = .next t ∧
      (keysHeld (cellsAfter s image) = 0 → t.scanner.chord = .idle) ∧
      (keysHeld (cellsAfter s image) ≠ 0 → t.scanner.chord = .drain) ∧
      t.scanner.accumulator = s.scanner.accumulator ∧ t.scanner.chordStart = s.scanner.chordStart ∧
      t.scanner.nextStroke = s.scanner.nextStroke ∧ t.strokes = s.strokes ∧ strokeNotes t = strokeNotes s ∧
      t.status.isSet .keyStuck = s.status.isSet .keyStuck ∧ ScanKept n s t

/-- R7, R10 to R13, R16, R19: a scan that leaves every key up completes the chord: the record goes to the notes with
its duration, or is counted as lost, and joins the stroke queue, or raises the overrun count of its newest record.
Model's choice: the ms left of its period pass with the scan, whose time is their end (log entry 1). -/
def Obligations.CompletedStrokeIsNotedAndQueued : Prop :=
  ∀ (s : State) (n : Nat) (image : BitVec 24) (mark : Bool) (number start : Word), ScanDue s n →
    s.scanner.chord = .chord → s.scanner.nextStroke = some number → s.scanner.chordStart = some start →
    keysHeld (cellsAfter s image) = 0 → s.notes.opened = true →
    let finish := timeAfter s n
    let keys := s.scanner.accumulator ||| keysDown (cellsAfter s image)
    ∃ t, exec (.scan image mark) s = .next t ∧ t.scanner.chord = .idle ∧ t.scanner.accumulator = 0 ∧
      t.scanner.chordStart = none ∧
      t.scanner.nextStroke = some (if number = 4294967295 then 1 else number + 1) ∧
      (RoomForNotes s 8 → strokeNotes t =
        strokeNotes s ++ [.stroke number start keys (BitVec.ofNat 16 (min (finish - start).toNat 65535))]) ∧
      (¬ RoomForNotes s 8 → strokeNotes t = strokeNotes s ∧
        min (s.notes.lostCount + 1) 4294967295 ≤ t.notes.lostCount ∧
        (s.notes.pathOpen = true → t.status.isSet .noteLost = true)) ∧
      (s.strokes.length < 16 → t.strokes = s.strokes ++ [⟨⟨number, keys, start, finish⟩, none⟩] ∧
        t.status.isSet .strokeOverrun = s.status.isSet .strokeOverrun) ∧
      (∀ qs q, s.strokes = qs ++ [q] → 16 ≤ s.strokes.length →
        t.strokes = qs ++ [{ q with overrun := some (min (q.overrun.getD 0 + 1) 65535) }] ∧
        t.status.isSet .strokeOverrun = true) ∧
      ScanKept n s t

/-- R5: cell 23 is debounced like the others and sets KEY_FAULT each time its debounced state changes from up to
pressed, and at no other time; neither its state nor its reading makes any other difference: two scans alike in cells
0..22, before and in the image, leave the same chord, strokes and notes. Model's choice: the ms left of its period pass
with the scan, whose time is their end (log entry 1). -/
def Obligations.UnconnectedCellOnlyFlags : Prop :=
  ∀ (s : State) (n : Nat) (image : BitVec 24) (mark : Bool) (c : CellState), ScanDue s n →
    s.scanner.cells[23]? = some c →
    ∃ t, exec (.scan image mark) s = .next t ∧
      t.status.isSet .keyFault =
        (s.status.isSet .keyFault || (!c.pressed && image.getLsbD 23 && decide (s.settings.debounce ≤ c.count + 1))) ∧
      t.scanner.cells[23]? = some
        (if image.getLsbD 23 = c.pressed then ⟨c.pressed, 0⟩
        else if c.count + 1 < s.settings.debounce then ⟨c.pressed, c.count + 1⟩
        else ⟨image.getLsbD 23, 0⟩) ∧
      ScanKept n s t ∧
      ∀ (image' : BitVec 24) (c' : CellState), (∀ p < 23, image'.getLsbD p = image.getLsbD p) →
        ∃ t', exec (.scan image' mark) { s with scanner := { s.scanner with cells := s.scanner.cells.set 23 c' } } =
            .next t' ∧
          t'.strokes = t.strokes ∧ t'.notes = t.notes ∧
          (t'.scanner.chord, t'.scanner.accumulator, t'.scanner.chordStart, t'.scanner.nextStroke) =
            (t.scanner.chord, t.scanner.accumulator, t.scanner.chordStart, t.scanner.nextStroke)

/-- R14, R15: the first MARK sample sets the level with no edge; a sample equal to the level clears the count, and one
that differs counts, with no other effect, until the count is complete. A debounced change from high to low is an edge,
which hands a MARK note behind the scan's stroke and sets the mark-next latch, or before LISTEN is held with the first
edge's time; a change from low to high has no effect beyond the level. Before sampling begins a scan takes no sample.
Model's choices: the time left passes with an expiry command or a scan (log entry 1). -/
def Obligations.MarkEdgeMarksNextUnit : Prop :=
  ∀ (s : State) (n : Nat) (image : BitVec 24) (mark : Bool), s.scanner.period = some n →
    ∃ t, exec (.scan image mark) s = .next t ∧ ScanKept n s t ∧
      let noEdge := t.scanner.heldMark = s.scanner.heldMark ∧ t.translator.markNext = s.translator.markNext ∧
        ∀ w, Note.mark w ∈ t.notes.fifo → Note.mark w ∈ s.notes.fifo
      (s.scanner.markActive = false →
        t.scanner.markLevel = s.scanner.markLevel ∧ t.scanner.markCount = s.scanner.markCount ∧ noEdge) ∧
      (s.scanner.markActive = true → s.scanner.markLevel = none →
        t.scanner.markLevel = some mark ∧ t.scanner.markCount = 0 ∧ noEdge) ∧
      (s.scanner.markActive = true → s.scanner.markLevel = some mark →
        t.scanner.markLevel = some mark ∧ t.scanner.markCount = 0 ∧ noEdge) ∧
      (s.scanner.markActive = true → s.scanner.markLevel = some (!mark) →
        s.scanner.markCount + 1 < s.settings.debounce →
        t.scanner.markLevel = some (!mark) ∧ t.scanner.markCount = s.scanner.markCount + 1 ∧ noEdge) ∧
      (s.scanner.markActive = true → s.scanner.markLevel = some true → mark = false →
        s.settings.debounce ≤ s.scanner.markCount + 1 →
        t.scanner.markLevel = some false ∧ t.scanner.markCount = 0 ∧
        (s.scanner.active = true → t.translator.markNext = true ∧ t.scanner.heldMark = s.scanner.heldMark ∧
          (s.notes.opened = true → RoomForNotes s 7 →
            t.notes.fifo.getLast? = some (.mark (timeAfter s n)))) ∧
        (s.scanner.active = false → t.translator.markNext = s.translator.markNext ∧
          t.scanner.heldMark = some (s.scanner.heldMark.getD (timeAfter s n)) ∧ t.notes.fifo = s.notes.fifo)) ∧
      (s.scanner.markActive = true → s.scanner.markLevel = some false → mark = true →
        s.settings.debounce ≤ s.scanner.markCount + 1 →
        t.scanner.markLevel = some true ∧ t.scanner.markCount = 0 ∧ noEdge)

/-! ### Notes writer and memory port -/

/-- FLUSH_TIMER_EXPIRY (R20, R21): when the ms left have passed, a flush is due for waiting records and the timer
stops; with the flash free and no lookup waiting, the burst is granted. Model's choices: the time left passes with an
expiry command or a scan (log entry 1); the flush timer stands in ms (log entry 9). -/
def Obligations.FlushTimerRequestsBurst : Prop :=
  ∀ (s : State) (n : Nat), s.notes.flushTimer = some n →
    let e := elapse n s
    ∃ t, exec .flushTimerExpiry s = .next t ∧
      t = { e with notes := { e.notes with flushTimer := none, flushDue := t.notes.flushDue }, port := t.port } ∧
      t.notes.flushDue = (s.notes.flushDue || decide (0 < s.notes.waiting)) ∧
      (s.port.flash ≠ .free → t.port = e.port) ∧
      (s.port.flash = .free → s.port.burstGranted = false → s.lookup.claims = false → s.notes.pathOpen = true →
        s.notes.burst = none → s.notes.fifo ≠ [] → t.port = { e.port with burstGranted := true })

/-- BURST_START (R21, R22, R37): a LOST record that is due takes its place at the head, behind a RESUME; the burst
takes the oldest records, at most 8 and at most the free slots, in one operation or two split at the page; the timers
start. Where the region does not allow its program the port refuses it: no transfer starts and no flash state changes
(R34). Model's choices: the flush timer stands in ms (log entry 9); a refused burst stays in flight (log entry 31). -/
def Obligations.BurstStartTakesWaitingRecords : Prop :=
  (∀ (s : State) (r : Region) (w : Nat), s.port.flash = .free → s.port.burstGranted = true → s.notes.burst = none →
    s.notes.pathOpen = true → (6 ≤ s.notes.fifo.length ∨ s.notes.flushDue = true) → s.notes.fifo ≠ [] →
    NotesRegion s r → s.notes.writePos = some (16 * w) → w < r.size / 16 →
    ∃ t b, exec .burstStart s = .next t ∧ t.notes.burst = some b ∧ b.stage = .first ∧
      b.count = min (min 8 t.notes.fifo.length) (r.size / 16 - w) ∧ b.span = (w, b.count) ∧
      b.ops = (if w % 16 + b.count ≤ 16 then [(w, b.count)]
        else [(w, 16 - w % 16), (w + (16 - w % 16), b.count - (16 - w % 16))]) ∧
      (s.notes.lostCount = 0 ∨ s.notes.fifo.any Note.isLost = true → t.notes.fifo = s.notes.fifo) ∧
      (0 < s.notes.lostCount → s.notes.fifo.any Note.isLost = false →
        ∃ head rest, s.notes.fifo = head ++ rest ∧ t.notes.fifo = head ++ .lost s.notes.lostCount :: rest ∧
          (head = [] ∧ (∀ count kind, rest.head? ≠ some (.resume count kind)) ∨
            ∃ count kind, head = [.resume count kind])) ∧
      t.notes.flushTimer =
        (if b.count < t.notes.fifo.length then some (s.settings.flush * 100) else none) ∧
      t =
        { s with
          notes :=
            { s.notes with fifo := t.notes.fifo, burst := some b, flushTimer := t.notes.flushTimer, flushDue := false }
          port := { s.port with flash := .programming, timer := some 50, burstGranted := false } }) ∧
  ∀ (s : State) (r : Region), s.port.flash = .free → s.port.burstGranted = true → s.notes.wantsBurst = true →
    s.port.region .notes = some r → .flashProgram ∉ r.allowed →
    ∃ t, exec .burstStart s = .next t ∧ t = { s with notes := t.notes, port := { s.port with burstGranted := false } }

/-- PROGRAM_POLL_RESULT reporting an operation done (R22, R23, R27, R35): the device holds the AND of its contents and
the records; the next operation follows at once; after the last the write position passes the records, they leave the
FIFO, a LOST record takes its count from the lost count, NOTES_NEAR_FULL stands for the crossing of its threshold, and
a region then full empties the FIFO into the lost count. -/
def Obligations.BurstSuccessAdvancesWritePosition : Prop :=
  ∀ (s : State) (b : Burst) (r : Region) (w slot m : Nat) (rest : List (Nat × Nat)), InBurst s b r w →
    s.port.flash = .programming → b.stage ≠ .overwrite → b.ops = (slot, m) :: rest → w ≤ slot →
    slot - w + m ≤ b.count → b.count ≤ s.notes.fifo.length → Memory.wf s.port.flashMem →
    let data := ((s.notes.fifo.drop (slot - w)).take m).flatMap Note.bytes
    ∃ t, exec (.programPollResult false) s = .next t ∧ ProgrammedAt s t (r.base + 16 * slot) data ∧
      t.port.ramMem = s.port.ramMem ∧
      (rest ≠ [] → t.notes = { s.notes with burst := some { b with ops := rest } } ∧
        t.port.flash = .programming ∧ t.port.timer = some 50 ∧ t.status = s.status) ∧
      (rest = [] → t.notes.burst = none ∧ t.notes.writePos = some (16 * (w + b.count)) ∧
        (w + b.count < r.size / 16 → t.notes.fifo = s.notes.fifo.drop b.count ∧ t.notes.full = false ∧
          t.notes.lostCount = s.notes.lostCount - lostCarried (s.notes.fifo.take b.count) ∧
          t.notes.flushTimer = s.notes.flushTimer) ∧
        (r.size / 16 ≤ w + b.count → t.notes.fifo = [] ∧ t.notes.full = true ∧ t.status.isSet .notesFull = true ∧
          t.notes.flushTimer = none ∧
          t.notes.lostCount = addLost (s.notes.lostCount - lostCarried (s.notes.fifo.take b.count))
            (handedCount (s.notes.fifo.drop b.count))) ∧
        (∀ f : Machine.Flag, t.status.isSet f = true ↔
          s.status.isSet f = true ∨
          (f = .notesNearFull ∧ 2 ^ s.settings.nearFull ≤ r.size / 16 - w ∧
            r.size / 16 - (w + b.count) < 2 ^ s.settings.nearFull) ∨
          (f = .notesFull ∧ r.size / 16 ≤ w + b.count)) ∧
        (s.lookup.claims = false → t.notes.wantsBurst = false → t.port.flash = .free)) ∧
      (t.pending, t.freeCount, t.seq, t.settings, t.scanner, t.strokes, t.lookup, t.translator, t.inbox, t.release) =
        (s.pending, s.freeCount, s.seq, s.settings, s.scanner, s.strokes, s.lookup, s.translator, s.inbox, s.release) ∧
      (t.bus, t.peers, t.floor) = (s.bus, s.peers, s.floor)

/-- A first failure (R22, R24, R37), reported by the poll or at the end of the recovery: the records stay, and the span
is overwritten with VOID records; after that overwrite, reported done, the write position has passed the span and the
same records are tried again where slots are free, else the path is full. Model's choices: the time left passes with an
expiry command or a scan (log entry 1); what a failed program leaves is a free value (log entry 3). -/
def Obligations.FailedBurstIsOverwrittenWithVoid : Prop :=
  (∀ (s : State) (b : Burst) (r : Region) (w slot m : Nat) (rest : List (Nat × Nat)) (c : Instr), InBurst s b r w →
    b.stage = .first → b.ops = (slot, m) :: rest → ReportsFailure s c → Memory.wf s.port.flashMem →
    ∃ t, exec c s = .next t ∧
      PartlyProgrammedAt s t (r.base + 16 * slot) (16 * m) ∧
      t =
        { s with
          freeCount := s.freeCount + 1
          notes := { s.notes with burst := some ⟨.overwrite, b.count, pageSplit b.span.1 b.span.2, b.span⟩ }
          port :=
            { s.port with
              flash := .programming, timer := some 50, burstGranted := false, flashMem := t.port.flashMem } }) ∧
  (∀ s : State, s.port.flash = .recovering → s.notes.burst.isSome = true →
    exec (.recoveryEnd false) s = exec (.recoveryEnd true) (elapse (s.port.timer.getD 0) s)) ∧
  ∀ (s : State) (b : Burst) (r : Region) (w slot m : Nat), InBurst s b r w → s.port.flash = .programming →
    b.stage = .overwrite → b.ops = [(slot, m)] → Memory.wf s.port.flashMem →
    ∃ t, exec (.programPollResult false) s = .next t ∧
      ProgrammedAt s t (r.base + 16 * slot) (List.replicate (16 * m) 0) ∧
      t.notes.writePos = some (16 * (w + b.span.2)) ∧
      (w + b.span.2 < r.size / 16 →
        t.notes.burst =
          some ⟨.second, min b.count (r.size / 16 - (w + b.span.2)),
            pageSplit (w + b.span.2) (min b.count (r.size / 16 - (w + b.span.2))), b.span⟩ ∧
        t.notes.fifo = s.notes.fifo ∧ t.port.flash = .programming ∧ t.port.timer = some 50) ∧
      (r.size / 16 ≤ w + b.span.2 → t.notes.burst = none ∧ t.notes.full = true ∧ t.notes.fifo = [] ∧
        t.status.isSet .notesFull = true ∧ t.notes.lostCount = addLost s.notes.lostCount (handedCount s.notes.fifo))

/-- R25: a failure of the second attempt, or of the VOID overwrite, halts the path with NOTES_FAULT: every record but a
LOST is counted as lost, the FIFO is emptied, timer and flush due are cleared; the write position keeps its value, or
passes the overwritten span. The path then stays halted until a reset, requests no burst, and loses every note. -/
def Obligations.SecondFailureHaltsNotes : Prop :=
  (∀ (s : State) (b : Burst) (r : Region) (w : Nat) (c : Instr), InBurst s b r w → b.stage ≠ .first →
    ReportsFailure s c → s.notes.lostCount ≤ 4294967295 →
    ∃ t, exec c s = .next t ∧ t.notes.halted = true ∧ t.status.isSet .notesFault = true ∧ t.notes.burst = none ∧
      t.notes.fifo = [] ∧ t.notes.flushTimer = none ∧ t.notes.flushDue = false ∧
      t.notes.lostCount = min (s.notes.lostCount + handedCount s.notes.fifo) 4294967295 ∧
      t.notes.writePos = some (16 * (if b.stage = .overwrite then w + b.span.2 else w)) ∧
      (s.lookup.claims = false → t.port.flash = .free)) ∧
  ∀ s : State, s.notes.halted = true → s.notes.burst = none →
    s.notes.wantsBurst = false ∧
    (∀ (c : Instr) (t : State), isReset c = false → exec c s = .next t →
      t.notes.halted = true ∧ t.notes.burst = none) ∧
    ∀ n : Note, s.notes.opened = true → (handNote n s).notes.fifo = s.notes.fifo ∧
      (handNote n s).notes.lostCount = min (s.notes.lostCount + 1) 4294967295

/-! ### Lookup unit -/

/-- FLASH_READ_DONE in a lookup (R36, R44, R45, R47, R48). A slot value: empty ends the window's probe, deleted goes on
to the next slot up to the probe limit, any other has its entry read. An entry: of another outline the probe goes on,
of this one it is a hit, whose text is read but for CONT. A text ends the probe with it. An offset outside the heap, a
bad entry, a bad text or a refused read ends it as a miss with DICT_BAD. A window's end adds its result: the first text
stands, a continuation of any window counts; the next enabled window follows unless neither can change. A search that
needs another read claims the flash again. Model's choices: each read of a probe is one event, and a refused one is bad
(log entry 12). -/
def Obligations.FlashReadMovesProbe : Prop :=
  (∀ (s : State) (q : Search) (p : Probe) (g : Geometry), (s.seq.phase = .run ∨ s.seq.phase = .listen) →
    s.port.flash = .reading → s.lookup.search = some q → q.window ≠ .w0 → q.probe = some p →
    s.lookup.geometry q.window = some g →
    let readAt := s.port.readAt q.window.region
    let missed := windowEnded s.lookup q none false
    let next :=
      if p.visited + 1 < g.probe then { q with probe := some ⟨(p.slot + 1) % g.slots, p.visited + 1, .slot⟩ }
      else missed
    ∃ t q' bad, exec .flashReadDone s = .next t ∧
      (p.read = .slot → readAt (g.slotBase + 4 * p.slot) 4 = none → q' = missed ∧ bad = true) ∧
      (p.read = .slot → readAt (g.slotBase + 4 * p.slot) 4 ≠ none →
        let v := slotAt s.port q.window.region g p.slot
        (v = 0xFFFFFFFF → q' = missed ∧ bad = false) ∧
        (v = 0xFFFFFFFE → q' = next ∧ bad = false) ∧
        (v < 0xFFFFFFFE → g.heapSize ≤ v ∨ readAt (g.heapBase + v) 2 = none → q' = missed ∧ bad = true) ∧
        (v < 0xFFFFFFFE → v < g.heapSize → readAt (g.heapBase + v) 2 ≠ none →
          q' = { q with probe := some { p with read := .entry v } } ∧ bad = false)) ∧
      (∀ v k outline text, p.read = .entry v → EntryAt s.port q.window.region g v k outline text →
        (outline ≠ q.outline → q' = next ∧ bad = false) ∧
        (outline = q.outline → k = .cont → q' = windowEnded s.lookup q none true ∧ bad = false) ∧
        (outline = q.outline → k ≠ .cont → q' = { q with probe := some { p with read := .text v k } } ∧ bad = false)) ∧
      (∀ v head, p.read = .entry v → readAt (g.heapBase + v) 2 = some head →
        (let n := fieldAt head 1 1
        n < 1 ∨ 8 < n ∨ fieldAt head 0 1 < 1 ∨ 3 < fieldAt head 0 1 ∨ readAt (g.heapBase + v) (2 + 3 * n) = none) →
        q' = missed ∧ bad = true) ∧
      (∀ v k text, p.read = .text v k → EntryAt s.port q.window.region g v k q.outline text →
        q' = windowEnded s.lookup q (some (k, text)) (k == .wordCont) ∧ bad = false) ∧
      (∀ v k length, p.read = .text v k → readAt (g.heapBase + v + 2 + 3 * q.outline.length) 1 = some [length] →
        120 < length.toNat ∨ g.heapSize < v + 3 + 3 * q.outline.length + length.toNat → q' = missed ∧ bad = true) ∧
      (q'.probe ≠ none → s.port.burstGranted = false → s.notes.fifo.length < 8 → t.port.flash = .reading) ∧
      (q'.probe = none → s.notes.wantsBurst = false → t.port.flash = .free) ∧
      t.status = (if bad then (setFlag .dictBad s).status else s.status) ∧
      t =
        { s with
          lookup := { s.lookup with search := some q' }
          status := t.status
          port := { s.port with flash := t.port.flash, burstGranted := t.port.burstGranted } }) ∧
  ∀ (l : LookupUnit) (q : Search) (text : Option (EntryKind × List Byte)) (cont : Bool),
    let q' := windowEnded l q text cont
    let later := match q.window with
      | .w0 => [(Window.w1, l.w1), (.w2, l.w2)]
      | .w1 => [(.w2, l.w2)]
      | .w2 => []
    (q.result.text ≠ none → q'.result.text = q.result.text) ∧
    (q.result.text = none → q'.result.text = text.map fun e => ⟨q.window, e.1, e.2⟩) ∧
    q'.result.cont = (q.result.cont || cont) ∧ q'.outline = q.outline ∧ q'.hash = q.hash ∧
    (q'.result.text ≠ none → q'.result.cont = true → q'.probe = none) ∧
    (q'.result.text = none ∨ q'.result.cont = false →
      (later.all (fun w => w.2.isNone) = true → q'.probe = none) ∧
      ∀ skipped w g rest, later = skipped ++ (w, some g) :: rest → skipped.all (fun x => x.2.isNone) = true →
        q'.window = w ∧ q'.probe = some ⟨q.hash.toNat % g.slots, 0, .slot⟩)

/-- R44, R45: a probe finds the entry of its outline when the slots before it on the probe's way are deleted or hold
entries of other outlines and the limit is not reached; it misses when an empty slot comes first, or the limit does.
The slot array lies inside its region, as R42 checks and R43 gives it. Model's choices: each read of a probe is one
event, and a refused one is bad (log entry 12). -/
def Obligations.ProbeFindsStoredEntry : Prop :=
  ∀ (port : MemoryPort) (r : RegionName) (g : Geometry) (outline : List KeySet) (d : Nat), 0 < g.slots →
    (∀ i < g.slots, port.readAt r (g.slotBase + 4 * i) 4 ≠ none) →
    (∀ j < d, GoesPast port r g outline (visitedSlot g outline j)) →
    let run := probeRam port r g outline (probeFuel g) (firstProbe g (outlineHash outline))
    let v := slotAt port r g (visitedSlot g outline d)
    (∀ k text, d < g.probe → v < 0xFFFFFFFE → EntryAt port r g v k outline text → k ≠ .cont →
      run = .ended (some (k, text)) (k == .wordCont) false) ∧
    (∀ text, d < g.probe → v < 0xFFFFFFFE → EntryAt port r g v .cont outline text → run = .ended none true false) ∧
    (d < g.probe → v = 0xFFFFFFFF → run = .ended none false false) ∧
    (0 < g.probe → d = g.probe → run = .ended none false false)

/-! ### Translator -/

/-- STROKE_EVENT (R12, R46, R51, R54, R102): the oldest stroke leaves the queue and is reported to the floor
controller, where in vacancy it starts the claim wait (R155), the resolve timer stops, and the whole new sequence, or
in DEF_OUTLINE the stroke alone, is looked up; an overrun marker is left for the end of the event. With the stale mark
set every prefix of the sequence is first looked up again (R63), and once more when a store at a completion sets the
mark again (R64). Model's choices: a command whose event cannot come about changes nothing (log entry 5); an overrun
marker is dealt with at the end of its event (log entry 13); the inbox is emptied before a recomputation goes on (log
entry 32); the last stroke time is set in every phase, and no claim wait starts outside RUN (log entry 25). -/
def Obligations.StrokeEventAsksForLookup : Prop :=
  (∀ (s : State) (q : QueuedStroke) (rest : List QueuedStroke), Resting s → s.strokes = q :: rest →
    q.stroke.keys ≠ 1024 →
    let outline :=
      (if s.translator.capture.state = .outline then [] else s.translator.sequence.map fun e => e.stroke.keys) ++
        [q.stroke.keys]
    ∃ t search, exec .strokeEvent s = .next t ∧ t.strokes = rest ∧
      t.lookup = { s.lookup with search := some search } ∧ search.outline = outline ∧
      search.hash = outlineHash outline ∧
      t.translator = { s.translator with resolveTimer := none, work := .stroke q.stroke.taken :: markerWork q } ∧
      t.floor = { s.floor with lastStroke := some s.seq.clock, claimWait := t.floor.claimWait } ∧
      (s.seq.phase = .run → s.floor.state = .off → s.floor.holder = none → s.floor.withdrawn = false →
        s.floor.claimWait = none → s.floor.holdOff = none → 0 < s.settings.activeWindow →
        t.floor.claimWait = some (s.seq.addr.toNat * 20)) ∧
      (s.seq.phase ≠ .run ∨ s.floor.state ≠ .off ∨ s.floor.holder ≠ none ∨ s.floor.withdrawn = true ∨
        s.floor.claimWait ≠ none ∨ s.floor.holdOff ≠ none → t.floor.claimWait = s.floor.claimWait) ∧
      (search.probe ≠ none → s.port.flash = .free → s.port.burstGranted = false → s.notes.wantsBurst = false →
        t.port.flash = .reading) ∧
      (t.notes, t.release, t.inbox, t.bus, t.port.ramMem) = (s.notes, s.release, s.inbox, s.bus, s.port.ramMem) ∧
      OutsideTranslator s t) ∧
  (∀ (s : State) (q : QueuedStroke) (rest : List QueuedStroke), s.translator.active = true → s.translator.work = [] →
    s.translator.stale = true → s.lookup.search = none → s.lookup.request = none → s.inbox = [] →
    s.strokes = q :: rest →
    (s.translator.sequence = [] →
      exec .strokeEvent s = exec .strokeEvent { s with translator := { s.translator with stale := false } }) ∧
    ∀ e es, s.translator.sequence = e :: es →
      ∃ t search, exec .strokeEvent s = .next t ∧ t.lookup = { s.lookup with search := some search } ∧
        search.outline = [e.stroke.keys] ∧
        t.translator =
          { s.translator with
            resolveTimer := none, stale := false, work := .recompute 0 :: .stroke q.stroke.taken :: markerWork q }) ∧
  (∀ (s : State) (q : Search) (i : Nat) (w : List Work), s.lookup.search = some q → q.probe = none →
    s.lookup.request = none → s.translator.work = .recompute i :: w → i < s.translator.sequence.length →
    let sequence := s.translator.sequence.modify i fun e => { e with result := q.result }
    let applied := applyInbox
      { s with
        translator := { s.translator with sequence := sequence }
        lookup := { s.lookup with search := none } }
    let keys := s.translator.sequence.map fun e => e.stroke.keys
    ∃ t search, exec .lookupCompletion s = .next t ∧ t.inbox = [] ∧ t.translator.sequence = sequence ∧
      (i + 1 < sequence.length → t.lookup.search = some search ∧ search.outline = keys.take (i + 2) ∧
        t.translator = { applied.translator with work := .recompute (i + 1) :: w }) ∧
      (i + 1 = sequence.length → applied.translator.stale = true →
        t.lookup.search = some search ∧ search.outline = keys.take 1 ∧
        t.translator = { applied.translator with work := .recompute 0 :: w, stale := false }) ∧
      (i + 1 = sequence.length → applied.translator.stale = false → ∀ x w', w = .stroke x :: w' → x.keys ≠ 1024 →
        s.translator.capture.state ≠ .outline →
        t.lookup.search = some search ∧ search.outline = keys ++ [x.keys] ∧
        t.translator = { applied.translator with work := w })) ∧
  ∀ s : State, s.translator.active = false ∨ s.translator.work ≠ [] ∨ s.strokes = [] → exec .strokeEvent s = .next s

/-- An UNDO stroke (R53, R59, R61, R87, R88, R105). In NORMAL the newest pending entry is removed; with none, the
newest unit, its snapshot and its mark coming back, a released one with its RETRACT; with an empty history only the
stroke is taken. In DEF_OUTLINE the newest stroke of the outline is removed, or with none the capture is abandoned; in
DEF_TEXT the newest pending entry, else the newest piece with the buffer state before it, else the separator. An
overrun marker is dealt with behind it, whatever it leaves: the sequence left is forced, its front part joining the
history or the text of an open definition and the strokes behind it re-processed; then that definition is refused and
the GAP unit joins, with room made in a full history. Model's choices: the last stroke time is set in every phase, and
no claim wait starts outside RUN (log entry 25); the define state that an overrun marker meets is that behind the UNDO
stroke (log entry 13); where room is made the drain check comes before the release check (log entry 28). -/
def Obligations.UndoTakesBackTheNewest : Prop :=
  (∀ (s : State) (q : QueuedStroke) (rest : List QueuedStroke), Resting s → s.strokes = q :: rest →
    q.stroke.keys = 1024 → q.overrun = none → s.translator.capture.state = .normal →
    ∃ t, exec .strokeEvent s = .next t ∧ t.strokes = rest ∧ t.lookup = s.lookup ∧
      (∀ es e, s.translator.sequence = es ++ [e] →
        t.translator =
          { s.translator with
            sequence := es
            resolveTimer := if es = [] ∨ s.settings.resolve = 0 then none else some s.settings.resolve } ∧
        t.bus = s.bus ∧ t.release = s.release) ∧
      (s.translator.sequence = [] → s.translator.history = [] →
        t.translator = { s.translator with resolveTimer := none } ∧ t.bus = s.bus) ∧
      (s.translator.sequence = [] → ∀ us u, s.translator.history = us ++ [u] →
        t.translator =
          { s.translator with
            history := us, formatting := u.snapshot, markNext := s.translator.markNext || u.marked,
            resolveTimer := none } ∧
        (u.released = true → u.seq = none → t.bus = s.bus) ∧
        (∀ n, u.released = true → u.seq = some n → s.seq.phase = .run → s.bus.queue.length < 20 →
          t.bus = { s.bus with
            queue := s.bus.queue ++ [waitingFrame (.retract (decide (u.stream = .official)) n) none] }) ∧
        (u.released = false → s.floor.state ≠ .draining → t.bus = s.bus)) ∧
      OutsideTranslator s t) ∧
  (∀ (s : State) (q : QueuedStroke) (rest : List QueuedStroke), Resting s → s.strokes = q :: rest →
    q.stroke.keys = 1024 → q.overrun = none → s.translator.capture.state ≠ .normal →
    let c := s.translator.capture
    ∃ t, exec .strokeEvent s = .next t ∧ t.strokes = rest ∧
      (c.state = .outline → t.translator.sequence = s.translator.sequence ∧
        (∀ xs x, c.outline = xs ++ [x] → t.translator.capture = { c with outline := xs }) ∧
        (c.outline = [] → t.translator.capture = noCapture)) ∧
      (c.state = .text →
        (∀ es e, s.translator.sequence = es ++ [e] →
          t.translator.sequence = es ∧ t.translator.capture = c) ∧
        (s.translator.sequence = [] → t.translator.sequence = [] ∧
          (∀ ps p, c.pieces = ps ++ [p] → t.translator.capture = { c with pieces := ps, buffer := p.before }) ∧
          (c.pieces = [] → t.translator.capture = { c with state := .outline, separator := none }))) ∧
      t =
        { s with
          strokes := rest
          translator :=
            { s.translator with
              capture := t.translator.capture, sequence := t.translator.sequence
              resolveTimer :=
                if t.translator.sequence = [] ∨ s.settings.resolve = 0 then none else some s.settings.resolve }
          floor := t.floor } ∧
      t.floor = { s.floor with lastStroke := some s.seq.clock, claimWait := t.floor.claimWait }) ∧
  ∀ (s : State) (q : QueuedStroke) (rest : List QueuedStroke) (count : Nat), Resting s → s.strokes = q :: rest →
    q.stroke.keys = 1024 → q.overrun = some count → 0 < s.settings.holdBack →
    ∃ p t, exec .strokeEvent { s with strokes := { q with overrun := none } :: rest } = .next p ∧
      exec .strokeEvent s = .next t ∧ t.strokes = rest ∧
      let c := p.translator.capture
      let sequence := p.translator.sequence
      let met :=
        { p with
          translator :=
            { p.translator with
              sequence := [], resolveTimer := none
              capture := { c with abandoned := c.abandoned || decide (c.state ≠ .normal) } } }
      let behind := [.force, .marker q.stroke.number count q.stroke.finish]
      let pieceThen := fun rs : List PendingEntry =>
        (rs = [] → GapBehind met t count q.stroke.finish) ∧
          (rs ≠ [] → Reprocesses t (rs.map PendingEntry.stroke) behind ∧ t.translator.capture.state = .text ∧
            t.translator.capture.abandoned = true ∧ t.translator.history = p.translator.history ∧
            (t.status, t.bus, t.release, t.floor) = (p.status, p.bus, p.release, p.floor))
      (sequence = [] → GapBehind met t count q.stroke.finish) ∧
      (c.state ≠ .text → sequence ≠ [] → MarkerBehind met t sequence behind count q.stroke.finish) ∧
      (c.state = .text →
        (∀ es e rs, sequence = es ++ e :: rs → e.result.text ≠ none → (∀ y ∈ rs, y.result.text = none) →
          pieceThen rs) ∧
        ∀ e rs, sequence = e :: rs → (∀ y ∈ sequence, y.result.text = none) → pieceThen rs)

/-- TIMER_EVENT (R51, R55, R56, R58, R59): when the ms left have passed, the longest front part of the sequence whose
last prefix result has text becomes one WORD unit of its strokes, with the text that assembly gives it; with no text
anywhere the first stroke alone becomes a NUMBER or UNTRAN unit. The strokes behind it are re-processed, oldest first,
before the forced resolution goes on. In a full history the oldest unit makes room first (R86). An empty sequence only
stops the timer; a stopped timer or a busy translator does nothing. Model's choices: the time left passes with an
expiry command or a scan (log entry 1); a command whose event cannot come about changes nothing (log entry 5); where
room is made the drain check comes before the release check (log entry 28). -/
def Obligations.ResolveTimerEmptiesSequence : Prop :=
  (∀ (s : State) (n : Nat), Resting s → s.translator.resolveTimer = some n → s.translator.capture.state = .normal →
    s.translator.sequence ≠ [] → 0 < s.settings.holdBack →
    let e := elapse n s
    ∃ t m, exec .timerEvent s = .next t ∧
      RoomMade { e with translator := { e.translator with resolveTimer := none, sequence := [] } } m ∧
      (∀ es e rest entry, s.translator.sequence = es ++ e :: rest → e.result.text = some entry →
        (∀ y ∈ rest, y.result.text = none) → PlainText entry.text →
        WordJoins m t (timeAfter s n) ((es ++ [e]).map PendingEntry.stroke) entry.text ∧
          Reprocesses t (rest.map PendingEntry.stroke) [.force] ∧
          (rest = [] → t.translator.work = [] ∧ t.lookup = s.lookup)) ∧
      (∀ e rest, s.translator.sequence = e :: rest → (∀ y ∈ e :: rest, y.result.text = none) →
        KeysJoin m t (timeAfter s n) e.stroke ∧ Reprocesses t (rest.map PendingEntry.stroke) [.force] ∧
          (rest = [] → t.translator.work = [] ∧ t.lookup = s.lookup)) ∧
      t.strokes = s.strokes ∧
      ((∀ y ∈ s.translator.sequence, ∀ entry, y.result.text = some entry → PlainText entry.text) →
        t.translator.resolveTimer = none)) ∧
  (∀ (s : State) (n : Nat), Resting s → s.translator.resolveTimer = some n → s.translator.sequence = [] →
    exec .timerEvent s =
      .next { elapse n s with translator := { s.translator with resolveTimer := none } }) ∧
  ∀ s : State, s.translator.work ≠ [] ∨ s.translator.resolveTimer = none → exec .timerEvent s = .next s

/-- LOOKUP_COMPLETION of a stroke, held or in a capture (R54, R59, R61, R62, R102 to R104). A result that says more may
follow makes the stroke join the sequence and start the resolve timer. In DEF_OUTLINE a separator opens the
definition's text, or refuses one without an outline, and any other stroke joins the outline raw, the ninth refusing
the definition. In DEF_TEXT a resolution makes one piece of the text buffer. A DEF_CLOSE in it then closes the
definition: stored, or with no characters deleted, as a peer's definition is (O50, O51), with its DEFINE frame behind;
refused by R95 or without RAM it only sets DEF_REFUSED. An overrun marker refuses the definition that is open when it
is met, or that has taken its stroke raw, stores and sends nothing, and makes the GAP unit, with room made in a full
history. A re-processed stroke is taken in the same way, and the next one is looked up behind it (R56). Before the
search is over nothing happens. Model's choices: a command whose event cannot come about changes nothing (log entry 5);
the define state that an overrun marker meets, and a separator taken behind it, which leaves the capture open (log
entry 13); a piece without characters joins the buffer and changes what its codes set (log entry 15); where room is
made for the GAP unit the drain check comes before the release check (log entry 28). -/
def Obligations.LookupResultIsHeldOrTakenRaw : Prop :=
  (∀ (s : State) (q : Search) (x : Taken), AwaitsResult s q [.stroke x] → s.translator.capture.state ≠ .outline →
    q.result.cont = true → s.translator.sequence.length < 7 →
    exec .lookupCompletion s = .next
      { s with
        translator :=
          { s.translator with
            sequence := s.translator.sequence ++ [⟨x, q.result⟩], work := []
            resolveTimer := if s.settings.resolve = 0 then none else some s.settings.resolve }
        lookup := { s.lookup with search := none } }) ∧
  (∀ (s : State) (q : Search) (x : Taken), AwaitsResult s q [.stroke x] → s.translator.capture.state = .outline →
    s.translator.sequence = [] →
    let c := s.translator.capture
    let separator := HasSeparator q.result
    ∃ t, exec .lookupCompletion s = .next t ∧
      (separator → c.outline ≠ [] → t.translator.capture = { c with state := .text, separator := some x } ∧
        t.status = s.status) ∧
      (¬ separator → c.outline.length < 8 →
        t.translator.capture = { c with outline := c.outline ++ [x] } ∧ t.status = s.status) ∧
      ((separator ∧ c.outline = []) ∨ (¬ separator ∧ 8 ≤ c.outline.length) →
        t.translator.capture = noCapture ∧ t.status = (setFlag .defRefused s).status) ∧
      t =
        { s with
          translator := { s.translator with capture := t.translator.capture, work := [], resolveTimer := none }
          lookup := { s.lookup with search := none }
          status := t.status }) ∧
  (∀ (s : State) (q : Search) (x : Taken), AwaitsResult s q [.stroke x] → s.translator.capture.state = .text →
    s.translator.sequence = [] → q.result = ⟨none, false⟩ →
    ∃ t, exec .lookupCompletion s = .next t ∧
      (let c := s.translator.capture
      (∀ digits, convertNumber x.keys = some digits →
        PieceJoins c t.translator.capture [x.number] digits true false ⟨c.buffer.cap, false, true⟩) ∧
      (convertNumber x.keys = none →
        PieceJoins c t.translator.capture [x.number] (untranslate x.keys) false false ⟨c.buffer.cap, false, false⟩)) ∧
      t =
        { s with
          translator := { s.translator with capture := t.translator.capture, work := [], resolveTimer := none }
          lookup := { s.lookup with search := none } }) ∧
  (∀ (s : State) (q : Search) (x : Taken) (window : Window) (kind : EntryKind) (lead body trail : List Byte),
    AwaitsResult s q [.stroke x] → s.translator.capture.state = .text → s.translator.capture.abandoned = false →
    (q.result.cont = false ∨ 7 ≤ s.translator.sequence.length) →
    q.result.text = some ⟨window, kind, lead ++ body ++ trail⟩ →
    (∀ b ∈ lead ++ trail, isCodeByte b = true) → (∀ b ∈ body, definable b = true ∨ isCodeByte b = true) →
    (body = [] → trail = []) → (∀ b, body.head? = some b ∨ body.getLast? = some b → definable b = true) →
    ∃ t d, exec .lookupCompletion s = .next t ∧
      EntryPiece s.translator.capture d
        (s.translator.sequence.map (fun e => e.stroke.number) ++ [x.number]) lead body trail ∧
      let ended := fun capture =>
        { s with
          translator := { s.translator with capture := capture, sequence := [], work := [], resolveTimer := none }
          lookup := { s.lookup with search := none } }
      let outline := d.outline.map Taken.keys
      let text := d.pieces.flatMap Piece.chars
      let closes := 0x0A ∈ lead ++ body ++ trail
      let refused := s.seq.ramFit = false ∨
        (text ≠ [] ∧ storeRefused s (storePlan s outline) outline text.length = true)
      (¬ closes → t = ended d) ∧
      (closes → refused → t = { ended noCapture with status := (setFlag .defRefused s).status }) ∧
      (closes → ¬ refused →
        let stored := applyPeer ⟨s.seq.addr, outline, text⟩ (ended noCapture)
        HandedLow stored t (.define (definePayload outline text)) ∧
          t = { stored with bus := { stored.bus with queue := t.bus.queue }, status := t.status })) ∧
  (∀ (s : State) (q : Search) (k : QueuedStroke) (count : Nat), k.overrun = some count →
    AwaitsResult s q (.stroke k.stroke.taken :: markerWork k) → s.translator.sequence = [] →
    0 < s.settings.holdBack →
    s.translator.capture.state = .outline ∨ (s.translator.capture.state = .text ∧
      (q.result.cont = true ∨ ∀ entry, q.result.text = some entry → Token.code .defClose ∉ tokens entry.text)) →
    ∃ t, exec .lookupCompletion s = .next t ∧
      GapBehind
        { s with
          translator :=
            { s.translator with
              work := [], resolveTimer := none, capture := { s.translator.capture with abandoned := true } }
          lookup := { s.lookup with search := none } }
        t count k.stroke.finish) ∧
  (∀ (s : State) (q : Search) (x : Taken) (number finish : Word) (count : Nat),
    AwaitsResult s q [.reprocess [x], .force, .marker number count finish] →
    s.translator.capture.state = .outline → s.translator.capture.abandoned = false → s.translator.sequence = [] →
    0 < s.settings.holdBack →
    let c := s.translator.capture
    let separator := HasSeparator q.result
    ∃ t r y, exec .lookupCompletion s = .next t ∧ RoomMade r y ∧ GapJoins y t s.seq.clock count finish ∧
      OnlyJoined y t ∧
      ((separator ∧ c.outline = []) ∨ (¬ separator ∧ (8 ≤ c.outline.length ∨ x.number = number)) →
        r.translator.capture = noCapture ∧ r.status = (setFlag .defRefused s).status) ∧
      (separator → c.outline ≠ [] →
        r.translator.capture = { c with state := .text, separator := some x } ∧ r.status = s.status) ∧
      r =
        { s with
          translator := { s.translator with capture := r.translator.capture, work := [], resolveTimer := none }
          lookup := { s.lookup with search := none }
          status := r.status }) ∧
  (∀ (s : State) (q : Search) (x y : Taken) (ys : List Taken) (w : List Work),
    AwaitsResult s q (.reprocess (x :: y :: ys) :: w) → s.translator.capture.state ≠ .outline →
    q.result.cont = true → s.translator.sequence.length < 7 →
    ∃ t search, exec .lookupCompletion s = .next t ∧ t.lookup = { s.lookup with search := some search } ∧
      search.outline = (s.translator.sequence.map fun e => e.stroke.keys) ++ [x.keys, y.keys] ∧
      t.translator =
        { s.translator with
          sequence := s.translator.sequence ++ [⟨x, q.result⟩], work := .reprocess (y :: ys) :: w } ∧
      OutsideTranslator s t) ∧
  ∀ s : State, (∀ q, s.lookup.search = some q → q.probe ≠ none) → exec .lookupCompletion s = .next s

/-- LOOKUP_COMPLETION that resolves (R54 to R57, R65 to R67, R76, R82, R84): a result without continuation, or the
eighth stroke, resolves the sequence. The longest front part whose last prefix result has text becomes one WORD unit of
its strokes, with the text that assembly gives it; with no text anywhere the first stroke alone becomes a NUMBER unit
by number conversion, else an UNTRAN unit with its untranslate text, whose creation asks for the UNTRAN pattern. The
strokes behind it are re-processed, oldest first, before the remainder of an earlier resolution; with none left the
event ends. In a full history the oldest unit makes room first (R86). An overrun marker is the last step of its event:
the forced resolution of a sequence that is still held, then the GAP unit (R61). Model's choices: a marker met in
NORMAL refuses no definition (log entry 13); where room is made the drain check comes before the release check (log
entry 28). -/
def Obligations.StrokeWithoutTextJoinsHistory : Prop :=
  (∀ (s : State) (q : Search) (x : Taken), AwaitsResult s q [.stroke x] → s.translator.capture.state = .normal →
    s.translator.sequence = [] → q.result = ⟨none, false⟩ → s.translator.history.length < 32 →
    0 < s.settings.holdBack →
    let f := s.translator.formatting
    ∃ t u, exec .lookupCompletion s = .next t ∧ CreatedNow s s.seq.clock [x.number] x.start u ∧
      t.translator =
        { s.translator with
          history := s.translator.history ++ [u], work := [], resolveTimer := none, markNext := false
          formatting := { f with attachNext := false, paragraphStart := false, glueLast := decide (u.kind = .number) }
          nextUnit := unitAfter s } ∧
      (∀ digits, convertNumber x.keys = some digits →
        u.kind = .number ∧ u.text = digits ∧ SpacedPlainly f true u ∧ t.status = s.status) ∧
      (convertNumber x.keys = none → u.kind = .untran ∧ u.text = untranslate x.keys ∧ SpacedPlainly f false u ∧
        (s.seq.phase ≠ .fault → t.status = s.status.request .untran)) ∧
      (oldestHeld s.translator.history = none → s.release.active = true →
        t.release = { s.release with holdTimer := some s.settings.holdBack }) ∧
      (oldestHeld s.translator.history ≠ none → t.release = s.release) ∧
      t.lookup = { s.lookup with search := none } ∧
      (t.strokes, t.notes, t.inbox, t.bus, t.floor, t.port.ramMem) =
        (s.strokes, s.notes, s.inbox, s.bus, s.floor, s.port.ramMem) ∧ OutsideTranslator s t) ∧
  (∀ (s : State) (q : Search) (x : Taken) (work w : List Work), AwaitsResult s q work →
    (work = .stroke x :: w ∨ ∃ xs w', work = .reprocess (x :: xs) :: w' ∧ w = .reprocess xs :: w') →
    s.translator.capture.state = .normal → q.result.cont = false ∨ 7 ≤ s.translator.sequence.length →
    0 < s.settings.holdBack →
    let sequence := s.translator.sequence ++ [⟨x, q.result⟩]
    ∃ t m, exec .lookupCompletion s = .next t ∧ t.strokes = s.strokes ∧
      RoomMade
        { s with
          translator := { s.translator with sequence := [] }
          lookup := { s.lookup with search := none } } m ∧
      (∀ es e rest entry, sequence = es ++ e :: rest → e.result.text = some entry →
        (∀ y ∈ rest, y.result.text = none) → PlainText entry.text → rest ≠ [] ∨ w = [] →
        WordJoins m t s.seq.clock ((es ++ [e]).map PendingEntry.stroke) entry.text ∧
          Reprocesses t (rest.map PendingEntry.stroke) w ∧
          (rest = [] → t.translator.work = [] ∧ t.translator.resolveTimer = none ∧
            t.lookup = { s.lookup with search := none })) ∧
      (∀ e rest, sequence = e :: rest → (∀ y ∈ sequence, y.result.text = none) → rest ≠ [] ∨ w = [] →
        KeysJoin m t s.seq.clock e.stroke ∧ Reprocesses t (rest.map PendingEntry.stroke) w ∧
          (rest = [] → t.translator.work = [] ∧ t.translator.resolveTimer = none ∧
            t.lookup = { s.lookup with search := none }))) ∧
  ∀ (s : State) (q : Search) (k : QueuedStroke) (count : Nat), k.overrun = some count →
    AwaitsResult s q (.stroke k.stroke.taken :: markerWork k) → s.translator.capture.state = .normal →
    0 < s.settings.holdBack →
    let sequence := s.translator.sequence ++ [⟨k.stroke.taken, q.result⟩]
    let behind := if q.result.cont = true ∧ s.translator.sequence.length < 7 then
        [.force, .marker k.stroke.number count k.stroke.finish]
      else markerWork k
    ∃ t, exec .lookupCompletion s = .next t ∧
      MarkerBehind
        { s with
          translator := { s.translator with sequence := [], work := [], resolveTimer := none }
          lookup := { s.lookup with search := none } }
        t sequence behind count k.stroke.finish

/-- R66, with the keys of R65: conversion fails with an excluded key, exactly one of -E and -U, or no digit key; else
it gives the digits of the digit keys in steno order (S- 1, T- 2, P- 3, H- 4, A 5, O 0, -F 6, -P 7, -L 8, -T 9),
reversed by -E -U, with 00 for -Z, 1 to 12 characters; a stroke that fails, or has no #, becomes an UNTRAN with its
untranslate. -/
def Obligations.NumberConversionFollowsModifiers : Prop :=
  ∀ k : KeySet,
    let failing := (∃ p ∈ [3, 5, 7, 10, 14, 16, 18, 20, 21], k.getLsbD p = true) ∨ k.getLsbD 11 ≠ k.getLsbD 12 ∨
      ∀ p ∈ [1, 2, 4, 6, 8, 9, 13, 15, 17, 19], k.getLsbD p = false
    let digits : List Byte := ([(1, 0x31), (2, 0x32), (4, 0x33), (6, 0x34), (8, 0x35), (9, 0x30), (13, 0x36), (15, 0x37),
      (17, 0x38), (19, 0x39)] : List (Nat × Byte)).filterMap fun p => if k.getLsbD p.1 then some p.2 else none
    let ordered := if k.getLsbD 11 = true ∧ k.getLsbD 12 = true then digits.reverse else digits
    let zeros : List Byte := if k.getLsbD 22 then [0x30, 0x30] else []
    (k.getLsbD 0 = false ∨ failing → resolveKeys k = .untran (untranslate k)) ∧
    (k.getLsbD 0 = true → ¬ failing → resolveKeys k = .number (ordered ++ zeros) ∧
      1 ≤ (ordered ++ zeros).length ∧ (ordered ++ zeros).length ≤ 12)

/-- R67, R106, R107: an untranslate text determines its key set, is 1 to 24 characters long for a stroke, and holds no
control code. A peer's definition stored at once replaces the newest run of its untranslates by one WORD unit with the
text assembled from the first unit's snapshot, which keeps that unit's number, times, stream, release state and
sequence; of the run's RELEASED units with a sequence the first sends REPLACE and each other RETRACT, in order, HELD
ones nothing. With no run the history stays. Model's choices: a frame is one event at its end, read with its footing
(log entry 6). -/
def Obligations.UntranslateTextDeterminesKeys : Prop :=
  (∀ j k : KeySet, untranslate j = untranslate k → j = k) ∧
  (∀ k : KeySet, k ≠ 0 → 1 ≤ (untranslate k).length ∧ (untranslate k).length ≤ 24 ∧
    ∀ b ∈ untranslate k, 0x20 ≤ b.toNat ∧ b.toNat ≤ 0x7E) ∧
  ∀ (s : State) (f : LineFrame) (a : Station) (outline : List KeySet) (text : List Byte),
    DefineApplies s f a outline text → text ≠ [] →
    storeRefused s (storePlan s outline) outline text.length = false → NothingDue s → RoomToSend s →
    s.bus.queue.length + outline.length ≤ 20 → s.floor.state ≠ .draining →
    ∃ t, exec (.defineReceived f) s = .next t ∧
      ((∀ pre run post, s.translator.history = pre ++ run ++ post → ¬ UntranRun run outline) →
        t.translator = { s.translator with stale := true } ∧ t.bus.queue = s.bus.queue ∧ t.release = s.release) ∧
      ∀ pre u us post, s.translator.history = pre ++ (u :: us) ++ post → UntranRun (u :: us) outline →
        (∀ pre' run post', s.translator.history = pre' ++ run ++ post' → UntranRun run outline →
          pre'.length ≤ pre.length) →
        ∃ w, assembleEntry s.settings.labels u.snapshot text = some w ∧
          t.translator =
            { s.translator with
              history := pre ++
                { u with
                  kind := .word, text := w.text, spaceBefore := w.spaceBefore, paragraph := w.paragraph,
                  truncated := false, strokes := (u :: us).flatMap TextUnit.strokes,
                  marked := (u :: us).any TextUnit.marked, speaker := none, gap := none } :: post
              stale := true } ∧
          t.bus.queue = s.bus.queue ++ runFrames (fun official n => .replace official n w.text) u ++
            us.flatMap (runFrames .retract) ∧
          t.release = { s.release with holdTimer := t.release.holdTimer }

/-- R73, R74, R76 to R81, R83 on a text of literal characters and format codes. A text with characters is a WORD unit:
its characters stand as they are, but for the first letter, on which the last CAP or LOWER code before it, or else the
waiting mode, acts; ATTACH and PARA act by their place, GLUE in any place; a SPEAKER code among the leading ones makes
the unit the first of a paragraph behind its label, which alone may make the unit, or cut it at 120 characters. A text
without characters is a FORMAT unit that changes only what its codes set; commands alone make no unit. Model's choices:
behind a SPEAKER code CAP_NEXT is left unless a mode that a CAP or LOWER code set still stands at the end of the text
(log entry 14); a text of DEF_SEP or DEF_CLOSE alone makes no unit (log entry 16). -/
def Obligations.PlainTextAssembly : Prop :=
  ∀ (labels : List (List Byte)) (f : Formatting) (lead body trail : List Byte),
    (∀ b ∈ lead ++ trail, isFormatByte b = true) → (∀ b ∈ body, definable b = true ∨ isFormatByte b = true) →
    (body = [] → trail = []) → (∀ b, body.head? = some b ∨ body.getLast? = some b → definable b = true) →
    (literalBytes body).length ≤ 120 →
    let text := lead ++ body ++ trail
    (body ≠ [] → ∃ a, assembleEntry labels f text = some a ∧ a.kind = .word ∧ a.truncated = false ∧
      a.speaker = none ∧ a.paragraph = (f.paragraphStart || decide (0x04 ∈ lead)) ∧
      (a.spaceBefore = true ↔ a.paragraph = false ∧ f.attachNext = false ∧ 0x01 ∉ lead ∧
        ¬ (0x06 ∈ text ∧ f.glueLast = true)) ∧
      (∀ pre b post, text = pre ++ b :: post → (∀ c ∈ pre, isLetter c = false) → isLetter b = true →
        a.text = literalBytes pre ++ ((lastCase pre).getD f.cap).act b :: literalBytes post) ∧
      ((∀ b ∈ text, isLetter b = false) → a.text = literalBytes text) ∧
      a.after = ⟨a.after.cap, decide (0x01 ∈ trail), decide (0x06 ∈ text), f.speaker, decide (0x04 ∈ trail)⟩ ∧
      CapLeft .none f.cap a.after.cap text trail) ∧
    (body = [] → assembleEntry labels f text = some
      ⟨.format, [], false, false, false, none,
        ⟨(lastCase text).getD f.cap, f.attachNext || decide (0x01 ∈ text), f.glueLast || decide (0x06 ∈ text),
          f.speaker, f.paragraphStart || decide (0x04 ∈ text)⟩⟩) ∧
    (∀ (lead₁ lead₂ : List Byte) (n : Byte), lead = lead₁ ++ lead₂ → 1 ≤ n.toNat → n.toNat ≤ 15 →
      let label := literalBytes (labels.getD (n.toNat - 1) [])
      ∃ a, assembleEntry labels f (lead₁ ++ [0x05, n] ++ lead₂ ++ body ++ trail) = some a ∧
        a.speaker = some n.toNat ∧
        (body ≠ [] → ∃ a₀, assembleEntry labels f text = some a₀ ∧ a.kind = .word ∧
          a.text = (label ++ a₀.text).take 120 ∧ a.truncated = decide (120 < (label ++ a₀.text).length) ∧
          a.paragraph = true ∧ a.spaceBefore = false ∧
          a.after = { a₀.after with cap := a.after.cap, speaker := some n.toNat } ∧
          ((label ++ a₀.text).length ≤ 120 → CapLeft .capNext .capNext a.after.cap text trail)) ∧
        (body = [] → label ≠ [] → a =
          ⟨.word, label.take 120, false, true, decide (120 < label.length), some n.toNat,
            ⟨(lastCase text).getD .capNext, true, decide (0x06 ∈ text), some n.toNat, false⟩⟩) ∧
        (body = [] → label = [] → a =
          ⟨.format, [], false, false, false, some n.toNat,
            ⟨(lastCase text).getD .capNext, f.attachNext || decide (0x01 ∈ text),
              f.glueLast || decide (0x06 ∈ text), some n.toNat, true⟩⟩)) ∧
    ∀ commands : List Byte, commands ≠ [] → (∀ b ∈ commands, 0x08 ≤ b.toNat ∧ b.toNat ≤ 0x10) →
      assembleEntry labels f commands = none

/-! ### Release unit -/

/-- HOLD_BACK_TIMER_EXPIRY (R112 to R117): the oldest HELD unit, when due, is released: as TEXT with the next official
sequence, which becomes the known, as SHADOW with the next shadow sequence, or as a FORMAT unit with neither; a PENDING
one stays HELD. Units that are all due leave one behind another, each by its own act, and in DRAINING each is followed
by the drain check (R162); the timer is then set for the unit that is the oldest HELD. Model's choices: a release is
followed by the drain check (log entry 28); the time left passes with an expiry command or a scan (log entry 1); a
command whose event cannot come about changes nothing (log entry 5). -/
def Obligations.HoldBackReleasesOldestUnit : Prop :=
  (∀ (s : State) (n : Nat) (us : List TextUnit) (u : TextUnit), s.release.holdTimer = some n →
    s.translator.history = us ++ [u] → (∀ v ∈ us, v.released = true) → u.released = false →
    s.release.active = true → s.seq.phase = .run → s.floor.state ≠ .draining → s.bus.queue.length < 20 →
    (s.settings.holdBack : Int) ≤ (timeAfter s n - u.created).toInt →
    let official := match s.release.known with
      | none => 1
      | some k => if k = 4294967295 then 1 else k + 1
    let body := fun (seq : Word) (offRecord resumed : Bool) =>
      (⟨seq, u.number, u.start, u.spaceBefore, u.paragraph, u.marked, offRecord, u.truncated, u.gap, resumed, u.speaker,
        u.text⟩ : TextBody)
    ∃ t, exec .holdBackTimerExpiry s = .next t ∧
      (u.kind ≠ .format → u.stream = .official →
        t.translator.history = us ++ [{ u with released := true, seq := some official }] ∧
        t.release = { s.release with known := some official, holdTimer := none } ∧
        t.bus.queue = s.bus.queue ++ [waitingFrame (.text (body official false s.release.known.isNone)) none]) ∧
      (u.kind ≠ .format → u.stream = .shadow →
        t.translator.history = us ++ [{ u with released := true, seq := some s.release.nextShadow }] ∧
        t.release =
          { s.release with
            nextShadow := if s.release.nextShadow = 4294967295 then 1 else s.release.nextShadow + 1
            holdTimer := none } ∧
        t.bus.queue = s.bus.queue ++ [waitingFrame (.shadow (body s.release.nextShadow u.offRecord false)) none]) ∧
      (u.kind = .format → u.stream ≠ .pending →
        t.translator.history = us ++ [{ u with released := true, seq := none }] ∧
        t.release = { s.release with holdTimer := none } ∧ t.bus = (elapse n s).bus) ∧
      (u.stream = .pending → t.translator.history = s.translator.history ∧
        t.release = { s.release with holdTimer := none } ∧ t.bus = (elapse n s).bus) ∧
      t =
        { elapse n s with
          translator := { (elapse n s).translator with history := t.translator.history }
          release := t.release, bus := { (elapse n s).bus with queue := t.bus.queue } }) ∧
  (∀ (s : State) (n : Nat), s.release.holdTimer = some n →
    let e := elapse n s
    ∃ t, exec .holdBackTimerExpiry s = .next t ∧
      ReleaseCheck { e with release := { e.release with holdTimer := none } } t) ∧
  ∀ s : State, s.release.holdTimer = none → exec .holdBackTimerExpiry s = .next s

/-! ### Bus controller -/

/-- FRAME_SEND_START (R131, R141): on an idle bus the oldest waiting frame of the lowest class goes in flight, a
PRESENCE with the contents of this moment; where nothing may be sent nothing changes. Model's choices: a command whose
event cannot come about changes nothing (log entry 5); a frame in flight is the bits of its start (log entry 18). -/
def Obligations.ChosenFrameIsOldestOfLowestClass : Prop :=
  (∀ (s : State) (i : Nat) (f : TxFrame), s.seq.phase = .run → s.bus.follower = .idle → s.bus.inFlight = none →
    s.bus.queue[i]? = some f → f.sending = false →
    (∀ j g, s.bus.queue[j]? = some g → g.sending = false → f.cls < g.cls ∨ (f.cls = g.cls ∧ i ≤ j)) →
    let now : PresenceBody :=
      ⟨s.seq.clock, true, s.floor.state, s.release.recordOn, BitVec.ofNat 16 (s.notes.restartCount.getD 0),
        s.release.known.getD 0, s.status.flags⟩
    let said := match f.body with
      | .msg m => m
      | .presence => .presence now
    exec .frameSendStart s = .next
      { s with
        bus :=
          { s.bus with
            queue := s.bus.queue.set i { f with sending := true }
            inFlight := some (said.frame s.seq.addr f.dest), follower := .frame, recessive := 0 } }) ∧
  ∀ s : State, s.seq.phase ≠ .run ∨ s.bus.follower ≠ .idle ∨ s.bus.inFlight ≠ none ∨
    (∀ g ∈ s.bus.queue, g.sending = true) → exec .frameSendStart s = .next s

/-- ARBITRATION_LOST, TRANSMIT_ERROR, FRAME_SENT, BUS_STUCK and BUS_IDLE (R126, R132 to R134): the frame in flight
waits again, or leaves the queue with TX_ERROR, or leaves it completed, and a TEXT that leaves in DRAINING is followed
by the drain check (R162); after a mismatch the follower reads on, but a start bit read back recessive shows it no
start bit: it stays IDLE, its eleven recessive bits counted; a line dominant for more than 10 ms sets BUS_STUCK once in
a spell and takes the follower's footing; 11 recessive bits end the spell and make the bus idle. Model's choices: a
command whose event cannot come about changes nothing (log entry 5); a frame is one event at its end, read with its
footing (log entry 6); BUS_STUCK carries its ms and leaves a frame in flight (log entry 7); before the end of LOAD and
in FAULT the line is not followed (log entry 33); TRANSMIT_ERROR says whether the bit was the start bit (log entry 35).
-/
def Obligations.LineEventsEndFramesAndSpells : Prop :=
  ∀ s : State,
    let misread := fun startBit : Bool =>
      if startBit = true ∧ s.bus.follower = .frame then
        { s.bus with follower := .idle, recessive := 11, stuckTimer := 0 }
      else s.bus
    (s.bus.inFlight = none → exec .arbitrationLost s = .next s ∧
      (∀ startBit, exec (.transmitError startBit) s = .next s) ∧ exec .frameSent s = .next s) ∧
    (s.bus.inFlight ≠ none →
      exec .arbitrationLost s = .next
        { s with
          bus := { s.bus with inFlight := none, queue := s.bus.queue.map fun f => { f with sending := false } } } ∧
      (s.floor.state ≠ .draining ∨ (∀ f ∈ s.bus.queue, f.sending = true → f.kind ≠ .text) →
        (∀ startBit, exec (.transmitError startBit) s = .next
          { s with
            bus :=
              { misread startBit with inFlight := none, queue := s.bus.queue.filter fun f => !f.sending }
            status := (setFlag .txError s).status }) ∧
        exec .frameSent s = .next
          { s with
            bus :=
              { s.bus with
                inFlight := none, queue := s.bus.queue.filter fun f => !f.sending, follower := .waitIdle,
                recessive := 7, stuckTimer := 0 } }) ∧
      (s.floor.state = .draining → (∃ f ∈ s.bus.queue, f.sending = true ∧ f.kind = .text) →
        let queue := s.bus.queue.filter fun f => !f.sending
        (∀ startBit, ∃ t, exec (.transmitError startBit) s = .next t ∧
          DrainChecked
            { s with
              bus := { misread startBit with inFlight := none, queue := queue }
              status := (setFlag .txError s).status } t) ∧
        ∃ t, exec .frameSent s = .next t ∧
          DrainChecked
            { s with
              bus :=
                { s.bus with
                  inFlight := none, queue := queue, follower := .waitIdle, recessive := 7, stuckTimer := 0 } } t)) ∧
    (s.seq.phase = .scan ∨ s.seq.phase = .listen ∨ s.seq.phase = .run →
      (∀ ms, 10 < ms →
        exec (.busStuck ms) s = .next
          { s with
            bus := { s.bus with stuckTimer := ms, stuckSpell := true, follower := .waitIdle, recessive := 0 }
            status := if s.bus.stuckSpell then s.status else (setFlag .busStuck s).status }) ∧
      (s.bus.follower = .waitIdle →
        exec .busIdle s = .next
          { s with bus := { s.bus with follower := .idle, recessive := 11, stuckTimer := 0, stuckSpell := false } }) ∧
      (s.bus.follower ≠ .waitIdle → exec .busIdle s = .next s)) ∧
    (s.seq.phase = .reset ∨ s.seq.phase = .load ∨ s.seq.phase = .fault →
      (∀ ms, exec (.busStuck ms) s = .next s) ∧ exec .busIdle s = .next s)

/-- FRAME_DISCARDED, RETRACT, REPLACE and SHADOW (R126, R127, R135, R136): after the frame the follower waits for idle
bits; only a frame with its CRC right, all its end bits recessive and this station's own source address sets
ADDRESS_CLASH. Without a footing at the start bit nothing is read. Model's choices: a command whose event cannot come
about changes nothing (log entry 5); a frame is one event at its end, read with its footing (log entry 6). -/
def Obligations.FramesForNoBlockChangeNothing : Prop :=
  ∀ (s : State) (f : LineFrame) (c : Instr),
    c ∈ [.frameDiscarded f, .retractReceived f, .replaceReceived f, .shadowReceived f] →
    let whole := f.length.toNat ≤ 160 ∧ f.endBits = BitVec.allOnes 7
    let clash := whole ∧ f.payload.length = f.length.toNat ∧ f.crc = crc16 f.covered ∧ f.source = s.seq.addr
    (canReceive s = true → ∃ t, exec c s = .next t ∧
      (clash → t.status = (setFlag .addressClash s).status) ∧ (¬ clash → t.status = s.status) ∧
      (whole → t.bus = { s.bus with follower := .waitIdle, recessive := 7, stuckTimer := 0 }) ∧
      (¬ whole → t.bus = { s.bus with follower := .waitIdle, recessive := 0 }) ∧
      t = { s with bus := t.bus, status := t.status }) ∧
    (canReceive s = false → exec c s = .next s)

/-! ### The floor -/

/-- CLAIM_RECEIVED (R113, R118, R153, R156, R157), taken by the state of this station; its known is heard in every
state. A lost claim makes PENDING units SHADOW, and those that are due are then released. Model's choices: a frame is
one event at its end, read with its footing (log entry 6); a Held CLAIM heard in vacancy follows both rules (log entry
20); the Held reply carries the known that the same CLAIM has raised, and the release check follows a lost claim (log
entry 28). -/
def Obligations.ClaimIsTakenByState : Prop :=
  ∀ (s : State) (f : LineFrame) (a : Station) (known : Word) (held : Bool), Accepts s f a (.claim known held) →
    ∃ t m, exec (.claimReceived f) s = .next t ∧
      ReleasesWhere (s.seq.phase = .run ∧ s.floor.state = .claiming ∧ (held = true ∨ a < s.seq.addr)) s m t ∧
      m.release.known = raised s.release.known known ∧ OutsideFloor s m ∧
      (s.seq.phase ≠ .run → m.floor = if held then heldBy s a s.floor else s.floor) ∧
      (s.seq.phase = .run →
        (s.floor.state = .off → s.floor.holder = none → held = false →
          m.floor = { s.floor with claimWait := none, holdOff := some (holdOffMs s) }) ∧
        (s.floor.state = .off → s.floor.holder ≠ none → held = false → m.floor = s.floor) ∧
        (s.floor.state = .off → held = true →
          m.floor =
            { heldBy s a (if s.floor.holder = none then
                { s.floor with claimWait := none, holdOff := some (holdOffMs s) } else s.floor) with
              vacancyTimer := some (vacancyMs s) }) ∧
        (s.floor.state = .claiming → held = false → s.seq.addr < a → m.floor = s.floor ∧
          m.translator = s.translator) ∧
        (s.floor.state = .claiming → held = false → a < s.seq.addr →
          m.floor = { offRecord s with holdOff := some (holdOffMs s) } ∧
          m.translator.history = Restreamed .pending (fun _ => .shadow) s.translator.history) ∧
        (s.floor.state = .claiming → held = true →
          m.floor = { heldBy s a (offRecord s) with holdOff := some (holdOffMs s) } ∧
          m.translator.history = Restreamed .pending (fun _ => .shadow) s.translator.history) ∧
        (s.floor.state = .requesting → m.floor = if held then heldBy s a s.floor else s.floor) ∧
        (Holding s → s.bus.queue.length < 23 → ∃ more, m.bus.queue =
          s.bus.queue ++ waitingFrame (.claim ((raised s.release.known known).getD 0) true) none :: more) ∧
        (s.floor.state = .on ∨ s.floor.state = .yielding → m.floor = s.floor))

/-- R159: a RELIEF_REQ makes an ON station YIELDING with its sender as partner; the partner's own repetition is
ignored, another's is answered BUSY, and a station that does not hold the floor answers NOT_HOLDER. Before RUN it
changes nothing. Model's choices: a frame is one event at its end, read with its footing (log entry 6). -/
def Obligations.ReliefRequestIsAnswered : Prop :=
  ∀ (s : State) (f : LineFrame) (a : Station), Accepts s f a .reliefReq →
    ∃ t, exec (.reliefReqReceived f) s = .next t ∧ OutsideFloor s t ∧
      (s.seq.phase ≠ .run → t = frameEnded f s) ∧
      (s.seq.phase = .run →
        (s.floor.state = .on →
          t.floor =
            { s.floor with state := .yielding, partner := some a, yieldTimer := some (s.settings.yieldTime * 1000) } ∧
          t.bus.queue = s.bus.queue ∧ t.status = s.status.request .reliefAsked) ∧
        (s.floor.state = .yielding ∨ s.floor.state = .draining → s.floor.partner = some a → t = frameEnded f s) ∧
        (s.floor.state = .yielding → s.floor.partner ≠ some a →
          t.floor = s.floor ∧
          (RoomToSend s → t.bus.queue = s.bus.queue ++ [waitingFrame (.reliefBusy false) (some a)])) ∧
        (s.floor.state = .draining → s.floor.partner ≠ some a → s.bus.queue.length < 23 →
          ∃ more, t.bus.queue = s.bus.queue ++ waitingFrame (.reliefBusy false) (some a) :: more) ∧
        (¬ Holding s →
          t.floor = s.floor ∧
          (RoomToSend s → t.bus.queue = s.bus.queue ++ [waitingFrame (.reliefBusy true) (some a)])))

/-- RELIEF_BUSY_RECEIVED and RELIEF_TIMER_EXPIRY (R113, R165): in REQUESTING the partner's refusal, or the timer's end,
makes PENDING units SHADOW and the station OFF, with the flag of its cause; those units that are due are then released.
After NOT_HOLDER the holder is unknown and an active reporter's wait to claim begins. Elsewhere both are ignored.
Model's choices: the time left passes with an expiry command or a scan (log entry 1); a command whose event cannot come
about changes nothing (log entry 5); a frame is one event at its end, read with its footing (log entry 6); a
RELIEF_BUSY that R165 ignores moves no holder (log entry 21); the release check follows the stream change (log entry
28); a NOT_HOLDER that finds the holder absent already leaves vacancy to the vacancy timer (log entry 34). -/
def Obligations.ReliefRequestEnds : Prop :=
  (∀ (s : State) (f : LineFrame) (a : Station) (notHolder : Bool), Accepts s f a (.reliefBusy notHolder) →
    let ends := s.seq.phase = .run ∧ s.floor.state = .requesting ∧ s.floor.partner = some a
    ∃ t m, exec (.reliefBusyReceived f) s = .next t ∧ ReleasesWhere ends s m t ∧ OutsideFloor s m ∧
      (ends →
        m.translator.history = Restreamed .pending (fun _ => .shadow) s.translator.history ∧
        m.status.isSet .reliefRefused = true ∧
        (notHolder = true → s.floor.holder = some a →
          m.floor = waitStarted s { offRecord s with holder := none }) ∧
        (notHolder = false ∨ s.floor.holder ≠ some a → m.floor = offRecord s) ∧
        Noted s m (.floor false (s.release.known.getD 0))) ∧
      (¬ ends → t = frameEnded f s)) ∧
  (∀ (s : State) (n : Nat), s.seq.phase = .run → s.floor.state = .requesting → s.floor.reliefTimer = some n →
    let e := elapse n s
    ∃ t m, exec .reliefTimerExpiry s = .next t ∧ ThenReleases e m t ∧ m.floor = offRecord e ∧
      m.status.isSet .reliefTimeout = true ∧
      m.translator.history = Restreamed .pending (fun _ => .shadow) s.translator.history ∧
      Noted s m (.floor false (s.release.known.getD 0)) ∧ OutsideFloor e m) ∧
  ∀ s : State, s.seq.phase ≠ .run ∨ s.floor.state ≠ .requesting → exec .reliefTimerExpiry s = .next s

/-- PASS_RECEIVED naming this station (R113, R119, R147, R163): in OFF, CLAIMING and REQUESTING the cut is converted,
NO_OFFSET standing for a missing estimate, the known is set, PENDING units are split at the cut, and ON is entered; the
units that are due are then released, the first OFFICIAL one numbered from the known just set. A holding station takes
the known only, and before RUN the known holder is cleared besides. Model's choices: a frame is one event at its end,
read with its footing (log entry 6); a difference of exactly 2^31 is not higher (log entry 22); the release check
follows the stream change (log entry 28). -/
def Obligations.PassGivesTheFloor : Prop :=
  ∀ (s : State) (f : LineFrame) (a : Station) (known cut : Word), Accepts s f a (.pass s.seq.addr known cut) →
    ∃ t m, exec (.passReceived f) s = .next t ∧ ReleasesWhere (s.seq.phase = .run ∧ ¬ Holding s) s m t ∧
      OutsideFloor s m ∧
      (∀ k, s.release.known = some k → known ≠ 0 → 0 < (k - known).toInt → m.release.known = some k) ∧
      (∀ k, s.release.known = some k → known ≠ 0 → (k - known).toInt ≤ 0 → m.release.known = some known) ∧
      (s.release.known = none → known ≠ 0 → m.release.known = some known) ∧
      (known = 0 → m.release.known = s.release.known) ∧
      (s.seq.phase = .run → ¬ Holding s →
        let local_ := match (s.peers.record a).offset with
          | some e => cut - BitVec.ofInt 32 ((e + 8) / 16)
          | none => cut
        m.floor = onRecord s ∧
        m.translator.history =
          Restreamed .pending (fun u => if 0 < (u.start - local_).toInt then .official else .shadow)
            s.translator.history ∧
        ((s.peers.record a).offset = none → m.status.isSet .noOffset = true) ∧
        ((s.peers.record a).offset ≠ none → m.status.isSet .noOffset = s.status.isSet .noOffset) ∧
        Noted s m (.floor true (m.release.known.getD 0))) ∧
      (s.seq.phase = .run → Holding s → t.floor = s.floor ∧ t.translator = s.translator ∧ t.status = s.status) ∧
      (s.seq.phase ≠ .run → t.floor = { s.floor with holder := none } ∧ t.translator = s.translator)

/-- PASS_OTHER_RECEIVED and FLOOR_FREE_RECEIVED (R113, R118, R153, R154, R157, R164), taken by the state of this
station; units that a claim lost makes SHADOW are released where they are due. Before RUN and in CLAIMING a FLOOR_FREE
of the known holder clears it, and so it does in REQUESTING where the holder is not the partner. Model's choices: a
frame is one event at its end, read with its footing (log entry 6); a FLOOR_FREE of the partner in REQUESTING starts
the claim window (log entry 27), and the CLAIM carries the known that the frame has raised (log entry 28). -/
def Obligations.PassAndFreeMoveTheHolder : Prop :=
  (∀ (s : State) (f : LineFrame) (a target : Station) (known cut : Word), Accepts s f a (.pass target known cut) →
    target ≠ s.seq.addr →
    ∃ t m, exec (.passOtherReceived f) s = .next t ∧
      ReleasesWhere (s.seq.phase = .run ∧ s.floor.state = .claiming) s m t ∧
      m.release.known = raised s.release.known known ∧ OutsideFloor s m ∧
      (s.seq.phase ≠ .run → m.floor = heldBy s target s.floor) ∧
      (s.seq.phase = .run →
        (s.floor.state = .off → m.floor = { heldBy s target s.floor with vacancyTimer := some (vacancyMs s) }) ∧
        (s.floor.state = .claiming → m.floor = heldBy s target (offRecord s) ∧
          m.translator.history = Restreamed .pending (fun _ => .shadow) s.translator.history ∧
          Noted s m (.floor false ((raised s.release.known known).getD 0))) ∧
        (s.floor.state = .requesting → s.floor.partner = some target →
          m.floor = heldBy s target s.floor ∧ m.bus.queue = s.bus.queue) ∧
        (s.floor.state = .requesting → s.floor.partner ≠ some target →
          m.floor = { heldBy s target s.floor with partner := some target } ∧
          (s.bus.queue.length < 24 → m.bus.queue = s.bus.queue ++ [waitingFrame .reliefReq (some target)])) ∧
        (Holding s → m.floor = s.floor)) ∧
      (s.floor.state ≠ .claiming ∨ s.seq.phase ≠ .run → m.translator = s.translator)) ∧
  ∀ (s : State) (f : LineFrame) (a : Station) (known : Word), Accepts s f a (.floorFree known) →
    let cleared := if s.floor.holder = some a then { s.floor with holder := none } else s.floor
    ∃ t, exec (.floorFreeReceived f) s = .next t ∧ t.release.known = raised s.release.known known ∧ OutsideFloor s t ∧
      t.translator = s.translator ∧
      (s.seq.phase ≠ .run → t.floor = cleared ∧ t.bus.queue = s.bus.queue) ∧
      (s.seq.phase = .run →
        (s.floor.state = .off → s.floor.holder = some a →
          t.floor = waitStarted s { s.floor with holder := none } ∧ t.bus.queue = s.bus.queue) ∧
        (s.floor.state = .off → s.floor.holder ≠ some a → t.floor = s.floor ∧ t.bus.queue = s.bus.queue) ∧
        (s.floor.state = .claiming → t.floor = cleared ∧ t.bus.queue = s.bus.queue) ∧
        (s.floor.state = .requesting → s.floor.partner ≠ some a → t.floor = cleared ∧ t.bus.queue = s.bus.queue) ∧
        (s.floor.state = .requesting → s.floor.partner = some a →
          t.floor =
            { s.floor with
              state := .claiming, holder := none, partner := none, reliefTimer := none,
              claimWindow := some s.settings.claimWindow, vacancyTimer := none } ∧
          (s.bus.queue.length < 24 → t.bus.queue =
            s.bus.queue ++ [waitingFrame (.claim ((raised s.release.known known).getD 0) false) none])) ∧
        (Holding s → t.floor = s.floor ∧ t.bus.queue = s.bus.queue))

/-- VACANCY_TIMER_EXPIRY, CLAIM_WAIT_END, CLAIM_HOLD_OFF_END and the RELIEF command (R153 to R156, R158): the holder
shown in the peer table stays or vacancy is found; a wait that ends in vacancy hands a CLAIM and opens the window; the
end of the hold-off finds vacancy anew. RELIEF in OFF ends the withdrawal: with another station as known holder that
station is asked, in vacancy the station claims at once; elsewhere it is ignored. The vacancy timer runs only in OFF. A
stopped timer does nothing. Model's choices: the time left passes with an expiry command or a scan (log entry 1); a
command whose event cannot come about changes nothing (log entry 5). -/
def Obligations.VacancyLeadsToClaim : Prop :=
  (∀ (s : State) (n : Nat), s.seq.phase = .run → s.floor.state = .off → s.floor.vacancyTimer = some n →
    let e := elapse n s
    let shown := fun (h : Nat) => ∃ p, s.peers.table[h]? = some p ∧ p.present = true ∧ p.kind = some .writer ∧
      (p.floor = some .on ∨ p.floor = some .yielding ∨ p.floor = some .draining)
    ∃ t, exec .vacancyTimerExpiry s = .next t ∧
      (∀ h < 16, shown h → (∀ j < h, ¬ shown j) →
        t.floor = { heldBy s (BitVec.ofNat 4 h) e.floor with vacancyTimer := some (vacancyMs s) }) ∧
      ((∀ h, ¬ shown h) →
        t.floor = { waitStarted e { e.floor with holder := none } with vacancyTimer := some (vacancyMs s) }) ∧
      t = { e with floor := t.floor }) ∧
  (∀ (s : State) (n : Nat), s.seq.phase = .run → s.floor.claimWait = some n →
    let e := elapse n s
    ∃ t, exec .claimWaitEnd s = .next t ∧
      (s.floor.state = .off → s.floor.holder = none →
        t.floor =
          { e.floor with
            claimWait := none, state := .claiming, claimWindow := some s.settings.claimWindow, vacancyTimer := none } ∧
        (s.bus.queue.length < 24 →
          t = { e with
            floor := t.floor
            bus := { e.bus with
              queue := s.bus.queue ++ [waitingFrame (.claim (s.release.known.getD 0) false) none] } })) ∧
      (s.floor.state ≠ .off ∨ s.floor.holder ≠ none → t = { e with floor := { e.floor with claimWait := none } })) ∧
  (∀ (s : State) (n : Nat), s.seq.phase = .run → s.floor.holdOff = some n →
    let e := elapse n s
    ∃ t, exec .claimHoldOffEnd s = .next t ∧ t = { e with floor := t.floor } ∧
      (s.floor.state = .off → s.floor.holder = none → t.floor = waitStarted e { e.floor with holdOff := none }) ∧
      (s.floor.state ≠ .off ∨ s.floor.holder ≠ none → t.floor = { e.floor with holdOff := none })) ∧
  (∀ (s : State) (strokes : List Word) (start : Word),
    let t := assembleAndHand [0x0B] strokes start s
    (∀ h, s.seq.phase = .run → s.floor.state = .off → s.floor.holder = some h → h ≠ s.seq.addr →
      t = { s with
        floor :=
          { s.floor with
            state := .requesting, withdrawn := false, partner := some h,
            reliefTimer := some (s.settings.relief * 1000), vacancyTimer := none }
        bus := t.bus, status := t.status } ∧
      (s.bus.queue.length < 24 →
        t.bus = { s.bus with queue := s.bus.queue ++ [waitingFrame .reliefReq (some h)] } ∧ t.status = s.status)) ∧
    (s.seq.phase = .run → s.floor.state = .off → s.floor.holder = none →
      t = { s with
        floor :=
          { s.floor with
            state := .claiming, withdrawn := false, claimWait := none, holdOff := none,
            claimWindow := some s.settings.claimWindow, vacancyTimer := none }
        bus := t.bus, status := t.status } ∧
      (s.bus.queue.length < 24 →
        t.bus = { s.bus with queue := s.bus.queue ++ [waitingFrame (.claim (s.release.known.getD 0) false) none] } ∧
          t.status = s.status)) ∧
    (s.seq.phase ≠ .run ∨ s.floor.state ≠ .off ∨ s.floor.holder = some s.seq.addr → t = s)) ∧
  ∀ s : State,
    (s.floor.vacancyTimer = none → exec .vacancyTimerExpiry s = .next s) ∧
    (s.floor.claimWait = none → exec .claimWaitEnd s = .next s) ∧
    (s.floor.holdOff = none → exec .claimHoldOffEnd s = .next s)

/-- CLAIM_WINDOW_EXPIRY (R113, R152, R157): an unlost claim makes PENDING units OFFICIAL and the station ON, with its
FLOOR note and its pattern; the units that are due are then released. Model's choices: the time left passes with an
expiry command or a scan (log entry 1); a command whose event cannot come about changes nothing (log entry 5); the
release check follows the stream change (log entry 28). -/
def Obligations.ClaimWindowWinsTheFloor : Prop :=
  (∀ (s : State) (n : Nat), s.seq.phase = .run → s.floor.state = .claiming → s.floor.claimWindow = some n →
    let e := elapse n s
    ∃ t m, exec .claimWindowExpiry s = .next t ∧ ThenReleases e m t ∧ m.floor = onRecord e ∧
      m.translator.history = Restreamed .pending (fun _ => .official) s.translator.history ∧
      Noted s m (.floor true (s.release.known.getD 0)) ∧
      (RoomForNotes s 8 → s.notes.opened = true → m.status = e.status.request .floorGained) ∧
      m.release = e.release ∧ m.bus = e.bus ∧ OutsideFloor e m) ∧
  ∀ s : State, s.seq.phase ≠ .run ∨ s.floor.state ≠ .claiming ∨ s.floor.claimWindow = none →
    exec .claimWindowExpiry s = .next s

/-- YIELD_TIMER_EXPIRY, the YIELD and FREE commands and the auto-cut (R160 to R162): the cut is the start time of the
newest OFFICIAL unit, else the local time; the station drains; with no OFFICIAL unit HELD and no TEXT in the queue it
hands PASS to its partner, or FLOOR_FREE, and is OFF at once. YIELD, and with auto-cut a unit created with a speaker,
cut in YIELDING; FREE cuts in ON, for no partner; elsewhere they change nothing. Model's choices: the time left passes
with an expiry command or a scan (log entry 1); a command whose event cannot come about changes nothing (log entry 5).
-/
def Obligations.CutDrainsTheFloor : Prop :=
  (∀ (s : State) (n : Nat), s.seq.phase = .run → s.floor.state = .yielding → s.floor.yieldTimer = some n →
    ∃ t, exec .yieldTimerExpiry s = .next t ∧ CutMade (elapse n s) t s.floor.partner) ∧
  (∀ s : State, s.seq.phase ≠ .run ∨ s.floor.state ≠ .yielding ∨ s.floor.yieldTimer = none →
    exec .yieldTimerExpiry s = .next s) ∧
  (∀ (s : State) (strokes : List Word) (start : Word),
    (s.seq.phase = .run → s.floor.state = .yielding →
      CutMade s (assembleAndHand [0x0C] strokes start s) s.floor.partner) ∧
    (s.seq.phase ≠ .run ∨ s.floor.state ≠ .yielding → assembleAndHand [0x0C] strokes start s = s) ∧
    (s.seq.phase = .run → s.floor.state = .on → CutMade s (assembleAndHand [0x0D] strokes start s) none) ∧
    (s.seq.phase ≠ .run ∨ s.floor.state ≠ .on → assembleAndHand [0x0D] strokes start s = s)) ∧
  ∀ (s : State) (u : TextUnit) (n : Nat), u.kind ≠ .untran →
    (u.speaker = some n → s.settings.autoCut = true → s.floor.state = .yielding →
      CutMade s (reportUnit u s) s.floor.partner) ∧
    (u.speaker = none ∨ s.settings.autoCut = false ∨ s.floor.state ≠ .yielding → reportUnit u s = s)

/-! ### Records, flags, text and definitions from the bus -/

/-- R122, R123: an accepted RECORD sets the record state, which PRESENCE frames then carry; a change hands a RECORD
note with the sender as source, and a frame that names the state held hands none. An own REC_OFF or REC_ON does the
same with this station as source, so the later of the two stands and each change hands its own note; in RUN it hands a
RECORD frame, class 1, broadcast, with the value named, whether or not the state changed, and elsewhere none. Model's
choices: a frame is one event at its end, read with its footing (log entry 6). -/
def Obligations.RecordFrameSetsRecordState : Prop :=
  (∀ (s : State) (f : LineFrame) (a : Station) (on : Bool), Accepts s f a (.record on) →
    ∃ t, exec (.recordReceived f) s = .next t ∧ t.release = { s.release with recordOn := on } ∧
      (s.release.recordOn ≠ on → Noted s t (.record on a) ∧ t.notes = (handNote (.record on a) s).notes) ∧
      (s.release.recordOn = on → t.notes = s.notes ∧ t.status = s.status) ∧ (presenceBody t).recordOn = on ∧
      (t.translator, t.floor, t.inbox, t.peers, t.port.ramMem, t.bus.queue) =
        (s.translator, s.floor, s.inbox, s.peers, s.port.ramMem, s.bus.queue) ∧ OutsideFrame s t) ∧
  ∀ (s : State) (on : Bool) (strokes : List Word) (start : Word), s.floor.state ≠ .draining →
    let t := assembleAndHand [if on then 0x0F else 0x0E] strokes start s
    t.release = { s.release with recordOn := on } ∧
      (s.release.recordOn ≠ on → t.notes = (handNote (.record on s.seq.addr) s).notes) ∧
      (s.release.recordOn = on → t.notes = s.notes) ∧
      (RoomToSend s → t.bus = { s.bus with queue := s.bus.queue ++ [waitingFrame (.record on) none] }) ∧
      (s.seq.phase ≠ .run → t.bus = s.bus) ∧ (waitingFrame (.record on) none).cls = 1 ∧
      (t.translator, t.floor, t.inbox, t.peers, t.port.ramMem) =
        (s.translator, s.floor, s.inbox, s.peers, s.port.ramMem) ∧ OutsideFrame s t

/-- R178: a CLEAR clears each flag position in use that it names and no other, and ACK clears all of them; neither
changes anything of a flag's owner, and ATTN follows the flags that are left. Model's choices: a frame is one event at
its end, read with its footing (log entry 6). -/
def Obligations.ClearFrameClearsNamedFlags : Prop :=
  (∀ (s : State) (f : LineFrame) (a : Station) (named : Word), Accepts s f a (.clear named) →
    ∃ t, exec (.clearReceived f) s = .next t ∧
      (∀ p < 22, t.status.flags.getLsbD p = (s.status.flags.getLsbD p && !named.getLsbD p)) ∧
      (∀ p, 22 ≤ p → p < 32 → t.status.flags.getLsbD p = s.status.flags.getLsbD p) ∧
      (attnDriven t = true ↔ ∃ p < 32, t.status.flags.getLsbD p = true ∧ s.status.mask.getLsbD p = true) ∧
      t = { frameEnded f s with status := { s.status with flags := t.status.flags } }) ∧
  ∀ s : State, runCommand s .ack = { s with status := { s.status with flags := 0 } } ∧
    (attnDriven (runCommand s .ack) = true ↔ s.seq.phase = .fault)

/-- TEXT_RECEIVED (R113, R118, R153, R154, R157, R167): the sequence raises the known; a station off the floor learns
the holder, a claimant loses its claim; of two holders the higher address leaves the floor with FLOOR_CONFLICT. Units
that become SHADOW by either are then released where they are due. Model's choices: a frame is one event at its end,
read with its footing (log entry 6); the FLOOR note carries the known that the same TEXT has raised (log entry 28). -/
def Obligations.TextRaisesKnownAndSettlesConflict : Prop :=
  ∀ (s : State) (f : LineFrame) (a : Station) (body : TextBody), Accepts s f a (.text body) →
    ∃ t m, exec (.textReceived f) s = .next t ∧
      ReleasesWhere (s.seq.phase = .run ∧ (s.floor.state = .claiming ∨ (Holding s ∧ a < s.seq.addr))) s m t ∧
      m.release.known = raised s.release.known body.seq ∧ OutsideFloor s m ∧
      (s.seq.phase ≠ .run → m.floor = heldBy s a s.floor) ∧
      (s.seq.phase = .run →
        (s.floor.state = .off → m.floor = { heldBy s a s.floor with vacancyTimer := some (vacancyMs s) }) ∧
        (s.floor.state = .requesting → m.floor = heldBy s a s.floor) ∧
        (s.floor.state = .claiming → m.floor = heldBy s a (offRecord s) ∧
          m.translator.history = Restreamed .pending (fun _ => .shadow) s.translator.history) ∧
        (Holding s → s.seq.addr < a →
          m.floor = s.floor ∧ m.translator = s.translator ∧ m.status = s.status ∧ m.bus.queue = s.bus.queue) ∧
        (Holding s → a < s.seq.addr →
          m.floor = heldBy s a (offRecord s) ∧ m.status.isSet .floorConflict = true ∧
          m.translator.history = Restreamed .official (fun _ => .shadow) s.translator.history ∧
          Noted s m (.floor false ((raised s.release.known body.seq).getD 0)) ∧
          (∀ p, s.floor.partner = some p → s.bus.queue.length < 24 →
            m.bus.queue = s.bus.queue ++ [waitingFrame (.reliefBusy true) (some p)]) ∧
          (s.floor.partner = none → m.bus.queue = s.bus.queue)))

/-- DEFINE_RECEIVED (R99, R148), the checks in their order: a disabled sender is ignored; a malformed frame disables
its sender with PEER_DEF_BAD; without RAM OVERLAY_FULL is set; during a lookup, or behind others, the frame waits in
the inbox, or is dropped with OVERLAY_FULL when four wait; otherwise it is applied. A delete (R93, R97, R98) acts on an
outline with text only: its slot takes the deleted value, or with longer outlines its entry becomes CONT; the prefix
count of each prefix goes down by 1 with its kind following, one without text left at 0 giving up its slot; the header
counts follow, nothing else in RAM changes, the note is handed and the stale mark set. Model's choices: a frame is one
event at its end, read with its footing (log entry 6). -/
def Obligations.DefineArrivalIsChecked : Prop :=
  (∀ (s : State) (f : LineFrame) (a : Station) (payload : List Byte), Accepts s f a (.define payload) →
    s.peers.table.length = 16 →
    let enabled := (s.peers.record a).definitionsEnabled
    let busy := s.lookup.search ≠ none ∨ s.inbox ≠ []
    let e := frameEnded f s
    ∃ t, exec (.defineReceived f) s = .next t ∧ OutsideFrame s t ∧
      (enabled = false → t = e) ∧
      (enabled = true → parseDefine payload = none →
        (t.peers.record a) = { s.peers.record a with definitionsEnabled := false } ∧
        (∀ b, b ≠ a → t.peers.record b = s.peers.record b) ∧
        t = { e with peers := t.peers, status := (setFlag .peerDefBad s).status }) ∧
      ∀ outline text, enabled = true → parseDefine payload = some (outline, text) →
        (s.seq.ramFit = false → t = { e with status := (setFlag .overlayFull s).status }) ∧
        (s.seq.ramFit = true → busy → s.inbox.length < 4 →
          t = { e with inbox := s.inbox ++ [⟨a, outline, text⟩] }) ∧
        (s.seq.ramFit = true → busy → 4 ≤ s.inbox.length →
          t = { e with status := (setFlag .overlayFull s).status }) ∧
        (s.seq.ramFit = true → ¬ busy → t = applyPeer ⟨a, outline, text⟩ e)) ∧
  ∀ (s : State) (f : LineFrame) (a : Station) (r : Region) (outline : List KeySet) (used live deleted : Nat),
    DefineApplies s f a outline [] → OverlayStands s r used live deleted → HeapSound s r used →
    let prefixes := properPrefixes outline
    let stands := fun p j w kp tp cp => findOutline s p [] = .entry j w ∧ EntryStands s r used w kp p tp cp
    ∃ t, exec (.defineReceived f) s = .next t ∧
      ((∀ i v, findOutline s outline [] ≠ .entry i v) ∨
        (∃ i v text count, findOutline s outline [] = .entry i v ∧ EntryStands s r used v .cont outline text count) →
        t = frameEnded f s) ∧
      ∀ i v k text count, findOutline s outline [] = .entry i v → EntryStands s r used v k outline text count →
        k ≠ .cont → (∀ p ∈ prefixes, ∃ j w kp tp cp, stands p j w kp tp cp ∧ 1 ≤ cp) →
        let freed := (if count = 0 then 1 else 0) + prefixes.countP fun p => match findOutline s p [] with
          | .entry _ w => prefixCount s w == 1 && !entryHasText s w
          | .absent _ => false
        freed ≤ live →
        OverlayStands t r used (live - freed) (deleted + freed) ∧
        (count = 0 → slotHolds t r i = 0xFFFFFFFE) ∧
        (1 ≤ count → slotHolds t r i = v ∧ EntryStands t r used v .cont outline text count) ∧
        (∀ p ∈ prefixes, ∀ j w kp tp cp, stands p j w kp tp cp →
          (cp = 1 → kp = .cont → slotHolds t r j = 0xFFFFFFFE) ∧
          (2 ≤ cp ∨ kp ≠ .cont → slotHolds t r j = w ∧
            EntryStands t r used w (if kp = .cont then .cont else if cp = 1 then .word else .wordCont) p tp (cp - 1))) ∧
        (∀ x, ¬ (r.base ≤ x ∧ x < r.base + 16) → ¬ (slotPlace r i ≤ x ∧ x < slotPlace r i + 4) →
          ¬ (heapPlace s r v ≤ x ∧ x < heapPlace s r v + entrySpan outline text) →
          (∀ p ∈ prefixes, ∀ j w kp tp cp, stands p j w kp tp cp →
            ¬ (slotPlace r j ≤ x ∧ x < slotPlace r j + 4) ∧
            ¬ (heapPlace s r w ≤ x ∧ x < heapPlace s r w + entrySpan p tp)) →
          Memory.read t.port.ramMem x = Memory.read s.port.ramMem x) ∧
        Noted s t (.define false (outline.headD 0) (outlineHash outline) outline.length a) ∧
        t.translator = { s.translator with stale := true } ∧ OutsideFrame s t ∧
        (t.release, t.floor, t.peers, t.inbox) = (s.release, s.floor, s.peers, s.inbox)

/-- A definition applied at once (R90, R93 to R96, R98): it is refused with OVERLAY_FULL, nothing else changed, where
the slots, the heap, a prefix count of 255 or a free slot in reach are wanting. Otherwise each missing prefix gets a
CONT entry, shortest first, then the outline its new entry, which keeps the prefix count of the one it replaces; each
free slot found, or the slot of the replaced entry, takes the new offset. Where the outline had no text every prefix
count goes up by 1, with its kind following; the header counts follow, and nothing else in RAM changes. The DEFINE note
is handed and the stale mark set. Model's choices: a frame is one event at its end, read with its footing (log entry
6). -/
def Obligations.DefineIsStoredInTheOverlay : Prop :=
  ∀ (s : State) (f : LineFrame) (a : Station) (r : Region) (outline : List KeySet) (text : List Byte)
    (used live deleted : Nat) (prefixes : List (List KeySet × Found)) (own : Found),
    DefineApplies s f a outline text → text ≠ [] → OverlayStands s r used live deleted → HeapSound s r used →
    storePlan s outline = prefixes ++ [(outline, own)] →
    let stood := fun v k o t c => EntryStands s r used v k o t c
    let had := ∃ i v k t c, own = .entry i v ∧ stood v k outline t c ∧ k ≠ .cont
    let taken := slotsTaken (prefixes ++ [(outline, own)])
    let place := used + prefixBytes prefixes
    let fits := live + deleted + (prefixes ++ [(outline, own)]).countP (fun p => p.2.isAbsent) ≤
        2 ^ s.settings.overlayLog2 * 3 / 4 ∧
      place + entrySpan outline text ≤ s.settings.overlayHeap * 1024 ∧
      (had ∨ ∀ p i v k t c, (p, Found.entry i v) ∈ prefixes → stood v k p t c → c < 255) ∧
      ∀ p, (p, Found.absent none) ∉ prefixes ++ [(outline, own)]
    (∀ p ∈ prefixes, ∀ i v, p.2 = .entry i v → ∃ k t c, stood v k p.1 t c) →
    (∀ i v, own = .entry i v → ∃ k t c, stood v k outline t c) →
    ∃ t, exec (.defineReceived f) s = .next t ∧
      (¬ fits → t = { frameEnded f s with status := (setFlag .overlayFull s).status }) ∧
      (fits →
        let more := fun c => (had → c = 0) ∧ (¬ had → c = 1)
        let new := place + entrySpan outline text
        OverlayStands t r new (live + (prefixes ++ [(outline, own)]).countP (fun p => p.2.isAbsent))
          (deleted - taken.countP (fun i => slotHolds s r i == 0xFFFFFFFE)) ∧
        (∀ before p i after, prefixes = before ++ (p, Found.absent (some i)) :: after →
          slotHolds t r i = used + prefixBytes before ∧
            ∀ c, more c → EntryStands t r new (used + prefixBytes before) .cont p [] c) ∧
        (∀ p i v k t₀ c, (p, Found.entry i v) ∈ prefixes → stood v k p t₀ c →
          slotHolds t r i = v ∧ (had → EntryStands t r new v k p t₀ c) ∧
            (¬ had → EntryStands t r new v (if k = .cont then .cont else .wordCont) p t₀ (c + 1))) ∧
        (∀ i, own = .absent (some i) → slotHolds t r i = place ∧ EntryStands t r new place .word outline text 0) ∧
        (∀ i v k t₀ c, own = .entry i v → stood v k outline t₀ c →
          slotHolds t r i = place ∧ EntryStands t r new place (if c = 0 then .word else .wordCont) outline text c) ∧
        (∀ x, ¬ (r.base ≤ x ∧ x < r.base + 16) →
          (∀ i, i ∈ taken ∨ (∃ v, own = .entry i v) → ¬ (slotPlace r i ≤ x ∧ x < slotPlace r i + 4)) →
          (∀ p i v k t₀ c, (p, Found.entry i v) ∈ prefixes → stood v k p t₀ c →
            ¬ (heapPlace s r v ≤ x ∧ x < heapPlace s r v + entrySpan p t₀)) →
          ¬ (heapPlace s r used ≤ x ∧ x < heapPlace s r new) →
          Memory.read t.port.ramMem x = Memory.read s.port.ramMem x) ∧
        t.translator.stale = true ∧ OutsideFrame s t ∧ (t.peers, t.inbox) = (s.peers, s.inbox) ∧
        ((∀ u ∈ s.translator.history, u.kind ≠ .untran) →
          Noted s t (.define true (outline.headD 0) (outlineHash outline) outline.length a) ∧
          t.translator = { s.translator with stale := true } ∧ (t.release, t.floor) = (s.release, s.floor)))

/-! ### Peers -/

/-- PRESENCE_RECEIVED (R113, R118, R142, R143, R146, R153, R154, R157, R167): the sender's record takes the frame, a
changed restart count clearing the estimate and enabling definitions first; the estimate takes a first sample, slews by
at most 16 or steps; the known is raised. A holding sender becomes the known holder of a station off the floor, takes
its claim from a claimant, and of two holders the higher address leaves the floor with FLOOR_CONFLICT; units that
become SHADOW by either are then released where they are due. Model's choices: a frame is one event at its end, read
with its footing (log entry 6); the FLOOR note carries the known that the same frame has raised (log entry 28). -/
def Obligations.PresenceUpdatesPeerRecord : Prop :=
  ∀ (s : State) (f : LineFrame) (a : Station) (b : PresenceBody), Accepts s f a (.presence b) →
    s.peers.table.length = 16 →
    let old := s.peers.record a
    let heard := s.seq.clock - BitVec.ofNat 32 f.age
    let d := (b.time - heard).toInt
    let changed := b.restart ≠ 0 ∧ ∃ count, old.restart = some count ∧ count ≠ b.restart
    let holds := b.floor = .on ∨ b.floor = .yielding ∨ b.floor = .draining
    ∃ t m, exec (.presenceReceived f) s = .next t ∧
      ReleasesWhere
        (holds ∧ s.seq.phase = .run ∧ (s.floor.state = .claiming ∨ (Holding s ∧ a < s.seq.addr))) s m t ∧
      OutsideFrame s m ∧ t.peers = m.peers ∧
      (t.peers.record a).present = true ∧ (t.peers.record a).lastHeard = some heard ∧
      (t.peers.record a).kind = some (if b.writer then .writer else .display) ∧
      (t.peers.record a).floor = some b.floor ∧
      (t.peers.record a).restart = (if b.restart = 0 then old.restart else some b.restart) ∧
      (changed → (t.peers.record a).offset = some (16 * d) ∧ (t.peers.record a).definitionsEnabled = true) ∧
      (¬ changed → (t.peers.record a).definitionsEnabled = old.definitionsEnabled ∧
        (old.offset = none → (t.peers.record a).offset = some (16 * d)) ∧
        ∀ e, old.offset = some e →
          (8000 < |16 * d - e| → (t.peers.record a).offset = some (16 * d)) ∧
          (|16 * d - e| ≤ 8000 → -(2 ^ 35) ≤ e → e < 2 ^ 35 →
            (t.peers.record a).offset =
              some (max (-(2 ^ 35)) (min (2 ^ 35 - 1) (e + max (-16) (min 16 ((16 * d - e) / 8))))))) ∧
      (∀ c, c ≠ a → t.peers.record c = s.peers.record c) ∧ t.peers.timer = s.peers.timer ∧
      m.release.known = raised s.release.known b.known ∧
      (b.floor = .off ∨ b.floor = .claiming ∨ b.floor = .requesting →
        m.floor = s.floor ∧ m.translator = s.translator) ∧
      (holds →
        (s.seq.phase ≠ .run ∨ s.floor.state = .requesting → m.floor = heldBy s a s.floor) ∧
        (s.seq.phase = .run → s.floor.state = .off →
          m.floor = { heldBy s a s.floor with vacancyTimer := some (vacancyMs s) }) ∧
        (s.seq.phase = .run → s.floor.state = .claiming →
          m.floor = heldBy s a (offRecord s) ∧
          m.translator.history = Restreamed .pending (fun _ => .shadow) s.translator.history ∧
          Noted s m (.floor false ((raised s.release.known b.known).getD 0))) ∧
        (s.seq.phase = .run → Holding s → s.seq.addr < a →
          m.floor = s.floor ∧ m.translator = s.translator ∧ m.status = s.status ∧ m.bus.queue = s.bus.queue) ∧
        (s.seq.phase = .run → Holding s → a < s.seq.addr →
          m.floor = heldBy s a (offRecord s) ∧ m.status.isSet .floorConflict = true ∧
          m.translator.history = Restreamed .official (fun _ => .shadow) s.translator.history ∧
          Noted s m (.floor false ((raised s.release.known b.known).getD 0)) ∧
          (∀ p, s.floor.partner = some p → s.bus.queue.length < 24 →
            m.bus.queue = s.bus.queue ++ [waitingFrame (.reliefBusy true) (some p)]) ∧
          (s.floor.partner = none → m.bus.queue = s.bus.queue)))

/-- PRESENCE_TIMER_EXPIRY (R140, R144, R153, R166, R176), with no peer silent for *loss* periods: the timer restarts;
in RUN a PRESENCE is handed unless one waits; in LISTEN expiries are counted, and the second enters RUN, where release
becomes active and the units that are due are released (R120), a PRESENCE is handed and the vacancy timer starts. A
silent peer's record is cleared but for restart count and definitions enabled, and its absence acts on the floor by the
state: the known holder is cleared, a requester whose partner it was claims at once with its PENDING units kept, a
yielding station is ON again with no note and no pattern, a draining one drains for nobody. Model's choices: the time
left passes with an expiry command or a scan (log entry 1); a command whose event cannot come about changes nothing
(log entry 5); the acts at the entry to RUN in the order of R176 (log entry 23); an absent known holder is cleared in
CLAIMING and REQUESTING too (log entry 26); a claim from REQUESTING starts the claim window (log entry 27). -/
def Obligations.PresencePeriodDrivesListenAndRun : Prop :=
  (∀ (s : State) (n : Nat), s.peers.timer = some n →
    let e := elapse n s
    (∀ a : Station, (s.peers.record a).silent e.seq.clock (s.settings.loss * s.settings.presence) = false) →
    ∃ t, exec .presenceTimerExpiry s = .next t ∧
      t.peers = { s.peers with timer := some s.settings.presence } ∧
      (s.seq.phase = .run → (∀ g ∈ s.bus.queue, g.kind ≠ .presence) → s.bus.queue.length < 20 →
        t = { e with peers := t.peers, bus := { e.bus with queue := s.bus.queue ++ [⟨.presence, none, false⟩] } }) ∧
      (s.seq.phase = .run → (∃ g ∈ s.bus.queue, g.kind = .presence ∧ g.sending = false) →
        t = { e with peers := t.peers }) ∧
      (s.seq.phase = .listen → s.seq.listenExpiries = 0 →
        t = { e with peers := t.peers, seq := { e.seq with listenExpiries := 1 } }) ∧
      (s.seq.phase = .listen → s.seq.listenExpiries = 1 → s.bus.queue = [] → s.floor.state = .off →
        NothingDue e →
        t.seq = { e.seq with phase := .run, listenExpiries := 2 } ∧ t.release.active = true ∧
        t.bus.queue = [⟨.presence, none, false⟩] ∧ t.floor.vacancyTimer = some (vacancyMs s) ∧
        (s.floor.holder ≠ none → t.floor = { e.floor with vacancyTimer := some (vacancyMs s) }) ∧
        (s.floor.holder = none →
          t.floor = waitStarted e { e.floor with vacancyTimer := some (vacancyMs s) })) ∧
      (s.seq.phase = .listen → s.seq.listenExpiries = 1 → s.floor.state = .off → ∃ m,
        ReleaseCheck
          { e with
            seq := { e.seq with phase := .run, listenExpiries := 2 }
            peers := t.peers, release := { e.release with active := true } } m ∧
        t.translator = m.translator ∧ t.release = m.release ∧
        ((∀ g ∈ m.bus.queue, g.kind ≠ .presence) → m.bus.queue.length < 20 →
          t.bus.queue = m.bus.queue ++ [⟨.presence, none, false⟩]))) ∧
  (∀ (s : State) (n : Nat) (a : Station), s.peers.timer = some n → s.peers.table.length = 16 →
    (s.peers.record a).silent (timeAfter s n) (s.settings.loss * s.settings.presence) = true →
    ∃ t, exec .presenceTimerExpiry s = .next t ∧
      t.peers.record a =
        ⟨false, none, (s.peers.record a).restart, none, none, none, (s.peers.record a).definitionsEnabled⟩ ∧
      (s.seq.phase = .run →
        (∀ b : Station, b ≠ a →
          (s.peers.record b).silent (timeAfter s n) (s.settings.loss * s.settings.presence) = false) →
        let e := elapse n s
        let unheld := if s.floor.holder = some a then { e.floor with holder := none } else e.floor
        t.translator = e.translator ∧ t.release = e.release ∧
        (s.floor.state = .off →
          t.floor = if s.floor.holder = some a then waitStarted e { e.floor with holder := none } else e.floor) ∧
        (s.floor.state = .claiming → t.floor = unheld) ∧
        (s.floor.state = .requesting → s.floor.partner ≠ some a → t.floor = unheld) ∧
        (s.floor.state = .requesting → s.floor.partner = some a →
          t.floor =
            { e.floor with
              state := .claiming, holder := none, partner := none, reliefTimer := none,
              claimWindow := some s.settings.claimWindow, vacancyTimer := none } ∧
          (s.bus.queue.length < 24 → ∃ more, t.bus.queue =
            s.bus.queue ++ waitingFrame (.claim (s.release.known.getD 0) false) none :: more)) ∧
        (s.floor.state = .on ∨ (s.floor.state = .yielding ∨ s.floor.state = .draining) ∧ s.floor.partner ≠ some a →
          t.floor = e.floor) ∧
        (s.floor.state = .yielding → s.floor.partner = some a →
          t.floor = { e.floor with state := .on, partner := none, yieldTimer := none } ∧ t.notes = e.notes ∧
          t.status = e.status) ∧
        (s.floor.state = .draining → s.floor.partner = some a → t.floor = { e.floor with partner := none }))) ∧
  ∀ s : State, s.peers.timer = none → exec .presenceTimerExpiry s = .next s

/-! ### Status unit -/

/-- PATTERN_END (R174, R180): when the ms left have passed the waiting pattern starts, or the player is idle; in FAULT
the FAULT pattern starts again. A pattern request starts at once on an idle player, else it waits in place of any
other. Model's choices: the time left passes with an expiry command or a scan (log entry 1); a command whose event
cannot come about changes nothing (log entry 5). -/
def Obligations.PatternEndStartsWaiting : Prop :=
  (∀ (s : State) (p : Pattern) (left : Nat), s.status.playing = some (p, left) →
    exec .patternEnd s = .next
      { elapse left s with
        status :=
          { s.status with
            playing :=
              if s.seq.phase = .fault then some (.fault, 500)
              else s.status.waiting.map fun w =>
                (w, match w with | .untran => 230 | .floorGained => 320 | .reliefAsked => 410 | .fault => 500)
            waiting := none } }) ∧
  (∀ s : State, s.status.playing = none → exec .patternEnd s = .next s) ∧
  ∀ (u : StatusUnit) (p : Pattern),
    (u.enables.getLsbD p.place = false → u.request p = u) ∧
    (u.enables.getLsbD p.place = true → u.playing = none → (u.request p).playing = some (p, p.length)) ∧
    (u.enables.getLsbD p.place = true → u.playing ≠ none → u.request p = { u with waiting := some p })

/-- R181: a flag whose mask position is set, changing from clear to set, requests the FAULT pattern, which starts on an
idle player and else takes the waiting slot, where one FAULT stands however many are requested; one set already, or
masked out, requests nothing; the flag stands, and is carried in PRESENCE, in every case. -/
def Obligations.FaultPatternOnNewFlag : Prop :=
  ∀ (f : Machine.Flag) (s : State), s.seq.phase ≠ .fault →
    (setFlag f s).status.isSet f = true ∧
    (∀ g : Machine.Flag, g ≠ f → (setFlag f s).status.isSet g = s.status.isSet g) ∧
    (s.status.isSet f = false → s.status.mask.getLsbD f.position = true →
      (setFlag f s).status = { s.status.request .fault with flags := s.status.flags ||| f.mask } ∧
      (s.status.enables.getLsbD 3 = true → s.status.playing = none →
        (setFlag f s).status.playing = some (.fault, 500) ∧ (setFlag f s).status.waiting = s.status.waiting) ∧
      (s.status.enables.getLsbD 3 = true → s.status.playing ≠ none →
        (setFlag f s).status.playing = s.status.playing ∧ (setFlag f s).status.waiting = some .fault)) ∧
    (presenceBody (setFlag f s)).flags.getLsbD f.position = true ∧
    (s.status.isSet f = true ∨ s.status.mask.getLsbD f.position = false →
      (setFlag f s).status = { s.status with flags := s.status.flags ||| f.mask }) ∧
    setFlag f s = { s with status := (setFlag f s).status }

/-! ### What every step keeps -/

/-- Every command keeps the canonical form of both devices' contents; any command but POWER_ON_RESET takes bits of the
flash from 1 to 0 at most (R17, R35) and writes RAM inside the OVERLAY region only (R33, R34, R41). Model's choices:
what a failed program leaves is a free value (log entry 3); unlisted memory reads 0xFF (log entry 4); an idle step is
one ms (log entry 1). -/
def Obligations.FlashBitsAreOnlyCleared : Prop :=
  ∀ (s t : State), MemoryGood s → step s = .next t →
    MemoryGood t ∧
    ((∀ straps flash ram, s.pending.head? ≠ some (.powerOnReset straps flash ram)) →
      (∀ a, Memory.read t.port.flashMem a &&& Memory.read s.port.flashMem a = Memory.read t.port.flashMem a) ∧
      ∀ a, ¬ InOverlay s a → Memory.read t.port.ramMem a = Memory.read s.port.ramMem a)

/-- Every step keeps the bounds of the collections (R12, R19, R52, R99, R130, R139) and leaves the flag positions
without a flag clear (R177). Model's choice: an idle step is one ms (log entry 1). -/
def Obligations.BoundsAreKept : Prop :=
  ∀ (s t : State), QueuesGood s → FlagsGood s → step s = .next t → QueuesGood t ∧ FlagsGood t

/-- R85: every step keeps the history at 32 units at most, its HELD units a contiguous tail, and off-record text on the
shadow stream. Model's choice: an idle step is one ms (log entry 1). -/
def Obligations.HistoryTailIsKept : Prop :=
  ∀ (s t : State), HistoryGood s → step s = .next t → HistoryGood t

/-- R170, R171, R174: address, RAM presence and reset kind hold, and FAULT and RUN are left, only by a reset; until
acceptance, and in FAULT, every block stays at its reset values, and no flag changes in FAULT. Model's choices: before
acceptance every quantity stands at its default (log entry 24), and the line follower and the stuck-line timer do not
run in LOAD (log entry 33); an idle step is one ms (log entry 1). -/
def Obligations.OnlyResetLeavesFaultAndRun : Prop :=
  ∀ s t : State, step s = .next t →
    (QuietGood s → QuietGood t) ∧
    ((∀ c, s.pending.head? = some c → isReset c = false) →
      (t.seq.addr, t.seq.ramFit, t.seq.resetKind) = (s.seq.addr, s.seq.ramFit, s.seq.resetKind) ∧
      (s.seq.phase = .fault → t.seq.phase = .fault ∧ (QuietGood s → t.status.flags = s.status.flags)) ∧
      (s.seq.phase = .run → t.seq.phase = .run))

/-! ### Frames on the line -/

/-- R127 to R129, R135, R182: the frame that a station sends for a message, read without error, is accepted by every
other station it is addressed to, and says the same message from the same source. -/
def Obligations.SentFrameIsAccepted : Prop :=
  ∀ (m : Msg) (src me : Station) (dest : Option Station), m.WellFormed → src ≠ me → (dest = none ∨ dest = some me) →
    (m.frame src dest).judge me = .accepted src m
end

