-- ==== Sys2Proof/Laws/Memory.lean ====
section
/-! SUPPORT. Laws of the device contents: what a read gives after a write, and that every operation keeps the canonical
form. -/

namespace Sys2Proof.Machine

/-! ### The canonical form, one entry at a time -/

theorem Memory.wf_cons {c : Host.Cell} {m : Memory} :
    Memory.wf (c :: m) ↔ (∀ d ∈ m, c.1 < d.1) ∧ c.2 ≠ Config.unlistedByte ∧ Memory.wf m := by
  simp only [Memory.wf, List.pairwise_cons, List.mem_cons, forall_eq_or_imp]
  tauto

theorem Memory.wf_nil : Memory.wf [] := by simp [Memory.wf]

/-- Below the first listed address nothing is listed. -/
theorem Memory.read_below {m : Memory} {a : Nat} (h : ∀ d ∈ m, a < d.1) : Memory.read m a = Config.unlistedByte := by
  induction m with
  | nil => rfl
  | cons c m ih =>
    have hc := h c (by simp)
    rw [Memory.read, if_neg (by omega)]
    exact ih fun d hd => h d (by simp [hd])

/-! ### One byte -/

/-- A write leaves every other address as it was. -/
theorem Memory.read_write_ne (m : Memory) {a b : Nat} (v : Byte) (h : b ≠ a) :
    Memory.read (Memory.write m a v) b = Memory.read m b := by
  induction m with
  | nil =>
    rw [Memory.write]
    split
    · rfl
    · simp [Memory.read, Ne.symm h]
  | cons c m ih =>
    rw [Memory.write]
    split
    · split
      · rfl
      · rw [Memory.read, if_neg (Ne.symm h)]
    · split
      · rename_i hk
        split
        · rw [Memory.read, if_neg (by omega)]
        · rw [Memory.read, if_neg (Ne.symm h), Memory.read, if_neg (by omega)]
      · rw [Memory.read, Memory.read, ih]

/-- A read gives the byte written. -/
theorem Memory.read_write_same {m : Memory} (hm : Memory.wf m) (a : Nat) (v : Byte) :
    Memory.read (Memory.write m a v) a = v := by
  induction m with
  | nil =>
    rw [Memory.write]
    split
    · rename_i h; rw [Memory.read, h]
    · rw [Memory.read, if_pos rfl]
  | cons c m ih =>
    obtain ⟨hlt, -, hw⟩ := Memory.wf_cons.1 hm
    rw [Memory.write]
    split
    · rename_i ha
      split
      · rename_i hv
        rw [hv]
        refine Memory.read_below fun d hd => ?_
        rcases List.mem_cons.1 hd with rfl | hd
        · exact ha
        · exact Nat.lt_trans ha (hlt d hd)
      · rw [Memory.read, if_pos rfl]
    · split
      · rename_i ha
        split
        · rename_i hv
          rw [hv]
          exact Memory.read_below fun d hd => ha ▸ hlt d hd
        · rw [Memory.read, if_pos rfl]
      · rename_i h1 h2
        rw [Memory.read, if_neg (fun h => h2 h.symm), ih hw]

/-- What a write can list: the address written, and what was listed before. -/
theorem Memory.mem_write {m : Memory} {a : Nat} {v : Byte} {d : Host.Cell} (h : d ∈ Memory.write m a v) :
    d = (a, v) ∧ v ≠ Config.unlistedByte ∨ d ∈ m := by
  induction m with
  | nil =>
    rw [Memory.write] at h
    split at h
    · simp at h
    · rename_i hv; simp at h; exact .inl ⟨h, hv⟩
  | cons c m ih =>
    rw [Memory.write] at h
    split at h
    · split at h
      · exact .inr h
      · rename_i hv
        rcases List.mem_cons.1 h with h | h
        · exact .inl ⟨h, hv⟩
        · exact .inr h
    · split at h
      · split at h
        · exact .inr (List.mem_cons_of_mem _ h)
        · rename_i hv
          rcases List.mem_cons.1 h with h | h
          · exact .inl ⟨h, hv⟩
          · exact .inr (List.mem_cons_of_mem _ h)
      · rcases List.mem_cons.1 h with h | h
        · exact .inr (h ▸ List.mem_cons_self)
        · exact (ih h).imp_right (List.mem_cons_of_mem _)

/-- A write keeps the canonical form. -/
theorem Memory.wf_write {m : Memory} (hm : Memory.wf m) (a : Nat) (v : Byte) : Memory.wf (Memory.write m a v) := by
  induction m with
  | nil =>
    rw [Memory.write]
    split
    · exact Memory.wf_nil
    · rename_i hv; exact Memory.wf_cons.2 ⟨by simp, hv, Memory.wf_nil⟩
  | cons c m ih =>
    obtain ⟨hlt, hc, hw⟩ := Memory.wf_cons.1 hm
    rw [Memory.write]
    split
    · rename_i ha
      split
      · exact hm
      · rename_i hv
        refine Memory.wf_cons.2 ⟨fun d hd => ?_, hv, hm⟩
        rcases List.mem_cons.1 hd with rfl | hd
        · exact ha
        · exact Nat.lt_trans ha (hlt d hd)
    · split
      · rename_i ha
        split
        · exact hw
        · rename_i hv; exact Memory.wf_cons.2 ⟨fun d hd => ha ▸ hlt d hd, hv, hw⟩
      · rename_i h1 h2
        refine Memory.wf_cons.2 ⟨fun d hd => ?_, hc, ih hw⟩
        rcases Memory.mem_write hd with ⟨rfl, -⟩ | hd
        · show c.1 < a; omega
        · exact hlt d hd

/-! ### Several bytes -/

theorem Memory.wf_writeBytes {m : Memory} (hm : Memory.wf m) (a : Nat) (bs : List Byte) :
    Memory.wf (Memory.writeBytes m a bs) := by
  induction bs generalizing m a with
  | nil => exact hm
  | cons b bs ih => exact ih (Memory.wf_write hm a b) _

theorem Memory.wf_program {m : Memory} (hm : Memory.wf m) (a : Nat) (bs : List Byte) :
    Memory.wf (Memory.program m a bs) := by
  induction bs generalizing m a with
  | nil => exact hm
  | cons b bs ih => exact ih (Memory.wf_write hm a _) _

theorem Memory.wf_programPartly {m : Memory} (hm : Memory.wf m) (op a : Nat) (bs : List Byte) :
    Memory.wf (Memory.programPartly m op a bs) := by
  induction bs generalizing m a with
  | nil => exact hm
  | cons b bs ih => exact ih (Memory.wf_write hm a _) _

theorem Memory.wf_blank {m : Memory} (hm : Memory.wf m) (a n : Nat) : Memory.wf (Memory.blank m a n) :=
  ⟨hm.1.filter _, fun c hc => hm.2 c (List.mem_of_mem_filter hc)⟩

theorem Memory.wf_ofCells (space : Nat) (cells : List Host.Cell) : Memory.wf (Memory.ofCells space cells) := by
  have (m : Memory) (hm : Memory.wf m) :
      Memory.wf (cells.foldl (fun m c => if c.1 < space then Memory.write m c.1 c.2 else m) m) := by
    induction cells generalizing m with
    | nil => exact hm
    | cons c cells ih =>
      refine ih _ ?_
      dsimp only
      split
      · exact Memory.wf_write hm _ _
      · exact hm
  exact this [] Memory.wf_nil

/-- Outside the span blanked, nothing changes. -/
theorem Memory.read_blank_outside (m : Memory) (a n : Nat) {b : Nat} (h : b < a ∨ a + n ≤ b) :
    Memory.read (Memory.blank m a n) b = Memory.read m b := by
  induction m with
  | nil => rfl
  | cons c m ih =>
    unfold Memory.blank at ih ⊢
    rw [List.filter_cons]
    split
    · rw [Memory.read, Memory.read, ih]
    · rename_i hc
      simp at hc
      rw [ih, Memory.read, if_neg (by omega)]

/-- Inside the span blanked, every byte reads as nothing listed. -/
theorem Memory.read_blank_inside (m : Memory) (a n : Nat) {b : Nat} (h1 : a ≤ b) (h2 : b < a + n) :
    Memory.read (Memory.blank m a n) b = Config.unlistedByte := by
  induction m with
  | nil => rfl
  | cons c m ih =>
    unfold Memory.blank at ih ⊢
    rw [List.filter_cons]
    split
    · rename_i hc
      simp at hc
      rw [Memory.read, if_neg (by omega), ih]
    · exact ih

/-- Outside the span written, nothing changes. -/
theorem Memory.read_writeBytes_outside (m : Memory) (a : Nat) (bs : List Byte) {b : Nat}
    (h : b < a ∨ a + bs.length ≤ b) : Memory.read (Memory.writeBytes m a bs) b = Memory.read m b := by
  induction bs generalizing m a with
  | nil => rfl
  | cons v bs ih =>
    simp only [List.length_cons] at h
    rw [Memory.writeBytes, ih _ _ (by omega), Memory.read_write_ne m v (by omega)]

/-- Consecutive bytes written read back. -/
theorem Memory.read_writeBytes_inside {m : Memory} (hm : Memory.wf m) (a : Nat) (bs : List Byte) {i : Nat}
    (hi : i < bs.length) : Memory.read (Memory.writeBytes m a bs) (a + i) = bs[i] := by
  induction bs generalizing m a i with
  | nil => simp at hi
  | cons b bs ih =>
    cases i with
    | zero =>
      rw [Memory.writeBytes, Memory.read_writeBytes_outside _ _ _ (by omega), Nat.add_zero,
        Memory.read_write_same hm]
      rfl
    | succ i =>
      rw [Memory.writeBytes, show a + (i + 1) = a + 1 + i by omega,
        ih (Memory.wf_write hm a b) (a + 1) (by simpa using hi)]
      rfl

theorem Memory.readBytes_writeBytes {m : Memory} (hm : Memory.wf m) (a : Nat) (bs : List Byte) :
    Memory.readBytes (Memory.writeBytes m a bs) a bs.length = bs := by
  apply List.ext_getElem
  · simp [Memory.readBytes]
  · intro i h1 h2
    simp only [Memory.readBytes, List.getElem_map, List.getElem_range]
    exact Memory.read_writeBytes_inside hm a bs h2

/-- Outside the span programmed, nothing changes. -/
theorem Memory.read_program_outside (m : Memory) (a : Nat) (bs : List Byte) {b : Nat}
    (h : b < a ∨ a + bs.length ≤ b) : Memory.read (Memory.program m a bs) b = Memory.read m b := by
  induction bs generalizing m a with
  | nil => rfl
  | cons v bs ih =>
    simp only [List.length_cons] at h
    rw [Memory.program, ih _ _ (by omega), Memory.read_write_ne m _ (by omega)]

/-- Programming only clears bits: what is read after lies inside what was read before. -/
theorem Memory.program_clears {m : Memory} (hm : Memory.wf m) (a : Nat) (bs : List Byte) (b : Nat) :
    Memory.read (Memory.program m a bs) b &&& Memory.read m b = Memory.read (Memory.program m a bs) b := by
  induction bs generalizing m a with
  | nil => exact BitVec.and_self
  | cons v bs ih =>
    rw [Memory.program]
    have h := ih (Memory.wf_write hm a (Memory.read m a &&& v)) (a + 1)
    rcases eq_or_ne b a with rfl | hb
    · rw [Memory.read_write_same hm] at h
      rw [← h]
      ext i; simp; tauto
    · rwa [Memory.read_write_ne m _ hb] at h

/-- A program that came to a bad end clears bits only, whatever the free value is. -/
theorem Memory.programPartly_clears {m : Memory} (hm : Memory.wf m) (op a : Nat) (bs : List Byte) (b : Nat) :
    Memory.read (Memory.programPartly m op a bs) b &&& Memory.read m b =
      Memory.read (Memory.programPartly m op a bs) b := by
  induction bs generalizing m a with
  | nil => exact BitVec.and_self
  | cons v bs ih =>
    rw [Memory.programPartly]
    have h := ih (Memory.wf_write hm a (Memory.read m a &&& (v ||| Config.programResidue op a))) (a + 1)
    rcases eq_or_ne b a with rfl | hb
    · rw [Memory.read_write_same hm] at h
      rw [← h]
      ext i; simp; tauto
    · rwa [Memory.read_write_ne m _ hb] at h

end Sys2Proof.Machine
end

