-- ==== Sys2Proof/Laws/Acts.lean ====
section
/-! SUPPORT. What the shared operations can touch, said once for each: a proof cites these and never unfolds an
operation to see that it leaves a block alone. -/

namespace Sys2Proof.Machine

/-- From s to t nothing outside the notes path, the arbiter's grant, the bus, the history, the release unit, the
overlay, the lookup unit, the floor record and the status unit has changed; the RAM only inside the OVERLAY region.
Every act of the translator, the overlay manager, the release unit and the floor controller is one. -/
structure CoreKept (s t : State) : Prop where
  pending : t.pending = s.pending
  freeCount : t.freeCount = s.freeCount
  seq : t.seq = s.seq
  settings : t.settings = s.settings
  scanner : t.scanner = s.scanner
  strokes : t.strokes = s.strokes
  peers : t.peers = s.peers
  timer : t.port.timer = s.port.timer
  deviceReady : t.port.deviceReady = s.port.deviceReady
  regions : t.port.regions = s.port.regions
  flashMem : t.port.flashMem = s.port.flashMem
  ramOutside : ∀ x, ¬ InOverlay s x → Memory.read t.port.ramMem x = Memory.read s.port.ramMem x
  follower : t.bus.follower = s.bus.follower
  inFlight : t.bus.inFlight = s.bus.inFlight

/-- A floor act: besides, the translator, the lookup unit, the inbox, the release unit and the overlay are kept. -/
structure FloorAct (s t : State) : Prop where
  core : CoreKept s t
  lookup : t.lookup = s.lookup
  translator : t.translator = s.translator
  inbox : t.inbox = s.inbox
  release : t.release = s.release
  ramMem : t.port.ramMem = s.port.ramMem

/-- A release act: besides, the lookup unit, the inbox, the overlay and the translator's own work are kept. -/
structure ReleaseAct (s t : State) : Prop where
  core : CoreKept s t
  lookup : t.lookup = s.lookup
  inbox : t.inbox = s.inbox
  ramMem : t.port.ramMem = s.port.ramMem
  active : t.translator.active = s.translator.active
  sequence : t.translator.sequence = s.translator.sequence
  resolveTimer : t.translator.resolveTimer = s.translator.resolveTimer
  stale : t.translator.stale = s.translator.stale
  work : t.translator.work = s.translator.work
  capture : t.translator.capture = s.translator.capture

/-- An overlay act: besides, the lookup unit, the inbox and the translator's own work, its stale mark apart. -/
structure OverlayAct (s t : State) : Prop where
  core : CoreKept s t
  lookup : t.lookup = s.lookup
  inbox : t.inbox = s.inbox
  active : t.translator.active = s.translator.active
  sequence : t.translator.sequence = s.translator.sequence
  resolveTimer : t.translator.resolveTimer = s.translator.resolveTimer
  work : t.translator.work = s.translator.work
  capture : t.translator.capture = s.translator.capture

theorem CoreKept.refl (s : State) : CoreKept s s := by constructor <;> (intros; rfl)

theorem CoreKept.trans {s t u : State} (h : CoreKept s t) (k : CoreKept t u) : CoreKept s u := by
  obtain ⟨h1, h2, h3, h4, h5, h6, h7, h8, h9, h10, h11, h12, h13, h14⟩ := h
  obtain ⟨k1, k2, k3, k4, k5, k6, k7, k8, k9, k10, k11, k12, k13, k14⟩ := k
  refine ⟨k1.trans h1, k2.trans h2, k3.trans h3, k4.trans h4, k5.trans h5, k6.trans h6, k7.trans h7, k8.trans h8,
    k9.trans h9, k10.trans h10, k11.trans h11, fun x hx => (k12 x fun ⟨r, hr, hb⟩ => hx ⟨r, ?_, hb⟩).trans (h12 x hx),
    k13.trans h13, k14.trans h14⟩
  unfold MemoryPort.region at hr ⊢; rwa [h10] at hr

theorem FloorAct.refl (s : State) : FloorAct s s := ⟨.refl s, rfl, rfl, rfl, rfl, rfl⟩

theorem FloorAct.trans {s t u : State} (h : FloorAct s t) (k : FloorAct t u) : FloorAct s u :=
  ⟨h.core.trans k.core, k.lookup.trans h.lookup, k.translator.trans h.translator, k.inbox.trans h.inbox,
    k.release.trans h.release, k.ramMem.trans h.ramMem⟩

theorem ReleaseAct.refl (s : State) : ReleaseAct s s := ⟨.refl s, rfl, rfl, rfl, rfl, rfl, rfl, rfl, rfl, rfl⟩

theorem ReleaseAct.trans {s t u : State} (h : ReleaseAct s t) (k : ReleaseAct t u) : ReleaseAct s u :=
  ⟨h.core.trans k.core, k.lookup.trans h.lookup, k.inbox.trans h.inbox, k.ramMem.trans h.ramMem,
    k.active.trans h.active, k.sequence.trans h.sequence, k.resolveTimer.trans h.resolveTimer, k.stale.trans h.stale,
    k.work.trans h.work, k.capture.trans h.capture⟩

theorem OverlayAct.refl (s : State) : OverlayAct s s := ⟨.refl s, rfl, rfl, rfl, rfl, rfl, rfl, rfl⟩

theorem OverlayAct.trans {s t u : State} (h : OverlayAct s t) (k : OverlayAct t u) : OverlayAct s u :=
  ⟨h.core.trans k.core, k.lookup.trans h.lookup, k.inbox.trans h.inbox, k.active.trans h.active,
    k.sequence.trans h.sequence, k.resolveTimer.trans h.resolveTimer, k.work.trans h.work, k.capture.trans h.capture⟩

theorem FloorAct.toRelease {s t : State} (h : FloorAct s t) : ReleaseAct s t :=
  ⟨h.core, h.lookup, h.inbox, h.ramMem, by rw [h.translator], by rw [h.translator], by rw [h.translator],
    by rw [h.translator], by rw [h.translator], by rw [h.translator]⟩

theorem ReleaseAct.toOverlay {s t : State} (h : ReleaseAct s t) : OverlayAct s t :=
  ⟨h.core, h.lookup, h.inbox, h.active, h.sequence, h.resolveTimer, h.work, h.capture⟩

/-! ### Status unit -/

/-- A pattern request changes the status unit only. -/
theorem requestPattern_eq (p : Pattern) (s : State) :
    requestPattern p s = { s with status := (requestPattern p s).status } := by
  unfold requestPattern; split <;> rfl

/-- Setting a flag changes the status unit only. -/
theorem setFlag_eq (f : Flag) (s : State) : setFlag f s = { s with status := (setFlag f s).status } := by
  unfold setFlag; dsimp only; split
  · rfl
  · rw [requestPattern_eq]

theorem setFlagIf_eq (c : Bool) (f : Flag) (s : State) :
    setFlagIf c f s = { s with status := (setFlagIf c f s).status } := by
  unfold setFlagIf; split
  · rw [setFlag_eq]
  · rfl

/-- A request changes no flag, mask or enable. -/
theorem requestPattern_flags (p : Pattern) (s : State) : (requestPattern p s).status.flags = s.status.flags := by
  unfold requestPattern StatusUnit.request; repeat' split
  all_goals rfl

/-- The flags after setting one. -/
theorem setFlag_flags (f : Flag) (s : State) : (setFlag f s).status.flags = s.status.flags ||| f.mask := by
  unfold setFlag; dsimp only; split
  · rfl
  · rw [requestPattern_flags]

theorem FloorAct.ofStatus {s t : State} (h : t = { s with status := t.status }) : FloorAct s t := by
  rw [h]; exact ⟨by constructor <;> (intros; rfl), rfl, rfl, rfl, rfl, rfl⟩

theorem setFlag_act (f : Flag) (s : State) : FloorAct s (setFlag f s) := .ofStatus (setFlag_eq f s)

theorem setFlagIf_act (c : Bool) (f : Flag) (s : State) : FloorAct s (setFlagIf c f s) := .ofStatus (setFlagIf_eq c f s)

theorem requestPattern_act (p : Pattern) (s : State) : FloorAct s (requestPattern p s) :=
  .ofStatus (requestPattern_eq p s)

theorem clearFlags_act (w : Word) (s : State) : FloorAct s (clearFlags w s) := .ofStatus rfl

theorem ackCommand_act (s : State) : FloorAct s (ackCommand s) := .ofStatus rfl

/-! ### Arbiter, notes, frames -/

/-- The arbiter changes the flash state and its own grant only. -/
theorem arbitrate_eq (s : State) :
    arbitrate s =
      { s with
        port :=
          { s.port with flash := (arbitrate s).port.flash, burstGranted := (arbitrate s).port.burstGranted } } := by
  unfold arbitrate; repeat' split
  all_goals rfl

theorem arbitrate_act (s : State) : FloorAct s (arbitrate s) := by
  rw [arbitrate_eq]; exact ⟨by constructor <;> (intros; rfl), rfl, rfl, rfl, rfl, rfl⟩

/-- A joining note changes the notes path and the status unit only. -/
theorem joinNote_eq (n : Note) (s : State) :
    joinNote n s = { s with notes := (joinNote n s).notes, status := (joinNote n s).status } := by
  unfold joinNote armFlush; repeat' split
  all_goals first | rfl | (rw [setFlag_eq]; rfl)

theorem joinNote_act (n : Note) (s : State) : FloorAct s (joinNote n s) := by
  rw [joinNote_eq]; exact ⟨by constructor <;> (intros; rfl), rfl, rfl, rfl, rfl, rfl⟩

/-- A handed note changes the notes path, the arbiter's grant and the status unit only. -/
theorem handNote_eq (n : Note) (s : State) :
    handNote n s =
      { s with
        notes := (handNote n s).notes
        status := (handNote n s).status
        port :=
          { s.port with flash := (handNote n s).port.flash, burstGranted := (handNote n s).port.burstGranted } } := by
  unfold handNote; split
  · rw [arbitrate_eq, joinNote_eq]
  · split
    · rfl
    · rw [setFlag_eq]; rfl

theorem handNote_act (n : Note) (s : State) : FloorAct s (handNote n s) := by
  rw [handNote_eq]; exact ⟨by constructor <;> (intros; rfl), rfl, rfl, rfl, rfl, rfl⟩

/-- A handed frame changes the transmit queue and the status unit only. -/
theorem handFrame_eq (f : TxFrame) (s : State) :
    handFrame f s =
      { s with bus := { s.bus with queue := (handFrame f s).bus.queue }, status := (handFrame f s).status } := by
  unfold handFrame displace
  repeat' split
  all_goals first
    | rfl
    | rw [setFlag_eq]
    | (dsimp only [setQueue]; rw [setFlagIf_eq])

theorem handFrame_act (f : TxFrame) (s : State) : FloorAct s (handFrame f s) := by
  rw [handFrame_eq]; exact ⟨by constructor <;> (intros; rfl), rfl, rfl, rfl, rfl, rfl⟩

theorem broadcast_act (m : Msg) (s : State) : FloorAct s (broadcast m s) := handFrame_act _ s

theorem sendTo_act (a : Station) (m : Msg) (s : State) : FloorAct s (sendTo a m s) := handFrame_act _ s

theorem raiseKnown_act (v : Word) (s : State) : ReleaseAct s (raiseKnown v s) :=
  ⟨by constructor <;> (intros; rfl), rfl, rfl, rfl, rfl, rfl, rfl, rfl, rfl, rfl⟩

/-! ### Floor controller -/

theorem passKnown_act (v : Word) (s : State) : ReleaseAct s (passKnown v s) :=
  ⟨by constructor <;> (intros; rfl), rfl, rfl, rfl, rfl, rfl, rfl, rfl, rfl, rfl⟩

theorem setFloor_act (f : FloorRecord) (s : State) : FloorAct s (setFloor f s) :=
  ⟨by constructor <;> (intros; rfl), rfl, rfl, rfl, rfl, rfl⟩

theorem enterOn_act (s : State) : FloorAct s (enterOn s) :=
  (setFloor_act _ s).trans ((handNote_act _ _).trans (requestPattern_act _ _))

theorem enterOff_act (s : State) : FloorAct s (enterOff s) := (setFloor_act _ s).trans (handNote_act _ _)

theorem enterYielding_act (p : Station) (s : State) : FloorAct s (enterYielding p s) :=
  (setFloor_act _ s).trans (requestPattern_act _ _)

theorem setHolder_act (a : Station) (s : State) : FloorAct s (setHolder a s) := setFloor_act _ s

theorem clearHolder_act (s : State) : FloorAct s (clearHolder s) := setFloor_act _ s

theorem vacancyFound_act (s : State) : FloorAct s (vacancyFound s) := by
  unfold vacancyFound; split
  · exact setFloor_act _ s
  · exact .refl s

theorem restartVacancy_act (s : State) : FloorAct s (restartVacancy s) := by
  unfold restartVacancy; split
  · exact setFloor_act _ s
  · exact .refl s

theorem holderShown_act (a : Station) (s : State) : FloorAct s (holderShown a s) :=
  (setHolder_act a s).trans (restartVacancy_act _)

theorem strokeReported_act (s : State) : FloorAct s (strokeReported s) := (setFloor_act _ s).trans (vacancyFound_act _)

theorem claimNow_act (s : State) : FloorAct s (claimNow s) := (broadcast_act _ s).trans (setFloor_act _ _)

theorem heldReply_act (s : State) : FloorAct s (heldReply s) := broadcast_act _ s

theorem leaveFloor_act (s : State) : FloorAct s (leaveFloor s) := by
  unfold leaveFloor; split
  · exact (broadcast_act _ s).trans ((setHolder_act _ _).trans (enterOff_act _))
  · exact (broadcast_act _ s).trans ((setFloor_act _ _).trans (enterOff_act _))

theorem drainCheck_act (s : State) : FloorAct s (drainCheck s) := by
  unfold drainCheck; split
  · exact leaveFloor_act s
  · exact .refl s

theorem startDrain_act (s : State) : FloorAct s (startDrain s) := (setFloor_act _ s).trans (drainCheck_act _)

theorem makeCut_act (s : State) : FloorAct s (makeCut s) := by
  unfold makeCut; split
  · exact startDrain_act s
  · exact .refl s

theorem speakerCreated_act (s : State) : FloorAct s (speakerCreated s) := by
  unfold speakerCreated; split
  · exact makeCut_act s
  · exact .refl s

theorem freeCommand_act (s : State) : FloorAct s (freeCommand s) := by
  unfold freeCommand; split
  · exact (setFloor_act _ s).trans (startDrain_act _)
  · exact .refl s

theorem yieldCommand_act (s : State) : FloorAct s (yieldCommand s) := by
  unfold yieldCommand; split
  · exact makeCut_act s
  · exact .refl s

theorem reliefCommand_act (s : State) : FloorAct s (reliefCommand s) := by
  unfold reliefCommand; split
  · split
    · split
      · exact .refl s
      · exact (sendTo_act _ _ s).trans (setFloor_act _ _)
    · exact (setFloor_act _ s).trans (claimNow_act _)
  · exact .refl s

/-! ### Release unit and history -/

theorem setHistory_act (h : List TextUnit) (s : State) : ReleaseAct s (setHistory h s) :=
  ⟨by constructor <;> (intros; rfl), rfl, rfl, rfl, rfl, rfl, rfl, rfl, rfl, rfl⟩

/-- Changes of the release unit's own record. -/
theorem ReleaseAct.ofRelease (s : State) (r : ReleaseUnit) : ReleaseAct s { s with release := r } :=
  ⟨by constructor <;> (intros; rfl), rfl, rfl, rfl, rfl, rfl, rfl, rfl, rfl, rfl⟩

theorem restream_act (was : Stream) (now : TextUnit → Stream) (s : State) : ReleaseAct s (restream was now s) :=
  setHistory_act _ s

theorem releaseUnit_act (i : Nat) (u : TextUnit) (s : State) : ReleaseAct s (releaseUnit i u s) := by
  unfold releaseUnit; dsimp only; split
  · exact (setHistory_act _ s).trans (drainCheck_act _).toRelease
  · exact (setHistory_act _ s).trans ((ReleaseAct.ofRelease _ _).trans
      ((broadcast_act _ _).trans (drainCheck_act _)).toRelease)
  · exact (setHistory_act _ s).trans ((ReleaseAct.ofRelease _ _).trans
      ((broadcast_act _ _).trans (drainCheck_act _)).toRelease)
  · exact (setHistory_act _ s).trans (drainCheck_act _).toRelease

theorem releaseDue_act (n : Nat) (s : State) : ReleaseAct s (releaseDue n s) := by
  induction n generalizing s with
  | zero => exact .refl s
  | succ n ih =>
    unfold releaseDue; split
    · exact .refl s
    · split
      · exact (releaseUnit_act _ _ s).trans (ih _)
      · exact .refl s

theorem settle_act (s : State) : ReleaseAct s (settle s) := (releaseDue_act _ s).trans (ReleaseAct.ofRelease _ _)

theorem forceOldest_act (u : TextUnit) (s : State) : ReleaseAct s (forceOldest u s) := by
  unfold forceOldest; split
  · exact releaseUnit_act _ _ s
  · exact setHistory_act _ s

theorem makeRoom_act (s : State) : ReleaseAct s (makeRoom s) := by
  unfold makeRoom; repeat' split
  · exact .refl s
  · exact .refl s
  · exact setHistory_act _ s
  · exact (forceOldest_act _ s).trans
      ((setHistory_act _ _).trans ((drainCheck_act _).toRelease.trans (settle_act _)))

theorem appendUnit_act (u : TextUnit) (f : Formatting) (s : State) : ReleaseAct s (appendUnit u f s) :=
  ⟨by constructor <;> (intros; rfl), rfl, rfl, rfl, rfl, rfl, rfl, rfl, rfl, rfl⟩

theorem reportUnit_act (u : TextUnit) (s : State) : FloorAct s (reportUnit u s) := by
  unfold reportUnit; dsimp only; repeat' split
  · exact (requestPattern_act _ s).trans (speakerCreated_act _)
  · exact speakerCreated_act s
  · exact requestPattern_act _ s
  · exact .refl s

theorem createUnit_act (a : Assembled) (strokes : List Word) (start : Word) (gap : Option Nat) (s : State) :
    ReleaseAct s (createUnit a strokes start gap s) := by
  have h := (makeRoom_act s).trans ((appendUnit_act (newUnit a strokes start gap (makeRoom s)) a.after _).trans
    (reportUnit_act (newUnit a strokes start gap (makeRoom s)) _).toRelease)
  unfold createUnit; dsimp only; split
  · exact h
  · exact h.trans (settle_act _)

theorem retract_act (u : TextUnit) (s : State) : FloorAct s (retract u s) := by
  unfold retract; split
  · exact broadcast_act _ s
  · exact .refl s

theorem heldRemoved_act (s : State) : ReleaseAct s (heldRemoved s) := by
  unfold heldRemoved stopHold; split
  · exact (drainCheck_act s).toRelease.trans (ReleaseAct.ofRelease _ _)
  · exact (drainCheck_act s).toRelease

theorem dropNewest_act (u : TextUnit) (s : State) : ReleaseAct s (dropNewest u s) :=
  ⟨by constructor <;> (intros; rfl), rfl, rfl, rfl, rfl, rfl, rfl, rfl, rfl, rfl⟩

theorem undoHistory_act (s : State) : ReleaseAct s (undoHistory s) := by
  unfold undoHistory; repeat' split
  · exact .refl s
  · exact (dropNewest_act _ s).trans (retract_act _ _).toRelease
  · exact (dropNewest_act _ s).trans (heldRemoved_act _)

theorem setRecord_act (on : Bool) (a : Station) (s : State) : ReleaseAct s (setRecord on a s) := by
  unfold setRecord; dsimp only; split
  · exact ReleaseAct.ofRelease _ _
  · exact (ReleaseAct.ofRelease _ _).trans (handNote_act _ _).toRelease

theorem recordCommand_act (on : Bool) (s : State) : ReleaseAct s (recordCommand on s) :=
  (setRecord_act _ _ s).trans ((broadcast_act _ _).trans (drainCheck_act _)).toRelease

/-! ### Overlay manager -/

/-- Changes of the RAM contents inside the OVERLAY region. -/
theorem OverlayAct.ofRam (s : State) (m : Memory)
    (h : ∀ x, ¬ InOverlay s x → Memory.read m x = Memory.read s.port.ramMem x) :
    OverlayAct s { s with port := { s.port with ramMem := m } } := by
  refine ⟨?_, rfl, rfl, rfl, rfl, rfl, rfl, rfl⟩
  constructor <;> first | rfl | exact h

/-- What the port allows lies inside its region (R34). -/
theorem MemoryPort.allows_inside {p : MemoryPort} {n : RegionName} {op : PortOp} {off len : Nat}
    (h : p.allows n op off len = true) : ∃ r, p.region n = some r ∧ 1 ≤ len ∧ off + len ≤ r.size := by
  unfold MemoryPort.allows at h
  split at h
  · cases h
  · rename_i r hr
    simp only [Bool.and_eq_true, decide_eq_true_eq] at h
    exact ⟨r, hr, h.1.1.2, h.1.2⟩

/-- A RAM write changes bytes of the OVERLAY region only (R34). -/
theorem overlayWrite_act (off : Nat) (bs : List Byte) (s : State) : OverlayAct s (overlayWrite off bs s) := by
  refine OverlayAct.ofRam s _ fun x hx => ?_
  unfold MemoryPort.ramAfter; split
  · rename_i h
    obtain ⟨r, hr, -, hs⟩ := MemoryPort.allows_inside h
    refine Memory.read_writeBytes_outside _ _ _ ?_
    simp only [hr, Option.map_some, Option.getD_some]
    by_contra hc
    exact hx ⟨r, hr, by omega, by omega⟩
  · rfl

/-- A RAM write changes the contents of the RAM only. -/
theorem overlayWrite_eq (off : Nat) (bs : List Byte) (s : State) :
    overlayWrite off bs s = { s with port := { s.port with ramMem := (overlayWrite off bs s).port.ramMem } } := rfl

theorem writeHeader_act (c : OverlayCounts) (good : Bool) (s : State) : OverlayAct s (writeHeader c good s) :=
  overlayWrite_act _ _ s

theorem writeSlotValue_act (i v : Nat) (s : State) : OverlayAct s (writeSlotValue i v s) := overlayWrite_act _ _ s

theorem emptySlots_act (s : State) : OverlayAct s (emptySlots s) := by
  refine OverlayAct.ofRam s _ fun x hx => ?_
  unfold MemoryPort.ramBlanked; split
  · rename_i h
    obtain ⟨r, hr, -, hs⟩ := MemoryPort.allows_inside h
    refine Memory.read_blank_outside _ _ _ ?_
    simp only [hr, Option.map_some, Option.getD_some]
    by_contra hc
    exact hx ⟨r, hr, by omega, by omega⟩
  · rfl

theorem clearOverlay_act (s : State) : OverlayAct s (clearOverlay s) :=
  (emptySlots_act s).trans (writeHeader_act _ _ _)

theorem writeCount_act (v count : Nat) (s : State) : OverlayAct s (writeCount v count s) :=
  (overlayWrite_act _ _ s).trans (overlayWrite_act _ _ _)

/-- A fold of acts over a list, with counts carried along, is an act. -/
theorem OverlayAct.foldCounts {α : Type} (l : List α) (f : OverlayCounts × State → α → OverlayCounts × State)
    (h : ∀ x a, OverlayAct x.2 (f x a).2) (x : OverlayCounts × State) : OverlayAct x.2 (l.foldl f x).2 := by
  induction l generalizing x with
  | nil => exact .refl _
  | cons a l ih => exact (h x a).trans (ih _)

/-- A fold of acts over a list is an act. -/
theorem OverlayAct.fold {α : Type} (l : List α) (f : State → α → State) (h : ∀ s a, OverlayAct s (f s a)) (s : State) :
    OverlayAct s (l.foldl f s) := by
  induction l generalizing s with
  | nil => exact .refl _
  | cons a l ih => exact (h s a).trans (ih _)

theorem FloorAct.fold {α : Type} (l : List α) (f : State → α → State) (h : ∀ s a, FloorAct s (f s a)) (s : State) :
    FloorAct s (l.foldl f s) := by
  induction l generalizing s with
  | nil => exact .refl _
  | cons a l ih => exact (h s a).trans (ih _)

theorem appendEntry_act (k : EntryKind) (outline : List KeySet) (text : List Byte) (count slot : Nat)
    (p : OverlayCounts × State) : OverlayAct p.2 (appendEntry k outline text count slot p).2 :=
  (overlayWrite_act _ _ _).trans (writeSlotValue_act _ _ _)

theorem createPrefix_act (p : List KeySet × Found) (x : OverlayCounts × State) :
    OverlayAct x.2 (createPrefix p x).2 := by
  unfold createPrefix; split
  · exact appendEntry_act _ _ _ _ _ (_, x.2)
  · exact .refl _

theorem placeStored_act (p : List KeySet × Found) (text : List Byte) (x : OverlayCounts × State) :
    OverlayAct x.2 (placeStored p text x).2 := by
  unfold placeStored; split
  · exact appendEntry_act _ _ _ _ _ x
  · exact appendEntry_act _ _ _ _ _ (_, x.2)
  · exact .refl _

theorem raisePrefix_act (v : Nat) (s : State) : OverlayAct s (raisePrefix v s) := writeCount_act _ _ s

theorem writeStore_act (plan : List (List KeySet × Found)) (text : List Byte) (s : State) :
    OverlayAct s (writeStore plan text s) := by
  unfold writeStore; dsimp only; split
  · exact writeHeader_act _ _ s
  · rename_i o _
    refine OverlayAct.trans ?_ (writeHeader_act _ _ _)
    have h := ((writeHeader_act (readCounts s) false s).trans (OverlayAct.foldCounts plan.dropLast
      (fun x p => createPrefix p x) (fun x p => createPrefix_act p x)
      (readCounts s, writeHeader (readCounts s) false s))).trans (placeStored_act o text _)
    split
    · exact h
    · exact h.trans (OverlayAct.fold _ (fun s v => raisePrefix v s) (fun t v => raisePrefix_act v t) _)

theorem freeSlot_act (i : Nat) (p : OverlayCounts × State) : OverlayAct p.2 (freeSlot i p).2 :=
  writeSlotValue_act _ _ _

theorem lowerPrefix_act (p : Found) (x : OverlayCounts × State) : OverlayAct x.2 (lowerPrefix p x).2 := by
  unfold lowerPrefix; split
  · dsimp only; split
    · exact (writeCount_act _ _ _).trans (freeSlot_act _ (_, _))
    · exact writeCount_act _ _ _
  · exact .refl _

theorem writeDelete_act (outline : List KeySet) (slot v : Nat) (s : State) :
    OverlayAct s (writeDelete outline slot v s) := by
  unfold writeDelete; dsimp only
  refine OverlayAct.trans ?_ (writeHeader_act _ _ _)
  refine OverlayAct.trans ?_ (OverlayAct.foldCounts _ _ (fun x p => lowerPrefix_act p x) _)
  split
  · exact (writeHeader_act _ _ s).trans (freeSlot_act _ (_, _))
  · exact (writeHeader_act _ _ s).trans (overlayWrite_act _ _ _)

theorem replaceFrame_act (u : TextUnit) (text : List Byte) (s : State) : FloorAct s (replaceFrame u text s) := by
  unfold replaceFrame; split
  · exact broadcast_act _ s
  · exact .refl s

theorem retranslate_act (outline : List KeySet) (text : List Byte) (s : State) :
    ReleaseAct s (retranslate outline text s) := by
  unfold retranslate; dsimp only; split
  · exact .refl s
  · split
    · exact .refl s
    · rename_i i _ _ u us _
      have h := (setHistory_act (s.translator.history.take i ++
        [retranslated u (u :: us) text] ++ s.translator.history.drop (i + (outline.map untranslate).length)) s).trans
        ((replaceFrame_act u (retranslated u (u :: us) text).text _).trans
          (FloorAct.fold us (fun s v => retract v s) (fun t v => retract_act v t) _)).toRelease
      repeat' split
      · exact h.trans ((drainCheck_act _).toRelease.trans (settle_act _))
      · exact h.trans (drainCheck_act _).toRelease
      · exact h

theorem setStale_act (s : State) : OverlayAct s (setStale s) :=
  ⟨by constructor <;> (intros; rfl), rfl, rfl, rfl, rfl, rfl, rfl, rfl⟩

theorem storeDefinition_act {outline : List KeySet} {text : List Byte} {source : Station} {s t : State}
    (h : storeDefinition outline text source s = some t) : OverlayAct s t := by
  unfold storeDefinition at h; dsimp only at h; split at h
  · cases h
  · cases h
    exact (writeStore_act _ _ s).trans ((handNote_act _ _).toRelease.toOverlay.trans
      ((setStale_act _).trans (retranslate_act _ _ _).toOverlay))

theorem deleteDefinition_act (outline : List KeySet) (source : Station) (s : State) :
    OverlayAct s (deleteDefinition outline source s) := by
  unfold deleteDefinition; repeat' split
  · exact .refl s
  · exact (writeDelete_act _ _ _ s).trans ((handNote_act _ _).toRelease.toOverlay.trans (setStale_act _))
  · exact .refl s

theorem applyPeer_act (d : PeerDefinition) (s : State) : OverlayAct s (applyPeer d s) := by
  unfold applyPeer; split
  · exact deleteDefinition_act _ _ s
  · split
    · rename_i h; exact storeDefinition_act h
    · exact (setFlag_act _ s).toRelease.toOverlay

/-- Emptying the inbox changes, besides the inbox, what an overlay act changes. -/
theorem applyInbox_act (s : State) : OverlayAct { s with inbox := [] } (applyInbox s) :=
  OverlayAct.fold _ _ (fun t d => applyPeer_act d t) _

/-! ### Floor acts on frames and timers -/

theorem pendingLost_act (s : State) : ReleaseAct s (pendingLost s) :=
  (restream_act _ _ s).trans (enterOff_act _).toRelease

theorem requestEnded_act (f : Flag) (s : State) : ReleaseAct s (requestEnded f s) :=
  (restream_act _ _ s).trans ((setFlag_act _ _).trans (enterOff_act _)).toRelease

theorem startHoldOff_act (s : State) : FloorAct s (startHoldOff s) := setFloor_act _ s

theorem claimWon_act (s : State) : ReleaseAct s (claimWon s) :=
  (restream_act _ _ s).trans ((enterOn_act _).toRelease.trans (settle_act _))

theorem conflict_act (a : Station) (s : State) : ReleaseAct s (conflict a s) := by
  unfold conflict; split
  · exact .refl s
  · dsimp only; split
    · exact (restream_act _ _ s).trans (((sendTo_act _ _ _).trans ((setFlag_act _ _).trans ((setHolder_act _ _).trans
        (enterOff_act _)))).toRelease.trans (settle_act _))
    · exact (restream_act _ _ s).trans (((setFlag_act _ _).trans ((setHolder_act _ _).trans
        (enterOff_act _))).toRelease.trans (settle_act _))

theorem holdingHeard_act (a : Station) (s : State) : ReleaseAct s (holdingHeard a s) := by
  unfold holdingHeard; repeat' split
  · exact (holderShown_act _ s).toRelease
  · exact (pendingLost_act s).trans ((setHolder_act _ _).toRelease.trans (settle_act _))
  · exact (setHolder_act _ s).toRelease
  · exact conflict_act a s
  · exact conflict_act a s
  · exact conflict_act a s
  · exact (setHolder_act _ s).toRelease

theorem urgent_act (hand : State → State) (h : ∀ s, FloorAct s (hand s)) (s : State) : FloorAct s (urgent hand s) :=
  (h s).trans (drainCheck_act _)

theorem claimHeard_act (a : Station) (held : Bool) (s : State) : ReleaseAct s (claimHeard a held s) := by
  unfold claimHeard; dsimp only; repeat' split
  · exact ((setFloor_act _ s).trans ((startHoldOff_act _).trans (holderShown_act _ _))).toRelease
  · exact (holderShown_act _ s).toRelease
  · exact ((setFloor_act _ s).trans (startHoldOff_act _)).toRelease
  · exact .refl s
  · exact (pendingLost_act s).trans (((setHolder_act _ _).trans (startHoldOff_act _)).toRelease.trans (settle_act _))
  · exact (pendingLost_act s).trans ((startHoldOff_act _).toRelease.trans (settle_act _))
  · exact .refl s
  · exact (setHolder_act _ s).toRelease
  · exact .refl s
  · exact (urgent_act _ heldReply_act s).toRelease
  · exact (urgent_act _ heldReply_act s).toRelease
  · exact (urgent_act _ heldReply_act s).toRelease
  · exact (setHolder_act _ s).toRelease
  · exact .refl s

theorem reliefAsked_act (a : Station) (s : State) : FloorAct s (reliefAsked a s) := by
  unfold reliefAsked; repeat' split
  all_goals first
    | exact enterYielding_act a s
    | exact .refl s
    | exact urgent_act _ (sendTo_act _ _) s

theorem reliefRefused_act (a : Station) (notHolder : Bool) (s : State) : ReleaseAct s (reliefRefused a notHolder s) := by
  unfold reliefRefused; split
  · dsimp only; split
    · exact (requestEnded_act _ s).trans (((clearHolder_act _).trans (vacancyFound_act _)).toRelease.trans (settle_act _))
    · exact (requestEnded_act _ s).trans (settle_act _)
  · exact .refl s

theorem passGained_act (a : Station) (known cut : Word) (s : State) : ReleaseAct s (passGained a known cut s) :=
  (setFlagIf_act _ _ s).toRelease.trans ((passKnown_act _ _).trans ((restream_act _ _ _).trans
    ((enterOn_act _).toRelease.trans (settle_act _))))

theorem passTaken_act (a : Station) (known cut : Word) (s : State) : ReleaseAct s (passTaken a known cut s) := by
  unfold passTaken; repeat' split
  · exact passGained_act _ _ _ s
  · exact passGained_act _ _ _ s
  · exact passGained_act _ _ _ s
  · exact passKnown_act _ s
  · exact passKnown_act _ s
  · exact passKnown_act _ s
  · exact (passKnown_act _ s).trans (clearHolder_act _).toRelease

theorem passOther_act (t : Station) (s : State) : ReleaseAct s (passOther t s) := by
  unfold passOther; dsimp only; repeat' split
  · exact (holderShown_act _ s).toRelease
  · exact (pendingLost_act s).trans ((setHolder_act _ _).toRelease.trans (settle_act _))
  · exact (setHolder_act _ s).toRelease
  · exact ((setHolder_act _ s).trans ((sendTo_act _ _ _).trans (setFloor_act _ _))).toRelease
  · exact .refl s
  · exact .refl s
  · exact .refl s
  · exact (setHolder_act _ s).toRelease

theorem dropHolder_act (a : Station) (s : State) : FloorAct s (dropHolder a s) := by
  unfold dropHolder; split
  · exact clearHolder_act s
  · exact .refl s

theorem claimFromRequest_act (s : State) : FloorAct s (claimFromRequest s) := (setFloor_act _ s).trans (claimNow_act _)

theorem floorFreed_act (a : Station) (s : State) : FloorAct s (floorFreed a s) := by
  unfold floorFreed; repeat' split
  all_goals first
    | exact .refl s
    | exact dropHolder_act a s
    | exact claimFromRequest_act s
    | exact (clearHolder_act s).trans (vacancyFound_act _)

theorem absenceReported_act (a : Station) (s : State) : FloorAct s (absenceReported a s) := by
  unfold absenceReported; repeat' split
  all_goals first
    | exact .refl s
    | exact dropHolder_act a s
    | exact claimFromRequest_act s
    | exact (clearHolder_act s).trans (vacancyFound_act _)
    | exact setFloor_act _ s

theorem vacancyExpired_act (s : State) : FloorAct s (vacancyExpired s) := by
  unfold vacancyExpired; dsimp only; split
  · exact (setHolder_act _ s).trans (restartVacancy_act _)
  · exact ((clearHolder_act s).trans (vacancyFound_act _)).trans (restartVacancy_act _)

theorem claimWaitEnded_act (s : State) : FloorAct s (claimWaitEnded s) := by
  unfold claimWaitEnded; dsimp only; split
  · exact (setFloor_act _ s).trans (claimNow_act _)
  · exact setFloor_act _ s

theorem holdOffEnded_act (s : State) : FloorAct s (holdOffEnded s) := (setFloor_act _ s).trans (vacancyFound_act _)

theorem reliefExpired_act (s : State) : ReleaseAct s (reliefExpired s) :=
  (requestEnded_act _ s).trans (settle_act _)

/-! ### Translator -/

theorem setCapture_act (c : Capture) (s : State) : CoreKept s (setCapture c s) := by constructor <;> (intros; rfl)

theorem setSequence_act (q : List PendingEntry) (s : State) : CoreKept s (setSequence q s) := by constructor <;> (intros; rfl)

theorem setSearch_act (q : Option Search) (s : State) : CoreKept s (setSearch q s) := by constructor <;> (intros; rfl)

theorem openCapture_act (s : State) : CoreKept s (openCapture s) := by
  unfold openCapture; split
  · exact setCapture_act _ s
  · exact .refl s

theorem refuseCapture_act (s : State) : CoreKept s (refuseCapture s) :=
  (setCapture_act _ s).trans (setFlag_act _ _).core

theorem outlineStroke_act (t : Taken) (r : LookupResult) (s : State) : CoreKept s (outlineStroke t r s) := by
  unfold outlineStroke; dsimp only; repeat' split
  all_goals first
    | exact refuseCapture_act s
    | exact setCapture_act _ s

theorem storeOwn_act (outline : List KeySet) (text : List Byte) (s : State) : OverlayAct s (storeOwn outline text s) := by
  unfold storeOwn; repeat' split
  · exact (setFlag_act _ s).toRelease.toOverlay
  · exact (deleteDefinition_act _ _ s).trans (broadcast_act _ _).toRelease.toOverlay
  · rename_i h; exact (storeDefinition_act h).trans (broadcast_act _ _).toRelease.toOverlay
  · exact (setFlag_act _ s).toRelease.toOverlay

theorem closeCapture_act (s : State) : CoreKept s (closeCapture s) := (storeOwn_act _ _ s).core.trans (setCapture_act _ _)

theorem undoCapture_act (s : State) : CoreKept s (undoCapture s) := by
  unfold undoCapture; dsimp only; repeat' split
  all_goals first
    | exact .refl s
    | exact setCapture_act _ s
    | exact setSequence_act _ s

theorem undoStroke_act (s : State) : CoreKept s (undoStroke s) := by
  unfold undoStroke; repeat' split
  all_goals first
    | exact (undoHistory_act s).core
    | exact setSequence_act _ s
    | exact undoCapture_act s

theorem runCommand_act (s : State) (c : Code) : CoreKept s (runCommand s c) := by
  unfold runCommand; split
  · exact openCapture_act s
  · exact (reliefCommand_act s).core
  · exact (yieldCommand_act s).core
  · exact (freeCommand_act s).core
  · exact (recordCommand_act _ s).core
  · exact (recordCommand_act _ s).core
  · exact (ackCommand_act s).core
  · exact .refl s

theorem CoreKept.fold {α : Type} (l : List α) (f : State → α → State) (h : ∀ s a, CoreKept s (f s a)) (s : State) :
    CoreKept s (l.foldl f s) := by
  induction l generalizing s with
  | nil => exact .refl _
  | cons a l ih => exact (h s a).trans (ih _)

theorem assembleAndHand_act (text : List Byte) (strokes : List Word) (start : Word) (s : State) :
    CoreKept s (assembleAndHand text strokes start s) := by
  unfold assembleAndHand; dsimp only; split
  · exact (CoreKept.fold _ _ runCommand_act s).trans ((createUnit_act _ _ _ _ _).core.trans
      (CoreKept.fold _ _ runCommand_act _))
  · exact (CoreKept.fold _ _ runCommand_act s).trans (CoreKept.fold _ _ runCommand_act _)

theorem deliver_act (r : Resolution) (strokes : List Taken) (s : State) : CoreKept s (deliver r strokes s) := by
  unfold deliver; dsimp only; split
  · unfold deliverPiece; dsimp only; repeat' split
    · exact (setCapture_act _ s).trans (closeCapture_act _)
    · exact setCapture_act _ s
    · exact setCapture_act _ s
    · exact setCapture_act _ s
  · unfold deliverUnit; split
    · exact assembleAndHand_act _ _ _ s
    · exact (createUnit_act _ _ _ _ s).core
    · exact (createUnit_act _ _ _ _ s).core

theorem resolveFront_act (s : State) : CoreKept s (resolveFront s).1 := by
  unfold resolveFront; dsimp only; split
  · exact (setSequence_act _ s).trans (deliver_act _ _ _)
  · exact .refl s
  · exact (setSequence_act _ s).trans (deliver_act _ _ _)

theorem overrunMarker_act (stroke : Word) (count : Nat) (start : Word) (s : State) :
    CoreKept s (overrunMarker stroke count start s) := by
  unfold overrunMarker; dsimp only; split
  · exact (refuseCapture_act s).trans (createUnit_act _ _ _ _ _).core
  · exact (createUnit_act _ _ _ _ s).core

theorem endEvent_act (s : State) : CoreKept s (endEvent s) := by constructor <;> (intros; rfl)

theorem askFor_act (outline : List KeySet) (w : List Work) (s : State) : CoreKept s (askFor outline w s) := by
  constructor <;> (intros; rfl)

/-- The work of an event changes nothing outside the blocks that `CoreKept` leaves open. -/
theorem runWork_act (w : List Work) (s : State) : CoreKept s (runWork w s) := by
  induction w generalizing s with
  | nil => exact endEvent_act s
  | cons x w ih =>
    cases x with
    | staleTest =>
      unfold runWork; dsimp only; repeat' split
      · exact (by constructor <;> (intros; rfl) : CoreKept s _).trans (ih _)
      · exact (by constructor <;> (intros; rfl) : CoreKept s { s with translator := { s.translator with stale := false } }).trans
          (askFor_act _ _ _)
      · exact ih s
    | recompute i =>
      unfold runWork; split
      · exact askFor_act _ _ s
      · exact ih s
    | stroke t =>
      unfold runWork; split
      · exact (undoStroke_act s).trans (ih _)
      · exact askFor_act _ _ s
    | reprocess ts =>
      cases ts with
      | nil => unfold runWork; exact ih s
      | cons t ts => unfold runWork; exact askFor_act _ _ s
    | markerMet => unfold runWork; exact (setCapture_act _ s).trans (ih _)
    | force =>
      unfold runWork; dsimp only; repeat' split
      · exact ih s
      · exact (resolveFront_act s).trans (ih _)
      · exact (resolveFront_act s).trans (askFor_act _ _ _)
    | marker stroke count start => unfold runWork; exact (overrunMarker_act _ _ _ s).trans (ih _)

theorem strokeResult_act (t : Taken) (r : LookupResult) (w : List Work) (s : State) :
    CoreKept s (strokeResult t r w s) := by
  unfold strokeResult; dsimp only; repeat' split
  · exact (outlineStroke_act _ _ s).trans (runWork_act _ _)
  · exact (setSequence_act _ s).trans (runWork_act _ _)
  · exact (setSequence_act _ s).trans ((resolveFront_act _).trans (runWork_act _ _))

theorem recomputeNext_act (i : Nat) (w : List Work) (s : State) : CoreKept s (recomputeNext i w s) := by
  unfold recomputeNext; split
  · exact askFor_act _ _ s
  · exact runWork_act _ s

theorem continueEvent_act (r : LookupResult) (s : State) : CoreKept s (continueEvent r s) := by
  unfold continueEvent; repeat' split
  · exact strokeResult_act _ _ _ s
  · exact strokeResult_act _ _ _ s
  · exact runWork_act _ s

/-! ### Lookup unit -/

theorem searchStep_act (s : State) (q : Search) (p : ProbeStep) : CoreKept s (searchStep s q p) := by
  unfold searchStep; split
  · exact setSearch_act _ s
  · exact (setSearch_act _ s).trans (setFlagIf_act _ _ _).core

theorem beginSearch_act (outline : List KeySet) (s : State) : CoreKept s (beginSearch outline s) := by
  unfold beginSearch; dsimp only; split
  · exact setSearch_act _ s
  · exact searchStep_act _ _ _

theorem takeRequest_act (s : State) : CoreKept s (takeRequest s) := by
  unfold takeRequest; repeat' split
  · exact (by constructor <;> (intros; rfl) : CoreKept s { s with lookup := { s.lookup with request := none } }).trans
      ((beginSearch_act _ _).trans (arbitrate_act _).core)
  · exact .refl s
  · exact .refl s

theorem beginEvent_act (w : List Work) (s : State) : CoreKept s (beginEvent w s) :=
  (by constructor <;> (intros; rfl) : CoreKept s { s with translator := { s.translator with resolveTimer := none } }).trans
    ((runWork_act _ _).trans (takeRequest_act _))

end Sys2Proof.Machine
end

