-- ==== Sys2Proof/Laws/State.lean ====
section
/-! SUPPORT. The named updates of State, field by field: one lemma per field per update, each true by rfl. -/

namespace Sys2Proof.Machine

/-! ### setQueue -/

@[simp] theorem setQueue_pending (q : List TxFrame) (s : State) : (setQueue q s).pending = s.pending := rfl
@[simp] theorem setQueue_freeCount (q : List TxFrame) (s : State) : (setQueue q s).freeCount = s.freeCount := rfl
@[simp] theorem setQueue_seq (q : List TxFrame) (s : State) : (setQueue q s).seq = s.seq := rfl
@[simp] theorem setQueue_settings (q : List TxFrame) (s : State) : (setQueue q s).settings = s.settings := rfl
@[simp] theorem setQueue_scanner (q : List TxFrame) (s : State) : (setQueue q s).scanner = s.scanner := rfl
@[simp] theorem setQueue_strokes (q : List TxFrame) (s : State) : (setQueue q s).strokes = s.strokes := rfl
@[simp] theorem setQueue_notes (q : List TxFrame) (s : State) : (setQueue q s).notes = s.notes := rfl
@[simp] theorem setQueue_port (q : List TxFrame) (s : State) : (setQueue q s).port = s.port := rfl
@[simp] theorem setQueue_lookup (q : List TxFrame) (s : State) : (setQueue q s).lookup = s.lookup := rfl
@[simp] theorem setQueue_translator (q : List TxFrame) (s : State) : (setQueue q s).translator = s.translator := rfl
@[simp] theorem setQueue_inbox (q : List TxFrame) (s : State) : (setQueue q s).inbox = s.inbox := rfl
@[simp] theorem setQueue_release (q : List TxFrame) (s : State) : (setQueue q s).release = s.release := rfl
@[simp] theorem setQueue_bus (q : List TxFrame) (s : State) : (setQueue q s).bus = { s.bus with queue := q } := rfl
@[simp] theorem setQueue_peers (q : List TxFrame) (s : State) : (setQueue q s).peers = s.peers := rfl
@[simp] theorem setQueue_floor (q : List TxFrame) (s : State) : (setQueue q s).floor = s.floor := rfl
@[simp] theorem setQueue_status (q : List TxFrame) (s : State) : (setQueue q s).status = s.status := rfl

/-! ### setFloor -/

@[simp] theorem setFloor_pending (f : FloorRecord) (s : State) : (setFloor f s).pending = s.pending := rfl
@[simp] theorem setFloor_freeCount (f : FloorRecord) (s : State) : (setFloor f s).freeCount = s.freeCount := rfl
@[simp] theorem setFloor_seq (f : FloorRecord) (s : State) : (setFloor f s).seq = s.seq := rfl
@[simp] theorem setFloor_settings (f : FloorRecord) (s : State) : (setFloor f s).settings = s.settings := rfl
@[simp] theorem setFloor_scanner (f : FloorRecord) (s : State) : (setFloor f s).scanner = s.scanner := rfl
@[simp] theorem setFloor_strokes (f : FloorRecord) (s : State) : (setFloor f s).strokes = s.strokes := rfl
@[simp] theorem setFloor_notes (f : FloorRecord) (s : State) : (setFloor f s).notes = s.notes := rfl
@[simp] theorem setFloor_port (f : FloorRecord) (s : State) : (setFloor f s).port = s.port := rfl
@[simp] theorem setFloor_lookup (f : FloorRecord) (s : State) : (setFloor f s).lookup = s.lookup := rfl
@[simp] theorem setFloor_translator (f : FloorRecord) (s : State) : (setFloor f s).translator = s.translator := rfl
@[simp] theorem setFloor_inbox (f : FloorRecord) (s : State) : (setFloor f s).inbox = s.inbox := rfl
@[simp] theorem setFloor_release (f : FloorRecord) (s : State) : (setFloor f s).release = s.release := rfl
@[simp] theorem setFloor_bus (f : FloorRecord) (s : State) : (setFloor f s).bus = s.bus := rfl
@[simp] theorem setFloor_peers (f : FloorRecord) (s : State) : (setFloor f s).peers = s.peers := rfl
@[simp] theorem setFloor_floor (f : FloorRecord) (s : State) : (setFloor f s).floor = f := rfl
@[simp] theorem setFloor_status (f : FloorRecord) (s : State) : (setFloor f s).status = s.status := rfl

/-! ### setHolder -/

@[simp] theorem setHolder_pending (a : Station) (s : State) : (setHolder a s).pending = s.pending := rfl
@[simp] theorem setHolder_freeCount (a : Station) (s : State) : (setHolder a s).freeCount = s.freeCount := rfl
@[simp] theorem setHolder_seq (a : Station) (s : State) : (setHolder a s).seq = s.seq := rfl
@[simp] theorem setHolder_settings (a : Station) (s : State) : (setHolder a s).settings = s.settings := rfl
@[simp] theorem setHolder_scanner (a : Station) (s : State) : (setHolder a s).scanner = s.scanner := rfl
@[simp] theorem setHolder_strokes (a : Station) (s : State) : (setHolder a s).strokes = s.strokes := rfl
@[simp] theorem setHolder_notes (a : Station) (s : State) : (setHolder a s).notes = s.notes := rfl
@[simp] theorem setHolder_port (a : Station) (s : State) : (setHolder a s).port = s.port := rfl
@[simp] theorem setHolder_lookup (a : Station) (s : State) : (setHolder a s).lookup = s.lookup := rfl
@[simp] theorem setHolder_translator (a : Station) (s : State) : (setHolder a s).translator = s.translator := rfl
@[simp] theorem setHolder_inbox (a : Station) (s : State) : (setHolder a s).inbox = s.inbox := rfl
@[simp] theorem setHolder_release (a : Station) (s : State) : (setHolder a s).release = s.release := rfl
@[simp] theorem setHolder_bus (a : Station) (s : State) : (setHolder a s).bus = s.bus := rfl
@[simp] theorem setHolder_peers (a : Station) (s : State) : (setHolder a s).peers = s.peers := rfl
@[simp] theorem setHolder_floor (a : Station) (s : State) :
    (setHolder a s).floor =
      { s.floor with holder := some a, withdrawn := s.floor.withdrawn && decide (a = s.seq.addr) } := rfl
@[simp] theorem setHolder_status (a : Station) (s : State) : (setHolder a s).status = s.status := rfl

/-! ### clearHolder -/

@[simp] theorem clearHolder_pending (s : State) : (clearHolder s).pending = s.pending := rfl
@[simp] theorem clearHolder_freeCount (s : State) : (clearHolder s).freeCount = s.freeCount := rfl
@[simp] theorem clearHolder_seq (s : State) : (clearHolder s).seq = s.seq := rfl
@[simp] theorem clearHolder_settings (s : State) : (clearHolder s).settings = s.settings := rfl
@[simp] theorem clearHolder_scanner (s : State) : (clearHolder s).scanner = s.scanner := rfl
@[simp] theorem clearHolder_strokes (s : State) : (clearHolder s).strokes = s.strokes := rfl
@[simp] theorem clearHolder_notes (s : State) : (clearHolder s).notes = s.notes := rfl
@[simp] theorem clearHolder_port (s : State) : (clearHolder s).port = s.port := rfl
@[simp] theorem clearHolder_lookup (s : State) : (clearHolder s).lookup = s.lookup := rfl
@[simp] theorem clearHolder_translator (s : State) : (clearHolder s).translator = s.translator := rfl
@[simp] theorem clearHolder_inbox (s : State) : (clearHolder s).inbox = s.inbox := rfl
@[simp] theorem clearHolder_release (s : State) : (clearHolder s).release = s.release := rfl
@[simp] theorem clearHolder_bus (s : State) : (clearHolder s).bus = s.bus := rfl
@[simp] theorem clearHolder_peers (s : State) : (clearHolder s).peers = s.peers := rfl
@[simp] theorem clearHolder_floor (s : State) : (clearHolder s).floor = { s.floor with holder := none } := rfl
@[simp] theorem clearHolder_status (s : State) : (clearHolder s).status = s.status := rfl

/-! ### startHoldOff -/

@[simp] theorem startHoldOff_pending (s : State) : (startHoldOff s).pending = s.pending := rfl
@[simp] theorem startHoldOff_freeCount (s : State) : (startHoldOff s).freeCount = s.freeCount := rfl
@[simp] theorem startHoldOff_seq (s : State) : (startHoldOff s).seq = s.seq := rfl
@[simp] theorem startHoldOff_settings (s : State) : (startHoldOff s).settings = s.settings := rfl
@[simp] theorem startHoldOff_scanner (s : State) : (startHoldOff s).scanner = s.scanner := rfl
@[simp] theorem startHoldOff_strokes (s : State) : (startHoldOff s).strokes = s.strokes := rfl
@[simp] theorem startHoldOff_notes (s : State) : (startHoldOff s).notes = s.notes := rfl
@[simp] theorem startHoldOff_port (s : State) : (startHoldOff s).port = s.port := rfl
@[simp] theorem startHoldOff_lookup (s : State) : (startHoldOff s).lookup = s.lookup := rfl
@[simp] theorem startHoldOff_translator (s : State) : (startHoldOff s).translator = s.translator := rfl
@[simp] theorem startHoldOff_inbox (s : State) : (startHoldOff s).inbox = s.inbox := rfl
@[simp] theorem startHoldOff_release (s : State) : (startHoldOff s).release = s.release := rfl
@[simp] theorem startHoldOff_bus (s : State) : (startHoldOff s).bus = s.bus := rfl
@[simp] theorem startHoldOff_peers (s : State) : (startHoldOff s).peers = s.peers := rfl
@[simp] theorem startHoldOff_floor (s : State) :
    (startHoldOff s).floor = { s.floor with holdOff := some (holdOffPeriod s) } := rfl
@[simp] theorem startHoldOff_status (s : State) : (startHoldOff s).status = s.status := rfl

/-! ### setSearch -/

@[simp] theorem setSearch_pending (q : Option Search) (s : State) : (setSearch q s).pending = s.pending := rfl
@[simp] theorem setSearch_freeCount (q : Option Search) (s : State) : (setSearch q s).freeCount = s.freeCount := rfl
@[simp] theorem setSearch_seq (q : Option Search) (s : State) : (setSearch q s).seq = s.seq := rfl
@[simp] theorem setSearch_settings (q : Option Search) (s : State) : (setSearch q s).settings = s.settings := rfl
@[simp] theorem setSearch_scanner (q : Option Search) (s : State) : (setSearch q s).scanner = s.scanner := rfl
@[simp] theorem setSearch_strokes (q : Option Search) (s : State) : (setSearch q s).strokes = s.strokes := rfl
@[simp] theorem setSearch_notes (q : Option Search) (s : State) : (setSearch q s).notes = s.notes := rfl
@[simp] theorem setSearch_port (q : Option Search) (s : State) : (setSearch q s).port = s.port := rfl
@[simp] theorem setSearch_lookup (q : Option Search) (s : State) :
    (setSearch q s).lookup = { s.lookup with search := q } := rfl
@[simp] theorem setSearch_translator (q : Option Search) (s : State) : (setSearch q s).translator = s.translator := rfl
@[simp] theorem setSearch_inbox (q : Option Search) (s : State) : (setSearch q s).inbox = s.inbox := rfl
@[simp] theorem setSearch_release (q : Option Search) (s : State) : (setSearch q s).release = s.release := rfl
@[simp] theorem setSearch_bus (q : Option Search) (s : State) : (setSearch q s).bus = s.bus := rfl
@[simp] theorem setSearch_peers (q : Option Search) (s : State) : (setSearch q s).peers = s.peers := rfl
@[simp] theorem setSearch_floor (q : Option Search) (s : State) : (setSearch q s).floor = s.floor := rfl
@[simp] theorem setSearch_status (q : Option Search) (s : State) : (setSearch q s).status = s.status := rfl

/-! ### setCapture -/

@[simp] theorem setCapture_pending (c : Capture) (s : State) : (setCapture c s).pending = s.pending := rfl
@[simp] theorem setCapture_freeCount (c : Capture) (s : State) : (setCapture c s).freeCount = s.freeCount := rfl
@[simp] theorem setCapture_seq (c : Capture) (s : State) : (setCapture c s).seq = s.seq := rfl
@[simp] theorem setCapture_settings (c : Capture) (s : State) : (setCapture c s).settings = s.settings := rfl
@[simp] theorem setCapture_scanner (c : Capture) (s : State) : (setCapture c s).scanner = s.scanner := rfl
@[simp] theorem setCapture_strokes (c : Capture) (s : State) : (setCapture c s).strokes = s.strokes := rfl
@[simp] theorem setCapture_notes (c : Capture) (s : State) : (setCapture c s).notes = s.notes := rfl
@[simp] theorem setCapture_port (c : Capture) (s : State) : (setCapture c s).port = s.port := rfl
@[simp] theorem setCapture_lookup (c : Capture) (s : State) : (setCapture c s).lookup = s.lookup := rfl
@[simp] theorem setCapture_translator (c : Capture) (s : State) :
    (setCapture c s).translator = { s.translator with capture := c } := rfl
@[simp] theorem setCapture_inbox (c : Capture) (s : State) : (setCapture c s).inbox = s.inbox := rfl
@[simp] theorem setCapture_release (c : Capture) (s : State) : (setCapture c s).release = s.release := rfl
@[simp] theorem setCapture_bus (c : Capture) (s : State) : (setCapture c s).bus = s.bus := rfl
@[simp] theorem setCapture_peers (c : Capture) (s : State) : (setCapture c s).peers = s.peers := rfl
@[simp] theorem setCapture_floor (c : Capture) (s : State) : (setCapture c s).floor = s.floor := rfl
@[simp] theorem setCapture_status (c : Capture) (s : State) : (setCapture c s).status = s.status := rfl

/-! ### meetMarker -/

@[simp] theorem meetMarker_pending (s : State) : (meetMarker s).pending = s.pending := rfl
@[simp] theorem meetMarker_freeCount (s : State) : (meetMarker s).freeCount = s.freeCount := rfl
@[simp] theorem meetMarker_seq (s : State) : (meetMarker s).seq = s.seq := rfl
@[simp] theorem meetMarker_settings (s : State) : (meetMarker s).settings = s.settings := rfl
@[simp] theorem meetMarker_scanner (s : State) : (meetMarker s).scanner = s.scanner := rfl
@[simp] theorem meetMarker_strokes (s : State) : (meetMarker s).strokes = s.strokes := rfl
@[simp] theorem meetMarker_notes (s : State) : (meetMarker s).notes = s.notes := rfl
@[simp] theorem meetMarker_port (s : State) : (meetMarker s).port = s.port := rfl
@[simp] theorem meetMarker_lookup (s : State) : (meetMarker s).lookup = s.lookup := rfl
@[simp] theorem meetMarker_translator (s : State) :
    (meetMarker s).translator =
      { s.translator with
        capture :=
          { s.translator.capture with
            abandoned := s.translator.capture.abandoned || decide (s.translator.capture.state ≠ .normal) } } := rfl
@[simp] theorem meetMarker_inbox (s : State) : (meetMarker s).inbox = s.inbox := rfl
@[simp] theorem meetMarker_release (s : State) : (meetMarker s).release = s.release := rfl
@[simp] theorem meetMarker_bus (s : State) : (meetMarker s).bus = s.bus := rfl
@[simp] theorem meetMarker_peers (s : State) : (meetMarker s).peers = s.peers := rfl
@[simp] theorem meetMarker_floor (s : State) : (meetMarker s).floor = s.floor := rfl
@[simp] theorem meetMarker_status (s : State) : (meetMarker s).status = s.status := rfl

/-! ### setSequence -/

@[simp] theorem setSequence_pending (q : List PendingEntry) (s : State) : (setSequence q s).pending = s.pending := rfl
@[simp] theorem setSequence_freeCount (q : List PendingEntry) (s : State) :
    (setSequence q s).freeCount = s.freeCount := rfl
@[simp] theorem setSequence_seq (q : List PendingEntry) (s : State) : (setSequence q s).seq = s.seq := rfl
@[simp] theorem setSequence_settings (q : List PendingEntry) (s : State) :
    (setSequence q s).settings = s.settings := rfl
@[simp] theorem setSequence_scanner (q : List PendingEntry) (s : State) : (setSequence q s).scanner = s.scanner := rfl
@[simp] theorem setSequence_strokes (q : List PendingEntry) (s : State) : (setSequence q s).strokes = s.strokes := rfl
@[simp] theorem setSequence_notes (q : List PendingEntry) (s : State) : (setSequence q s).notes = s.notes := rfl
@[simp] theorem setSequence_port (q : List PendingEntry) (s : State) : (setSequence q s).port = s.port := rfl
@[simp] theorem setSequence_lookup (q : List PendingEntry) (s : State) : (setSequence q s).lookup = s.lookup := rfl
@[simp] theorem setSequence_translator (q : List PendingEntry) (s : State) :
    (setSequence q s).translator = { s.translator with sequence := q } := rfl
@[simp] theorem setSequence_inbox (q : List PendingEntry) (s : State) : (setSequence q s).inbox = s.inbox := rfl
@[simp] theorem setSequence_release (q : List PendingEntry) (s : State) : (setSequence q s).release = s.release := rfl
@[simp] theorem setSequence_bus (q : List PendingEntry) (s : State) : (setSequence q s).bus = s.bus := rfl
@[simp] theorem setSequence_peers (q : List PendingEntry) (s : State) : (setSequence q s).peers = s.peers := rfl
@[simp] theorem setSequence_floor (q : List PendingEntry) (s : State) : (setSequence q s).floor = s.floor := rfl
@[simp] theorem setSequence_status (q : List PendingEntry) (s : State) : (setSequence q s).status = s.status := rfl

/-! ### setHistory -/

@[simp] theorem setHistory_pending (h : List TextUnit) (s : State) : (setHistory h s).pending = s.pending := rfl
@[simp] theorem setHistory_freeCount (h : List TextUnit) (s : State) : (setHistory h s).freeCount = s.freeCount := rfl
@[simp] theorem setHistory_seq (h : List TextUnit) (s : State) : (setHistory h s).seq = s.seq := rfl
@[simp] theorem setHistory_settings (h : List TextUnit) (s : State) : (setHistory h s).settings = s.settings := rfl
@[simp] theorem setHistory_scanner (h : List TextUnit) (s : State) : (setHistory h s).scanner = s.scanner := rfl
@[simp] theorem setHistory_strokes (h : List TextUnit) (s : State) : (setHistory h s).strokes = s.strokes := rfl
@[simp] theorem setHistory_notes (h : List TextUnit) (s : State) : (setHistory h s).notes = s.notes := rfl
@[simp] theorem setHistory_port (h : List TextUnit) (s : State) : (setHistory h s).port = s.port := rfl
@[simp] theorem setHistory_lookup (h : List TextUnit) (s : State) : (setHistory h s).lookup = s.lookup := rfl
@[simp] theorem setHistory_translator (h : List TextUnit) (s : State) :
    (setHistory h s).translator = { s.translator with history := h } := rfl
@[simp] theorem setHistory_inbox (h : List TextUnit) (s : State) : (setHistory h s).inbox = s.inbox := rfl
@[simp] theorem setHistory_release (h : List TextUnit) (s : State) : (setHistory h s).release = s.release := rfl
@[simp] theorem setHistory_bus (h : List TextUnit) (s : State) : (setHistory h s).bus = s.bus := rfl
@[simp] theorem setHistory_peers (h : List TextUnit) (s : State) : (setHistory h s).peers = s.peers := rfl
@[simp] theorem setHistory_floor (h : List TextUnit) (s : State) : (setHistory h s).floor = s.floor := rfl
@[simp] theorem setHistory_status (h : List TextUnit) (s : State) : (setHistory h s).status = s.status := rfl

/-! ### setStale -/

@[simp] theorem setStale_pending (s : State) : (setStale s).pending = s.pending := rfl
@[simp] theorem setStale_freeCount (s : State) : (setStale s).freeCount = s.freeCount := rfl
@[simp] theorem setStale_seq (s : State) : (setStale s).seq = s.seq := rfl
@[simp] theorem setStale_settings (s : State) : (setStale s).settings = s.settings := rfl
@[simp] theorem setStale_scanner (s : State) : (setStale s).scanner = s.scanner := rfl
@[simp] theorem setStale_strokes (s : State) : (setStale s).strokes = s.strokes := rfl
@[simp] theorem setStale_notes (s : State) : (setStale s).notes = s.notes := rfl
@[simp] theorem setStale_port (s : State) : (setStale s).port = s.port := rfl
@[simp] theorem setStale_lookup (s : State) : (setStale s).lookup = s.lookup := rfl
@[simp] theorem setStale_translator (s : State) : (setStale s).translator = { s.translator with stale := true } := rfl
@[simp] theorem setStale_inbox (s : State) : (setStale s).inbox = s.inbox := rfl
@[simp] theorem setStale_release (s : State) : (setStale s).release = s.release := rfl
@[simp] theorem setStale_bus (s : State) : (setStale s).bus = s.bus := rfl
@[simp] theorem setStale_peers (s : State) : (setStale s).peers = s.peers := rfl
@[simp] theorem setStale_floor (s : State) : (setStale s).floor = s.floor := rfl
@[simp] theorem setStale_status (s : State) : (setStale s).status = s.status := rfl

/-! ### askFor -/

@[simp] theorem askFor_pending (outline : List KeySet) (w : List Work) (s : State) :
    (askFor outline w s).pending = s.pending := rfl
@[simp] theorem askFor_freeCount (outline : List KeySet) (w : List Work) (s : State) :
    (askFor outline w s).freeCount = s.freeCount := rfl
@[simp] theorem askFor_seq (outline : List KeySet) (w : List Work) (s : State) : (askFor outline w s).seq = s.seq := rfl
@[simp] theorem askFor_settings (outline : List KeySet) (w : List Work) (s : State) :
    (askFor outline w s).settings = s.settings := rfl
@[simp] theorem askFor_scanner (outline : List KeySet) (w : List Work) (s : State) :
    (askFor outline w s).scanner = s.scanner := rfl
@[simp] theorem askFor_strokes (outline : List KeySet) (w : List Work) (s : State) :
    (askFor outline w s).strokes = s.strokes := rfl
@[simp] theorem askFor_notes (outline : List KeySet) (w : List Work) (s : State) :
    (askFor outline w s).notes = s.notes := rfl
@[simp] theorem askFor_port (outline : List KeySet) (w : List Work) (s : State) :
    (askFor outline w s).port = s.port := rfl
@[simp] theorem askFor_lookup (outline : List KeySet) (w : List Work) (s : State) :
    (askFor outline w s).lookup = { s.lookup with request := some outline } := rfl
@[simp] theorem askFor_translator (outline : List KeySet) (w : List Work) (s : State) :
    (askFor outline w s).translator = { s.translator with work := w } := rfl
@[simp] theorem askFor_inbox (outline : List KeySet) (w : List Work) (s : State) :
    (askFor outline w s).inbox = s.inbox := rfl
@[simp] theorem askFor_release (outline : List KeySet) (w : List Work) (s : State) :
    (askFor outline w s).release = s.release := rfl
@[simp] theorem askFor_bus (outline : List KeySet) (w : List Work) (s : State) : (askFor outline w s).bus = s.bus := rfl
@[simp] theorem askFor_peers (outline : List KeySet) (w : List Work) (s : State) :
    (askFor outline w s).peers = s.peers := rfl
@[simp] theorem askFor_floor (outline : List KeySet) (w : List Work) (s : State) :
    (askFor outline w s).floor = s.floor := rfl
@[simp] theorem askFor_status (outline : List KeySet) (w : List Work) (s : State) :
    (askFor outline w s).status = s.status := rfl

/-! ### setBurst -/

@[simp] theorem setBurst_pending (b : Option Burst) (s : State) : (setBurst b s).pending = s.pending := rfl
@[simp] theorem setBurst_freeCount (b : Option Burst) (s : State) : (setBurst b s).freeCount = s.freeCount := rfl
@[simp] theorem setBurst_seq (b : Option Burst) (s : State) : (setBurst b s).seq = s.seq := rfl
@[simp] theorem setBurst_settings (b : Option Burst) (s : State) : (setBurst b s).settings = s.settings := rfl
@[simp] theorem setBurst_scanner (b : Option Burst) (s : State) : (setBurst b s).scanner = s.scanner := rfl
@[simp] theorem setBurst_strokes (b : Option Burst) (s : State) : (setBurst b s).strokes = s.strokes := rfl
@[simp] theorem setBurst_notes (b : Option Burst) (s : State) :
    (setBurst b s).notes = { s.notes with burst := b } := rfl
@[simp] theorem setBurst_port (b : Option Burst) (s : State) : (setBurst b s).port = s.port := rfl
@[simp] theorem setBurst_lookup (b : Option Burst) (s : State) : (setBurst b s).lookup = s.lookup := rfl
@[simp] theorem setBurst_translator (b : Option Burst) (s : State) : (setBurst b s).translator = s.translator := rfl
@[simp] theorem setBurst_inbox (b : Option Burst) (s : State) : (setBurst b s).inbox = s.inbox := rfl
@[simp] theorem setBurst_release (b : Option Burst) (s : State) : (setBurst b s).release = s.release := rfl
@[simp] theorem setBurst_bus (b : Option Burst) (s : State) : (setBurst b s).bus = s.bus := rfl
@[simp] theorem setBurst_peers (b : Option Burst) (s : State) : (setBurst b s).peers = s.peers := rfl
@[simp] theorem setBurst_floor (b : Option Burst) (s : State) : (setBurst b s).floor = s.floor := rfl
@[simp] theorem setBurst_status (b : Option Burst) (s : State) : (setBurst b s).status = s.status := rfl

/-! ### loseNote -/

@[simp] theorem loseNote_pending (s : State) : (loseNote s).pending = s.pending := rfl
@[simp] theorem loseNote_freeCount (s : State) : (loseNote s).freeCount = s.freeCount := rfl
@[simp] theorem loseNote_seq (s : State) : (loseNote s).seq = s.seq := rfl
@[simp] theorem loseNote_settings (s : State) : (loseNote s).settings = s.settings := rfl
@[simp] theorem loseNote_scanner (s : State) : (loseNote s).scanner = s.scanner := rfl
@[simp] theorem loseNote_strokes (s : State) : (loseNote s).strokes = s.strokes := rfl
@[simp] theorem loseNote_notes (s : State) :
    (loseNote s).notes = { s.notes with lostCount := addLost s.notes.lostCount 1 } := rfl
@[simp] theorem loseNote_port (s : State) : (loseNote s).port = s.port := rfl
@[simp] theorem loseNote_lookup (s : State) : (loseNote s).lookup = s.lookup := rfl
@[simp] theorem loseNote_translator (s : State) : (loseNote s).translator = s.translator := rfl
@[simp] theorem loseNote_inbox (s : State) : (loseNote s).inbox = s.inbox := rfl
@[simp] theorem loseNote_release (s : State) : (loseNote s).release = s.release := rfl
@[simp] theorem loseNote_bus (s : State) : (loseNote s).bus = s.bus := rfl
@[simp] theorem loseNote_peers (s : State) : (loseNote s).peers = s.peers := rfl
@[simp] theorem loseNote_floor (s : State) : (loseNote s).floor = s.floor := rfl
@[simp] theorem loseNote_status (s : State) : (loseNote s).status = s.status := rfl

/-! ### advanceWrite -/

@[simp] theorem advanceWrite_pending (k : Nat) (s : State) : (advanceWrite k s).pending = s.pending := rfl
@[simp] theorem advanceWrite_freeCount (k : Nat) (s : State) : (advanceWrite k s).freeCount = s.freeCount := rfl
@[simp] theorem advanceWrite_seq (k : Nat) (s : State) : (advanceWrite k s).seq = s.seq := rfl
@[simp] theorem advanceWrite_settings (k : Nat) (s : State) : (advanceWrite k s).settings = s.settings := rfl
@[simp] theorem advanceWrite_scanner (k : Nat) (s : State) : (advanceWrite k s).scanner = s.scanner := rfl
@[simp] theorem advanceWrite_strokes (k : Nat) (s : State) : (advanceWrite k s).strokes = s.strokes := rfl
@[simp] theorem advanceWrite_notes (k : Nat) (s : State) :
    (advanceWrite k s).notes = { s.notes with writePos := some (s.notes.writePos.getD 0 + 16 * k) } := rfl
@[simp] theorem advanceWrite_port (k : Nat) (s : State) : (advanceWrite k s).port = s.port := rfl
@[simp] theorem advanceWrite_lookup (k : Nat) (s : State) : (advanceWrite k s).lookup = s.lookup := rfl
@[simp] theorem advanceWrite_translator (k : Nat) (s : State) : (advanceWrite k s).translator = s.translator := rfl
@[simp] theorem advanceWrite_inbox (k : Nat) (s : State) : (advanceWrite k s).inbox = s.inbox := rfl
@[simp] theorem advanceWrite_release (k : Nat) (s : State) : (advanceWrite k s).release = s.release := rfl
@[simp] theorem advanceWrite_bus (k : Nat) (s : State) : (advanceWrite k s).bus = s.bus := rfl
@[simp] theorem advanceWrite_peers (k : Nat) (s : State) : (advanceWrite k s).peers = s.peers := rfl
@[simp] theorem advanceWrite_floor (k : Nat) (s : State) : (advanceWrite k s).floor = s.floor := rfl
@[simp] theorem advanceWrite_status (k : Nat) (s : State) : (advanceWrite k s).status = s.status := rfl

/-! ### startProgram -/

@[simp] theorem startProgram_pending (s : State) : (startProgram s).pending = s.pending := rfl
@[simp] theorem startProgram_freeCount (s : State) : (startProgram s).freeCount = s.freeCount := rfl
@[simp] theorem startProgram_seq (s : State) : (startProgram s).seq = s.seq := rfl
@[simp] theorem startProgram_settings (s : State) : (startProgram s).settings = s.settings := rfl
@[simp] theorem startProgram_scanner (s : State) : (startProgram s).scanner = s.scanner := rfl
@[simp] theorem startProgram_strokes (s : State) : (startProgram s).strokes = s.strokes := rfl
@[simp] theorem startProgram_notes (s : State) : (startProgram s).notes = s.notes := rfl
@[simp] theorem startProgram_port (s : State) :
    (startProgram s).port =
      { s.port with
        flash := if programAllowed s then .programming else s.port.flash
        timer := if programAllowed s then some programLimit else s.port.timer
        burstGranted := false } := rfl
@[simp] theorem startProgram_lookup (s : State) : (startProgram s).lookup = s.lookup := rfl
@[simp] theorem startProgram_translator (s : State) : (startProgram s).translator = s.translator := rfl
@[simp] theorem startProgram_inbox (s : State) : (startProgram s).inbox = s.inbox := rfl
@[simp] theorem startProgram_release (s : State) : (startProgram s).release = s.release := rfl
@[simp] theorem startProgram_bus (s : State) : (startProgram s).bus = s.bus := rfl
@[simp] theorem startProgram_peers (s : State) : (startProgram s).peers = s.peers := rfl
@[simp] theorem startProgram_floor (s : State) : (startProgram s).floor = s.floor := rfl
@[simp] theorem startProgram_status (s : State) : (startProgram s).status = s.status := rfl

/-! ### endProgram -/

@[simp] theorem endProgram_pending (s : State) : (endProgram s).pending = s.pending := rfl
@[simp] theorem endProgram_freeCount (s : State) : (endProgram s).freeCount = s.freeCount := rfl
@[simp] theorem endProgram_seq (s : State) : (endProgram s).seq = s.seq := rfl
@[simp] theorem endProgram_settings (s : State) : (endProgram s).settings = s.settings := rfl
@[simp] theorem endProgram_scanner (s : State) : (endProgram s).scanner = s.scanner := rfl
@[simp] theorem endProgram_strokes (s : State) : (endProgram s).strokes = s.strokes := rfl
@[simp] theorem endProgram_notes (s : State) : (endProgram s).notes = s.notes := rfl
@[simp] theorem endProgram_port (s : State) : (endProgram s).port = { s.port with flash := .free, timer := none } := rfl
@[simp] theorem endProgram_lookup (s : State) : (endProgram s).lookup = s.lookup := rfl
@[simp] theorem endProgram_translator (s : State) : (endProgram s).translator = s.translator := rfl
@[simp] theorem endProgram_inbox (s : State) : (endProgram s).inbox = s.inbox := rfl
@[simp] theorem endProgram_release (s : State) : (endProgram s).release = s.release := rfl
@[simp] theorem endProgram_bus (s : State) : (endProgram s).bus = s.bus := rfl
@[simp] theorem endProgram_peers (s : State) : (endProgram s).peers = s.peers := rfl
@[simp] theorem endProgram_floor (s : State) : (endProgram s).floor = s.floor := rfl
@[simp] theorem endProgram_status (s : State) : (endProgram s).status = s.status := rfl

/-! ### setFlash -/

@[simp] theorem setFlash_pending (f : FlashState) (s : State) : (setFlash f s).pending = s.pending := rfl
@[simp] theorem setFlash_freeCount (f : FlashState) (s : State) : (setFlash f s).freeCount = s.freeCount := rfl
@[simp] theorem setFlash_seq (f : FlashState) (s : State) : (setFlash f s).seq = s.seq := rfl
@[simp] theorem setFlash_settings (f : FlashState) (s : State) : (setFlash f s).settings = s.settings := rfl
@[simp] theorem setFlash_scanner (f : FlashState) (s : State) : (setFlash f s).scanner = s.scanner := rfl
@[simp] theorem setFlash_strokes (f : FlashState) (s : State) : (setFlash f s).strokes = s.strokes := rfl
@[simp] theorem setFlash_notes (f : FlashState) (s : State) : (setFlash f s).notes = s.notes := rfl
@[simp] theorem setFlash_port (f : FlashState) (s : State) : (setFlash f s).port = { s.port with flash := f } := rfl
@[simp] theorem setFlash_lookup (f : FlashState) (s : State) : (setFlash f s).lookup = s.lookup := rfl
@[simp] theorem setFlash_translator (f : FlashState) (s : State) : (setFlash f s).translator = s.translator := rfl
@[simp] theorem setFlash_inbox (f : FlashState) (s : State) : (setFlash f s).inbox = s.inbox := rfl
@[simp] theorem setFlash_release (f : FlashState) (s : State) : (setFlash f s).release = s.release := rfl
@[simp] theorem setFlash_bus (f : FlashState) (s : State) : (setFlash f s).bus = s.bus := rfl
@[simp] theorem setFlash_peers (f : FlashState) (s : State) : (setFlash f s).peers = s.peers := rfl
@[simp] theorem setFlash_floor (f : FlashState) (s : State) : (setFlash f s).floor = s.floor := rfl
@[simp] theorem setFlash_status (f : FlashState) (s : State) : (setFlash f s).status = s.status := rfl

/-! ### setPhase -/

@[simp] theorem setPhase_pending (p : Phase) (s : State) : (setPhase p s).pending = s.pending := rfl
@[simp] theorem setPhase_freeCount (p : Phase) (s : State) : (setPhase p s).freeCount = s.freeCount := rfl
@[simp] theorem setPhase_seq (p : Phase) (s : State) : (setPhase p s).seq = { s.seq with phase := p } := rfl
@[simp] theorem setPhase_settings (p : Phase) (s : State) : (setPhase p s).settings = s.settings := rfl
@[simp] theorem setPhase_scanner (p : Phase) (s : State) : (setPhase p s).scanner = s.scanner := rfl
@[simp] theorem setPhase_strokes (p : Phase) (s : State) : (setPhase p s).strokes = s.strokes := rfl
@[simp] theorem setPhase_notes (p : Phase) (s : State) : (setPhase p s).notes = s.notes := rfl
@[simp] theorem setPhase_port (p : Phase) (s : State) : (setPhase p s).port = s.port := rfl
@[simp] theorem setPhase_lookup (p : Phase) (s : State) : (setPhase p s).lookup = s.lookup := rfl
@[simp] theorem setPhase_translator (p : Phase) (s : State) : (setPhase p s).translator = s.translator := rfl
@[simp] theorem setPhase_inbox (p : Phase) (s : State) : (setPhase p s).inbox = s.inbox := rfl
@[simp] theorem setPhase_release (p : Phase) (s : State) : (setPhase p s).release = s.release := rfl
@[simp] theorem setPhase_bus (p : Phase) (s : State) : (setPhase p s).bus = s.bus := rfl
@[simp] theorem setPhase_peers (p : Phase) (s : State) : (setPhase p s).peers = s.peers := rfl
@[simp] theorem setPhase_floor (p : Phase) (s : State) : (setPhase p s).floor = s.floor := rfl
@[simp] theorem setPhase_status (p : Phase) (s : State) : (setPhase p s).status = s.status := rfl

/-! ### setLoadStep -/

@[simp] theorem setLoadStep_pending (l : LoadStep) (s : State) : (setLoadStep l s).pending = s.pending := rfl
@[simp] theorem setLoadStep_freeCount (l : LoadStep) (s : State) : (setLoadStep l s).freeCount = s.freeCount := rfl
@[simp] theorem setLoadStep_seq (l : LoadStep) (s : State) : (setLoadStep l s).seq = { s.seq with loadStep := l } := rfl
@[simp] theorem setLoadStep_settings (l : LoadStep) (s : State) : (setLoadStep l s).settings = s.settings := rfl
@[simp] theorem setLoadStep_scanner (l : LoadStep) (s : State) : (setLoadStep l s).scanner = s.scanner := rfl
@[simp] theorem setLoadStep_strokes (l : LoadStep) (s : State) : (setLoadStep l s).strokes = s.strokes := rfl
@[simp] theorem setLoadStep_notes (l : LoadStep) (s : State) : (setLoadStep l s).notes = s.notes := rfl
@[simp] theorem setLoadStep_port (l : LoadStep) (s : State) : (setLoadStep l s).port = s.port := rfl
@[simp] theorem setLoadStep_lookup (l : LoadStep) (s : State) : (setLoadStep l s).lookup = s.lookup := rfl
@[simp] theorem setLoadStep_translator (l : LoadStep) (s : State) : (setLoadStep l s).translator = s.translator := rfl
@[simp] theorem setLoadStep_inbox (l : LoadStep) (s : State) : (setLoadStep l s).inbox = s.inbox := rfl
@[simp] theorem setLoadStep_release (l : LoadStep) (s : State) : (setLoadStep l s).release = s.release := rfl
@[simp] theorem setLoadStep_bus (l : LoadStep) (s : State) : (setLoadStep l s).bus = s.bus := rfl
@[simp] theorem setLoadStep_peers (l : LoadStep) (s : State) : (setLoadStep l s).peers = s.peers := rfl
@[simp] theorem setLoadStep_floor (l : LoadStep) (s : State) : (setLoadStep l s).floor = s.floor := rfl
@[simp] theorem setLoadStep_status (l : LoadStep) (s : State) : (setLoadStep l s).status = s.status := rfl

/-! ### setPeer -/

@[simp] theorem setPeer_pending (a : Station) (p : Peer) (s : State) : (setPeer a p s).pending = s.pending := rfl
@[simp] theorem setPeer_freeCount (a : Station) (p : Peer) (s : State) : (setPeer a p s).freeCount = s.freeCount := rfl
@[simp] theorem setPeer_seq (a : Station) (p : Peer) (s : State) : (setPeer a p s).seq = s.seq := rfl
@[simp] theorem setPeer_settings (a : Station) (p : Peer) (s : State) : (setPeer a p s).settings = s.settings := rfl
@[simp] theorem setPeer_scanner (a : Station) (p : Peer) (s : State) : (setPeer a p s).scanner = s.scanner := rfl
@[simp] theorem setPeer_strokes (a : Station) (p : Peer) (s : State) : (setPeer a p s).strokes = s.strokes := rfl
@[simp] theorem setPeer_notes (a : Station) (p : Peer) (s : State) : (setPeer a p s).notes = s.notes := rfl
@[simp] theorem setPeer_port (a : Station) (p : Peer) (s : State) : (setPeer a p s).port = s.port := rfl
@[simp] theorem setPeer_lookup (a : Station) (p : Peer) (s : State) : (setPeer a p s).lookup = s.lookup := rfl
@[simp] theorem setPeer_translator (a : Station) (p : Peer) (s : State) :
    (setPeer a p s).translator = s.translator := rfl
@[simp] theorem setPeer_inbox (a : Station) (p : Peer) (s : State) : (setPeer a p s).inbox = s.inbox := rfl
@[simp] theorem setPeer_release (a : Station) (p : Peer) (s : State) : (setPeer a p s).release = s.release := rfl
@[simp] theorem setPeer_bus (a : Station) (p : Peer) (s : State) : (setPeer a p s).bus = s.bus := rfl
@[simp] theorem setPeer_peers (a : Station) (p : Peer) (s : State) :
    (setPeer a p s).peers = { s.peers with table := s.peers.table.set a.toNat p } := rfl
@[simp] theorem setPeer_floor (a : Station) (p : Peer) (s : State) : (setPeer a p s).floor = s.floor := rfl
@[simp] theorem setPeer_status (a : Station) (p : Peer) (s : State) : (setPeer a p s).status = s.status := rfl

/-! ### raiseKnown -/

@[simp] theorem raiseKnown_pending (v : Word) (s : State) : (raiseKnown v s).pending = s.pending := rfl
@[simp] theorem raiseKnown_freeCount (v : Word) (s : State) : (raiseKnown v s).freeCount = s.freeCount := rfl
@[simp] theorem raiseKnown_seq (v : Word) (s : State) : (raiseKnown v s).seq = s.seq := rfl
@[simp] theorem raiseKnown_settings (v : Word) (s : State) : (raiseKnown v s).settings = s.settings := rfl
@[simp] theorem raiseKnown_scanner (v : Word) (s : State) : (raiseKnown v s).scanner = s.scanner := rfl
@[simp] theorem raiseKnown_strokes (v : Word) (s : State) : (raiseKnown v s).strokes = s.strokes := rfl
@[simp] theorem raiseKnown_notes (v : Word) (s : State) : (raiseKnown v s).notes = s.notes := rfl
@[simp] theorem raiseKnown_port (v : Word) (s : State) : (raiseKnown v s).port = s.port := rfl
@[simp] theorem raiseKnown_lookup (v : Word) (s : State) : (raiseKnown v s).lookup = s.lookup := rfl
@[simp] theorem raiseKnown_translator (v : Word) (s : State) : (raiseKnown v s).translator = s.translator := rfl
@[simp] theorem raiseKnown_inbox (v : Word) (s : State) : (raiseKnown v s).inbox = s.inbox := rfl
@[simp] theorem raiseKnown_release (v : Word) (s : State) :
    (raiseKnown v s).release = { s.release with known := raised s.release.known v } := rfl
@[simp] theorem raiseKnown_bus (v : Word) (s : State) : (raiseKnown v s).bus = s.bus := rfl
@[simp] theorem raiseKnown_peers (v : Word) (s : State) : (raiseKnown v s).peers = s.peers := rfl
@[simp] theorem raiseKnown_floor (v : Word) (s : State) : (raiseKnown v s).floor = s.floor := rfl
@[simp] theorem raiseKnown_status (v : Word) (s : State) : (raiseKnown v s).status = s.status := rfl

/-! ### passKnown -/

@[simp] theorem passKnown_pending (v : Word) (s : State) : (passKnown v s).pending = s.pending := rfl
@[simp] theorem passKnown_freeCount (v : Word) (s : State) : (passKnown v s).freeCount = s.freeCount := rfl
@[simp] theorem passKnown_seq (v : Word) (s : State) : (passKnown v s).seq = s.seq := rfl
@[simp] theorem passKnown_settings (v : Word) (s : State) : (passKnown v s).settings = s.settings := rfl
@[simp] theorem passKnown_scanner (v : Word) (s : State) : (passKnown v s).scanner = s.scanner := rfl
@[simp] theorem passKnown_strokes (v : Word) (s : State) : (passKnown v s).strokes = s.strokes := rfl
@[simp] theorem passKnown_notes (v : Word) (s : State) : (passKnown v s).notes = s.notes := rfl
@[simp] theorem passKnown_port (v : Word) (s : State) : (passKnown v s).port = s.port := rfl
@[simp] theorem passKnown_lookup (v : Word) (s : State) : (passKnown v s).lookup = s.lookup := rfl
@[simp] theorem passKnown_translator (v : Word) (s : State) : (passKnown v s).translator = s.translator := rfl
@[simp] theorem passKnown_inbox (v : Word) (s : State) : (passKnown v s).inbox = s.inbox := rfl
@[simp] theorem passKnown_release (v : Word) (s : State) :
    (passKnown v s).release = { s.release with known := passed s.release.known v } := rfl
@[simp] theorem passKnown_bus (v : Word) (s : State) : (passKnown v s).bus = s.bus := rfl
@[simp] theorem passKnown_peers (v : Word) (s : State) : (passKnown v s).peers = s.peers := rfl
@[simp] theorem passKnown_floor (v : Word) (s : State) : (passKnown v s).floor = s.floor := rfl
@[simp] theorem passKnown_status (v : Word) (s : State) : (passKnown v s).status = s.status := rfl

/-! ### clearFlags -/

@[simp] theorem clearFlags_pending (w : Word) (s : State) : (clearFlags w s).pending = s.pending := rfl
@[simp] theorem clearFlags_freeCount (w : Word) (s : State) : (clearFlags w s).freeCount = s.freeCount := rfl
@[simp] theorem clearFlags_seq (w : Word) (s : State) : (clearFlags w s).seq = s.seq := rfl
@[simp] theorem clearFlags_settings (w : Word) (s : State) : (clearFlags w s).settings = s.settings := rfl
@[simp] theorem clearFlags_scanner (w : Word) (s : State) : (clearFlags w s).scanner = s.scanner := rfl
@[simp] theorem clearFlags_strokes (w : Word) (s : State) : (clearFlags w s).strokes = s.strokes := rfl
@[simp] theorem clearFlags_notes (w : Word) (s : State) : (clearFlags w s).notes = s.notes := rfl
@[simp] theorem clearFlags_port (w : Word) (s : State) : (clearFlags w s).port = s.port := rfl
@[simp] theorem clearFlags_lookup (w : Word) (s : State) : (clearFlags w s).lookup = s.lookup := rfl
@[simp] theorem clearFlags_translator (w : Word) (s : State) : (clearFlags w s).translator = s.translator := rfl
@[simp] theorem clearFlags_inbox (w : Word) (s : State) : (clearFlags w s).inbox = s.inbox := rfl
@[simp] theorem clearFlags_release (w : Word) (s : State) : (clearFlags w s).release = s.release := rfl
@[simp] theorem clearFlags_bus (w : Word) (s : State) : (clearFlags w s).bus = s.bus := rfl
@[simp] theorem clearFlags_peers (w : Word) (s : State) : (clearFlags w s).peers = s.peers := rfl
@[simp] theorem clearFlags_floor (w : Word) (s : State) : (clearFlags w s).floor = s.floor := rfl
@[simp] theorem clearFlags_status (w : Word) (s : State) :
    (clearFlags w s).status = { s.status with flags := s.status.flags &&& ~~~(w &&& usedFlags) } := rfl

/-! ### noStartBit -/

@[simp] theorem noStartBit_queue (b : BusController) : (noStartBit b).queue = b.queue := by unfold noStartBit; split <;> rfl
@[simp] theorem noStartBit_inFlight (b : BusController) : (noStartBit b).inFlight = b.inFlight := by
  unfold noStartBit; split <;> rfl
@[simp] theorem noStartBit_stuckSpell (b : BusController) : (noStartBit b).stuckSpell = b.stuckSpell := by
  unfold noStartBit; split <;> rfl

/-! ### frameEnded -/

@[simp] theorem frameEnded_pending (f : LineFrame) (s : State) : (frameEnded f s).pending = s.pending := rfl
@[simp] theorem frameEnded_freeCount (f : LineFrame) (s : State) : (frameEnded f s).freeCount = s.freeCount := rfl
@[simp] theorem frameEnded_seq (f : LineFrame) (s : State) : (frameEnded f s).seq = s.seq := rfl
@[simp] theorem frameEnded_settings (f : LineFrame) (s : State) : (frameEnded f s).settings = s.settings := rfl
@[simp] theorem frameEnded_scanner (f : LineFrame) (s : State) : (frameEnded f s).scanner = s.scanner := rfl
@[simp] theorem frameEnded_strokes (f : LineFrame) (s : State) : (frameEnded f s).strokes = s.strokes := rfl
@[simp] theorem frameEnded_notes (f : LineFrame) (s : State) : (frameEnded f s).notes = s.notes := rfl
@[simp] theorem frameEnded_port (f : LineFrame) (s : State) : (frameEnded f s).port = s.port := rfl
@[simp] theorem frameEnded_lookup (f : LineFrame) (s : State) : (frameEnded f s).lookup = s.lookup := rfl
@[simp] theorem frameEnded_translator (f : LineFrame) (s : State) : (frameEnded f s).translator = s.translator := rfl
@[simp] theorem frameEnded_inbox (f : LineFrame) (s : State) : (frameEnded f s).inbox = s.inbox := rfl
@[simp] theorem frameEnded_release (f : LineFrame) (s : State) : (frameEnded f s).release = s.release := rfl
@[simp] theorem frameEnded_peers (f : LineFrame) (s : State) : (frameEnded f s).peers = s.peers := rfl
@[simp] theorem frameEnded_floor (f : LineFrame) (s : State) : (frameEnded f s).floor = s.floor := rfl
@[simp] theorem frameEnded_status (f : LineFrame) (s : State) : (frameEnded f s).status = s.status := rfl

/-! ### overlayWrite -/

@[simp] theorem overlayWrite_pending (off : Nat) (bs : List Byte) (s : State) :
    (overlayWrite off bs s).pending = s.pending := rfl
@[simp] theorem overlayWrite_freeCount (off : Nat) (bs : List Byte) (s : State) :
    (overlayWrite off bs s).freeCount = s.freeCount := rfl
@[simp] theorem overlayWrite_seq (off : Nat) (bs : List Byte) (s : State) : (overlayWrite off bs s).seq = s.seq := rfl
@[simp] theorem overlayWrite_settings (off : Nat) (bs : List Byte) (s : State) :
    (overlayWrite off bs s).settings = s.settings := rfl
@[simp] theorem overlayWrite_scanner (off : Nat) (bs : List Byte) (s : State) :
    (overlayWrite off bs s).scanner = s.scanner := rfl
@[simp] theorem overlayWrite_strokes (off : Nat) (bs : List Byte) (s : State) :
    (overlayWrite off bs s).strokes = s.strokes := rfl
@[simp] theorem overlayWrite_notes (off : Nat) (bs : List Byte) (s : State) :
    (overlayWrite off bs s).notes = s.notes := rfl
@[simp] theorem overlayWrite_port (off : Nat) (bs : List Byte) (s : State) :
    (overlayWrite off bs s).port =
      { s.port with ramMem := s.port.ramAfter .overlay off bs } := rfl
@[simp] theorem overlayWrite_lookup (off : Nat) (bs : List Byte) (s : State) :
    (overlayWrite off bs s).lookup = s.lookup := rfl
@[simp] theorem overlayWrite_translator (off : Nat) (bs : List Byte) (s : State) :
    (overlayWrite off bs s).translator = s.translator := rfl
@[simp] theorem overlayWrite_inbox (off : Nat) (bs : List Byte) (s : State) :
    (overlayWrite off bs s).inbox = s.inbox := rfl
@[simp] theorem overlayWrite_release (off : Nat) (bs : List Byte) (s : State) :
    (overlayWrite off bs s).release = s.release := rfl
@[simp] theorem overlayWrite_bus (off : Nat) (bs : List Byte) (s : State) : (overlayWrite off bs s).bus = s.bus := rfl
@[simp] theorem overlayWrite_peers (off : Nat) (bs : List Byte) (s : State) :
    (overlayWrite off bs s).peers = s.peers := rfl
@[simp] theorem overlayWrite_floor (off : Nat) (bs : List Byte) (s : State) :
    (overlayWrite off bs s).floor = s.floor := rfl
@[simp] theorem overlayWrite_status (off : Nat) (bs : List Byte) (s : State) :
    (overlayWrite off bs s).status = s.status := rfl

/-! ### elapse -/

@[simp] theorem elapse_pending (n : Nat) (s : State) : (elapse n s).pending = s.pending := rfl
@[simp] theorem elapse_freeCount (n : Nat) (s : State) : (elapse n s).freeCount = s.freeCount := rfl
@[simp] theorem elapse_seq (n : Nat) (s : State) :
    (elapse n s).seq = { s.seq with clock := s.seq.clock + BitVec.ofNat 32 n } := rfl
@[simp] theorem elapse_settings (n : Nat) (s : State) : (elapse n s).settings = s.settings := rfl
@[simp] theorem elapse_scanner (n : Nat) (s : State) :
    (elapse n s).scanner = { s.scanner with period := countDown n s.scanner.period } := rfl
@[simp] theorem elapse_strokes (n : Nat) (s : State) : (elapse n s).strokes = s.strokes := rfl
@[simp] theorem elapse_notes (n : Nat) (s : State) :
    (elapse n s).notes = { s.notes with flushTimer := countDown n s.notes.flushTimer } := rfl
@[simp] theorem elapse_port (n : Nat) (s : State) :
    (elapse n s).port = { s.port with timer := countDown n s.port.timer } := rfl
@[simp] theorem elapse_lookup (n : Nat) (s : State) : (elapse n s).lookup = s.lookup := rfl
@[simp] theorem elapse_translator (n : Nat) (s : State) :
    (elapse n s).translator = { s.translator with resolveTimer := countDown n s.translator.resolveTimer } := rfl
@[simp] theorem elapse_inbox (n : Nat) (s : State) : (elapse n s).inbox = s.inbox := rfl
@[simp] theorem elapse_release (n : Nat) (s : State) :
    (elapse n s).release = { s.release with holdTimer := countDown n s.release.holdTimer } := rfl
@[simp] theorem elapse_bus (n : Nat) (s : State) :
    (elapse n s).bus =
      { s.bus with stuckTimer := if s.bus.stuckTimer = 0 then 0 else s.bus.stuckTimer + n } := rfl
@[simp] theorem elapse_peers (n : Nat) (s : State) :
    (elapse n s).peers = { s.peers with timer := countDown n s.peers.timer } := rfl
@[simp] theorem elapse_status (n : Nat) (s : State) :
    (elapse n s).status = { s.status with playing := s.status.playing.map fun p => (p.1, p.2 - n) } := rfl

end Sys2Proof.Machine
end

