-- ==== Sys2Proof/Laws/Receive.lean ====
section
/-! SUPPORT. What an accepted frame, a handed note, a handed frame and a release check with nothing due do, said once. -/

namespace Sys2Proof.Machine

/-! ### Frames -/

/-- An accepted frame is taken by its block after the follower has gone to WAIT_IDLE (R126, R135, R136). -/
theorem receive_accepted {s : State} {f : LineFrame} {a : Station} {m : Msg} (take : Station → Msg → State → State)
    (h : Accepts s f a m) : receive f take s = take a m (frameEnded f s) := by
  unfold receive; rw [if_pos h.1]; dsimp only
  have : (frameEnded f s).seq.addr = s.seq.addr := rfl
  rw [this, h.2]

/-- In RUN, with a slot free, a handed frame of class 0 or 1 waits behind the others (R130). -/
theorem handFrame_room {f : TxFrame} {s : State} (h1 : s.seq.phase = .run) (h2 : s.bus.queue.length < 24)
    (hc : f.cls < 2) : handFrame f s = setQueue (s.bus.queue ++ [f]) s := by
  unfold handFrame
  have hk : f.kind ≠ .presence := by intro h; simp [TxFrame.cls, h, FrameKind.cls] at hc
  rw [if_neg (by simp [h1]), if_neg hk, if_neg (by omega), if_pos h2]

/-- In RUN, with fewer than 20 frames waiting, a handed frame of classes 2 to 5 waits behind the others (R130). -/
theorem handFrame_roomLow {f : TxFrame} {s : State} (h1 : s.seq.phase = .run) (h2 : s.bus.queue.length < 20)
    (hk : f.kind ≠ .presence) (hc : 2 ≤ f.cls) : handFrame f s = setQueue (s.bus.queue ++ [f]) s := by
  unfold handFrame
  have hl : noLowSlot s.bus.queue = false := by
    have h : lowClassCount s.bus.queue ≤ s.bus.queue.length := List.countP_le_length
    unfold noLowSlot
    rw [decide_eq_false (by omega), decide_eq_false (by omega)]; rfl
  rw [if_neg (by simp [h1]), if_neg hk, if_pos hc, hl]; rfl

/-! ### Release with nothing due -/

theorem oldestHeld_mem {h : List TextUnit} {i : Nat} {u : TextUnit} (ho : oldestHeld h = some (i, u)) :
    u ∈ h ∧ u.released = false := by
  unfold oldestHeld at ho
  obtain ⟨p, hp1, hp2⟩ := List.exists_of_findSome?_eq_some ho
  split at hp2
  · cases hp2
  · cases hp2; exact ⟨List.fst_mem_of_mem_zipIdx hp1, by simp_all⟩

theorem releaseDue_none (n : Nat) {s : State} (h : NothingDue s) : releaseDue n s = s := by
  cases n with
  | zero => rfl
  | succ n =>
    unfold releaseDue
    split
    · rfl
    · rename_i i u ho
      obtain ⟨h1, h2⟩ := oldestHeld_mem ho
      rw [h u h1 h2]; simp

/-- With nothing due the release check sets the hold-back timer only (R112, R113). -/
theorem settle_none {s : State} (h : NothingDue s) :
    ∃ x, settle s = { s with release := { s.release with holdTimer := x } } := by
  unfold settle; rw [releaseDue_none _ h]; exact ⟨_, rfl⟩

/-- Giving units another stream makes none due. -/
theorem NothingDue.restream {s : State} (h : NothingDue s) (was : Stream) (now : TextUnit → Stream) :
    NothingDue (restream was now s) := by
  intro u hu hr
  simp only [Machine.restream, setHistory, List.mem_map] at hu
  obtain ⟨v, hv, rfl⟩ := hu
  by_cases hc : (!v.released && decide (v.stream = was)) = true
  · simp only [hc, if_true] at hr ⊢; exact h v hv hr
  · simp only [hc] at hr ⊢; exact h v hv hr

/-- What is due depends on the history, the hold-back time and the clock only. -/
theorem NothingDue.of_eq {s t : State} (h : NothingDue s) (h1 : t.translator.history = s.translator.history)
    (h2 : t.settings = s.settings) (h3 : t.seq = s.seq) : NothingDue t := by
  intro u hu hr; have := h u (h1 ▸ hu) hr; unfold due at *; rw [h2, h3]; exact this

theorem restream_history (was : Stream) (now : TextUnit → Stream) (s : State) :
    (restream was now s).translator.history = Restreamed was now s.translator.history := by
  simp [restream, Restreamed, setHistory]

/-! ### Flags -/

theorem isSet_setFlag (f g : Flag) (s : State) :
    (setFlag f s).status.isSet g = (s.status.isSet g || decide (g = f)) := by
  have hb : ∀ f g : Flag, (f.mask).getLsbD g.position = decide (g = f) := by
    intro f g; cases f <;> cases g <;> decide
  unfold StatusUnit.isSet; rw [setFlag_flags]; simp [hb]

theorem isSet_setFlagIf (c : Bool) (f g : Flag) (s : State) :
    (setFlagIf c f s).status.isSet g = (s.status.isSet g || (c && decide (g = f))) := by
  cases c <;> simp [setFlagIf, isSet_setFlag]

theorem isSet_requestPattern (p : Pattern) (g : Flag) (s : State) :
    (requestPattern p s).status.isSet g = s.status.isSet g := by
  unfold StatusUnit.isSet; rw [requestPattern_flags]

/-- Handing a note sets no flag but NOTE_LOST (R18, R19). -/
theorem isSet_handNote (n : Note) {g : Flag} (s : State) (h : g ≠ .noteLost) :
    (handNote n s).status.isSet g = s.status.isSet g := by
  have ha : ∀ s : State, (arbitrate s).status = s.status := by intro s; rw [arbitrate_eq]
  have hf : ∀ s : State, (armFlush s).status = s.status := by intro s; unfold armFlush; split <;> rfl
  unfold handNote joinNote
  repeat' split
  all_goals simp [ha, hf, isSet_setFlag, h, loseNote]

theorem requestPattern_kept (p : Pattern) (s : State) :
    (requestPattern p s).status.mask = s.status.mask ∧ (requestPattern p s).status.enables = s.status.enables := by
  unfold requestPattern StatusUnit.request
  repeat' split
  all_goals exact ⟨rfl, rfl⟩

/-- Setting a flag changes no mask and no enable. -/
theorem setFlag_kept (f : Flag) (s : State) :
    (setFlag f s).status.mask = s.status.mask ∧ (setFlag f s).status.enables = s.status.enables := by
  unfold setFlag; dsimp only; split
  · exact ⟨rfl, rfl⟩
  · exact requestPattern_kept _ _

/-! ### Notes -/

/-- On an open path with room a handed note joins the FIFO (R19); the flush timer may have run on meanwhile. -/
theorem handNote_noted (n : Note) {s s' : State} (h : s'.notes = { s.notes with flushTimer := s'.notes.flushTimer }) :
    Noted s (handNote n s') n := by
  intro ho ⟨hp, hl⟩
  unfold NotesWriter.pathOpen at hp
  simp at hp
  unfold handNote; rw [if_pos (by rw [h]; exact ho)]
  have : (joinNote n s').notes.fifo = s.notes.fifo ++ [n] := by
    unfold joinNote; rw [h]; simp [hp]; rw [if_neg (by omega)]
    unfold armFlush; split <;> simp
  rw [← this]; rw [arbitrate_eq]

/-- With room a handed note leaves the status unit as it is. -/
theorem handNote_status (n : Note) {s : State} (ho : s.notes.opened = true) (hr : RoomForNotes s 8) :
    (handNote n s).status = s.status := by
  obtain ⟨hp, hl⟩ := hr
  unfold NotesWriter.pathOpen at hp
  simp at hp
  unfold handNote; rw [if_pos ho]; rw [arbitrate_eq]
  unfold joinNote; simp [hp]; rw [if_neg (by omega)]
  unfold armFlush; split <;> rfl

/-! ### What a frame leaves alone -/

/-- A release act that keeps the record state is outside nothing a floor frame may touch. -/
theorem ReleaseAct.outsideFloor {s t : State} (h : ReleaseAct s t) (hr : t.release.recordOn = s.release.recordOn) :
    OutsideFloor s t := by
  obtain ⟨c, l, i, r, a1, a2, a3, a4, a5, a6⟩ := h
  exact ⟨⟨c.seq, c.settings, c.scanner, c.strokes, l, c.flashMem, c.regions, c.pending, c.freeCount, a2, a5, a6, a3⟩,
    r, i, c.peers, hr⟩

end Sys2Proof.Machine
end

