-- ==== Sys2Proof/Laws/Floor.lean ====
section
/-! SUPPORT. What the floor controller's shared acts do, said once: entering ON and OFF, vacancy, the holder shown. -/

namespace Sys2Proof.Machine

/-! ### What the shared operations leave of floor, notes and bus -/

theorem requestPattern_floor (p : Pattern) (s : State) : (requestPattern p s).floor = s.floor := by
  rw [requestPattern_eq]

theorem requestPattern_notes (p : Pattern) (s : State) : (requestPattern p s).notes = s.notes := by
  rw [requestPattern_eq]

theorem requestPattern_bus (p : Pattern) (s : State) : (requestPattern p s).bus = s.bus := by rw [requestPattern_eq]

theorem setFlag_floor (f : Flag) (s : State) : (setFlag f s).floor = s.floor := by rw [setFlag_eq]

theorem setFlag_notes (f : Flag) (s : State) : (setFlag f s).notes = s.notes := by rw [setFlag_eq]

theorem setFlag_bus (f : Flag) (s : State) : (setFlag f s).bus = s.bus := by rw [setFlag_eq]

theorem handNote_floor (n : Note) (s : State) : (handNote n s).floor = s.floor := by rw [handNote_eq]

theorem handNote_bus (n : Note) (s : State) : (handNote n s).bus = s.bus := by rw [handNote_eq]

theorem handFrame_floor (f : TxFrame) (s : State) : (handFrame f s).floor = s.floor := by rw [handFrame_eq]

theorem handFrame_notes (f : TxFrame) (s : State) : (handFrame f s).notes = s.notes := by rw [handFrame_eq]

theorem broadcast_floor (m : Msg) (s : State) : (broadcast m s).floor = s.floor := handFrame_floor _ _

theorem broadcast_notes (m : Msg) (s : State) : (broadcast m s).notes = s.notes := handFrame_notes _ _

theorem sendTo_floor (a : Station) (m : Msg) (s : State) : (sendTo a m s).floor = s.floor := handFrame_floor _ _

theorem sendTo_notes (a : Station) (m : Msg) (s : State) : (sendTo a m s).notes = s.notes := handFrame_notes _ _

/-! ### Entering ON and OFF (R152) -/

/-- The floor record after entering OFF. -/
theorem enterOff_floor (s : State) : (enterOff s).floor = offRecord s := by
  unfold enterOff floorNote; rw [handNote_floor]; rfl

/-- The floor record after entering ON. -/
theorem enterOn_floor (s : State) : (enterOn s).floor = onRecord s := by
  unfold enterOn floorNote; rw [requestPattern_floor, handNote_floor]; rfl

theorem enterOff_bus (s : State) : (enterOff s).bus = s.bus := by
  unfold enterOff floorNote; rw [handNote_bus]; rfl

theorem enterOn_bus (s : State) : (enterOn s).bus = s.bus := by
  unfold enterOn floorNote; rw [requestPattern_bus, handNote_bus]; rfl

/-- Entering OFF hands its FLOOR note. -/
theorem enterOff_noted {s s' : State} (h : s'.notes = { s.notes with flushTimer := s'.notes.flushTimer }) :
    Noted s (enterOff s') (.floor false (knownField s')) :=
  handNote_noted _ h

/-- Entering ON hands its FLOOR note. -/
theorem enterOn_noted {s s' : State} (h : s'.notes = { s.notes with flushTimer := s'.notes.flushTimer }) :
    Noted s (enterOn s') (.floor true (knownField s')) := by
  have := handNote_noted (.floor true (knownField s')) (s := s) (s' := setFloor (onRecord s') s') h
  intro h1 h2
  unfold enterOn; rw [requestPattern_notes]; exact this h1 h2

/-- Entering OFF sets no flag but NOTE_LOST. -/
theorem enterOff_isSet (s : State) {g : Flag} (h : g ≠ .noteLost) :
    (enterOff s).status.isSet g = s.status.isSet g :=
  isSet_handNote _ _ h

theorem enterOn_isSet (s : State) {g : Flag} (h : g ≠ .noteLost) :
    (enterOn s).status.isSet g = s.status.isSet g := by
  unfold enterOn; rw [isSet_requestPattern]; exact isSet_handNote _ _ h

/-- A release check after a floor act, with nothing due, sets the hold-back timer only. -/
theorem FloorAct.settle {s t : State} (h : NothingDue s) (h1 : FloorAct s t) :
    ∃ x, Machine.settle t = { t with release := { t.release with holdTimer := x } } :=
  settle_none (h.of_eq (by rw [h1.translator]) h1.core.settings h1.core.seq)

/-! ### Vacancy (R153 to R155) -/

/-- Finding vacancy starts the claim wait where its conditions hold, and changes nothing else. -/
theorem vacancyFound_floor {s : State} (hr : inRun s = true) :
    (vacancyFound s).floor =
      (if s.floor.state = .off ∧ s.floor.holder = none then waitStarted s s.floor else s.floor) ∧
    vacancyFound s = { s with floor := (vacancyFound s).floor } := by
  unfold vacancyFound waitStarted vacant
  constructor
  · rw [hr]
    by_cases h1 : s.floor.state = .off <;> by_cases h2 : s.floor.holder = none <;>
      by_cases h3 : s.floor.withdrawn = false <;> by_cases h4 : s.floor.claimWait = none <;>
      by_cases h5 : s.floor.holdOff = none <;> by_cases h6 : reporterActive s = true <;>
      simp [h1, h2, h3, h4, h5, h6, setFloor]
  · split <;> rfl

/-- In RUN and OFF the vacancy timer restarts from its full period. -/
theorem restartVacancy_off {s : State} (hr : inRun s = true) (ho : s.floor.state = .off) :
    restartVacancy s = { s with floor := { s.floor with vacancyTimer := some (vacancyMs s) } } := by
  unfold restartVacancy; simp [hr, ho]; rfl

end Sys2Proof.Machine
end

