-- ==== Sys2Proof/Laws/Notes.lean ====
section
/-! SUPPORT. The resume scan read by read: what one read of it can do, said once (R28, R29, R36). -/

namespace Sys2Proof.Machine

/-- A damaged slot seen before adds to what the forward scan sees. -/
theorem forwardScan_damaged (s : State) (n i : Nat) (d : Bool) :
    forwardScan s n i d = ((forwardScan s n i false).1, d || (forwardScan s n i false).2) := by
  induction n generalizing i d with
  | zero => simp [forwardScan]
  | succ n ih =>
    simp only [forwardScan]
    split
    · simp
    · rw [ih, ih (i + 1) (false || _)]; simp [Bool.or_assoc]

@[simp] theorem scanResult_strokes (s : State) (i w : Nat) :
    scanResult s (.strokes i w) =
      ⟨w, strokeAfter (backwardScan s pickStroke i), restartAfter (backwardScan s pickResume w), false⟩ := rfl

@[simp] theorem scanResult_resumes (s : State) (i w : Nat) (n : Word) :
    scanResult s (.resumes i w n) = ⟨w, n, restartAfter (backwardScan s pickResume i), false⟩ := rfl

@[simp] theorem scanResult_over (s : State) (w : Nat) (n : Word) (count : Nat) :
    scanResult s (.over w n count) = ⟨w, n, count, false⟩ := rfl

@[simp] theorem scanResult_forward (s : State) (i : Nat) :
    scanResult s (.forward i) =
      let f := forwardScan s (notesSlots s - i) i false
      ⟨f.1, strokeAfter (backwardScan s pickStroke f.1), restartAfter (backwardScan s pickResume f.1), f.2⟩ := rfl

theorem scanResult_resumesBelow (s : State) (i w : Nat) (n : Word) :
    scanResult s (resumesBelow i w n) = ⟨w, n, restartAfter (backwardScan s pickResume i), false⟩ := by
  unfold resumesBelow
  split <;> simp_all [backwardScan]

theorem scanResult_strokesBelow (s : State) (i w : Nat) :
    scanResult s (strokesBelow i w) = scanResult s (.strokes i w) := by
  unfold strokesBelow
  split
  · simp_all [scanResult_resumesBelow, backwardScan]
  · rfl

/-- What one read of the resume scan can do: the outcome stays, but for the damage that the read itself reports. -/
theorem scanResult_scanRead (s : State) (x : ResumeScan) :
    scanResult s x = { scanResult s (scanRead s x).1 with
      damaged := (scanRead s x).2 || (scanResult s (scanRead s x).1).damaged } := by
  match x with
  | .over w n count => rfl
  | .strokes 0 w => simp [scanRead, scanResult_strokesBelow]
  | .resumes 0 w n => simp [scanRead, scanResult_resumesBelow]
  | .strokes (i + 1) w =>
    simp only [scanRead]
    cases h : recordIn pickStroke (slotBytes s i) <;>
      simp [scanResult_strokesBelow, scanResult_resumesBelow, backwardScan, h]
  | .resumes (i + 1) w n =>
    simp only [scanRead]
    cases h : recordIn pickResume (slotBytes s i) <;> simp [scanResult_resumesBelow, backwardScan, h]
  | .forward i =>
    simp only [scanRead]
    split
    · rename_i h
      obtain ⟨k, hk⟩ : ∃ k, notesSlots s - i = k + 1 := ⟨notesSlots s - i - 1, by omega⟩
      have hf : forwardScan s (k + 1) i false = forwardScan s k (i + 1) (!slotGood (slotBytes s i)) := by
        simp [forwardScan, h.2]
      simp only [scanResult_forward, hk, hf]
      rw [forwardScan_damaged]
      split
      · simp [show notesSlots s - (i + 1) = k by omega]
      · obtain rfl : k = 0 := by omega
        simp [scanResult_strokesBelow, forwardScan]
    · rename_i h
      have hf : forwardScan s (notesSlots s - i) i false = (i, false) := by
        cases hn : notesSlots s - i with
        | zero => rfl
        | succ k => simp only [forwardScan]; rw [if_pos (by by_contra h2; exact h ⟨by omega, h2⟩)]
      simp [scanResult_strokesBelow, hf]

end Sys2Proof.Machine
end

