-- ==== Sys2Proof/Laws/Overlay.lean ====
section
/-! SUPPORT. Requests at the memory port, and the overlay manager's reads and writes, said once: what they answer where
the region allows them, and where it does not (R32 to R34, R41, R90). -/

namespace Sys2Proof.Machine

/-! ### Requests at the memory port -/

/-- A request other than a program is allowed exactly where an entry of the region allows it and its span lies inside.
-/
theorem MemoryPort.allows_eq {p : MemoryPort} {n : RegionName} {r : Region} {op : PortOp} (h : p.region n = some r)
    (hp : op.isProgram = false) (off len : Nat) :
    p.allows n op off len = (r.allowed.contains op && decide (1 ≤ len) && decide (off + len ≤ r.size)) := by
  simp [MemoryPort.allows, h, hp]

theorem MemoryPort.allows_none {p : MemoryPort} {n : RegionName} (h : p.region n = none) (op : PortOp) (off len : Nat) :
    p.allows n op off len = false := by
  simp [MemoryPort.allows, h]

/-- A read answers its data where it is allowed. -/
theorem MemoryPort.dataAt_of_allows {p : MemoryPort} {off len : Nat}
    (h : p.allows .overlay .ramRead off len = true) : p.dataAt .overlay off len = p.bytesAt .overlay off len := by
  simp [MemoryPort.dataAt, MemoryPort.readAt, h]

/-- A refused RAM write changes nothing. -/
theorem MemoryPort.ramAfter_of_refused {p : MemoryPort} {n : RegionName} {off : Nat} {bs : List Byte}
    (h : p.allows n .ramWrite off bs.length = false) : p.ramAfter n off bs = p.ramMem := by
  simp [MemoryPort.ramAfter, h]

theorem startProgram_of_allowed {s : State} (h : programAllowed s = true) :
    startProgram s =
      { s with port := { s.port with flash := .programming, timer := some 50, burstGranted := false } } := by
  simp [startProgram, h, programLimit]

/-- A refused program uses up the grant and changes no flash state. -/
theorem startProgram_of_refused {s : State} (h : programAllowed s = false) :
    startProgram s = { s with port := { s.port with burstGranted := false } } := by
  simp [startProgram, h]

/-! ### The overlay manager's requests -/

variable {s : State} {r : Region} {used live deleted : Nat}

theorem OverlayStands.region (h : OverlayStands s r used live deleted) : s.port.region .overlay = some r := h.1

/-- A field inside the region is read from the RAM. -/
theorem OverlayStands.field_eq (h : OverlayStands s r used live deleted) {off n : Nat} (hn : 1 ≤ n)
    (hr : off + n ≤ r.size) :
    overlayField s off n = beNat (Memory.readBytes s.port.ramMem (r.base + off) n) := by
  obtain ⟨hreg, hdev, hall, -⟩ := h
  unfold overlayField
  rw [MemoryPort.dataAt_of_allows (by rw [MemoryPort.allows_eq hreg rfl, hall]; simp [hn, hr])]
  simp [MemoryPort.bytesAt, hreg, hdev, MemoryPort.contents]

/-- A write inside the region is done. -/
theorem OverlayStands.write_eq (h : OverlayStands s r used live deleted) {off : Nat} {bs : List Byte}
    (hn : 1 ≤ bs.length) (hr : off + bs.length ≤ r.size) :
    (overlayWrite off bs s).port.ramMem = Memory.writeBytes s.port.ramMem (r.base + off) bs := by
  obtain ⟨hreg, -, hall, -⟩ := h
  simp only [overlayWrite, MemoryPort.ramAfter]
  rw [if_pos (by rw [MemoryPort.allows_eq hreg rfl, hall]; simp [hn, hr]), hreg]
  rfl

/-- The slot array lies inside the region. -/
theorem OverlayStands.slotValue_eq (h : OverlayStands s r used live deleted) {i : Nat}
    (hi : i < 2 ^ s.settings.overlayLog2) :
    slotValue s i = beNat (Memory.readBytes s.port.ramMem (slotPlace r i) 4) := by
  have hs := h.2.2.2.2.2.2.1
  unfold slotValue
  rw [h.field_eq (by omega) (by omega)]
  simp [slotPlace, Nat.add_assoc]

/-! ### Entries determine what they hold -/

theorem Memory.getElem?_readBytes (m : Memory) (a n i : Nat) (h : i < n) :
    (Memory.readBytes m a n)[i]? = some (Memory.read m (a + i)) := by
  simp [Memory.readBytes, h]

/-- The stroke count of an entry stands in its second byte. -/
theorem EntryStands.strokes {s : State} {r : Region} {used v count : Nat} {k : EntryKind} {o : List KeySet}
    {text : List Byte} (h : EntryStands s r used v k o text count) :
    o.length = (Memory.read s.port.ramMem (heapPlace s r v + 1)).toNat := by
  obtain ⟨-, h8, -, -, -, hb⟩ := h
  have h1 := congrArg (·[1]?) hb
  simp only [Memory.getElem?_readBytes _ _ _ 1 (by omega : 1 < 4 + 3 * o.length + text.length)] at h1
  simp only [List.cons_append, List.nil_append, List.getElem?_cons_succ, List.getElem?_cons_zero, Option.some.injEq]
    at h1
  rw [h1, BitVec.toNat_ofNat]; omega

/-- The text length of an entry stands behind its key sets. -/
theorem EntryStands.textLength {s : State} {r : Region} {used v count : Nat} {k : EntryKind} {o : List KeySet}
    {text : List Byte} (h : EntryStands s r used v k o text count) :
    text.length = (Memory.read s.port.ramMem (heapPlace s r v + (2 + 3 * o.length))).toNat := by
  obtain ⟨-, -, h120, -, -, hb⟩ := h
  have hk : (o.flatMap fun o => beBytes 3 o.toNat).length = 3 * o.length := by
    clear hb; induction o with
    | nil => rfl
    | cons a as ih => rw [List.flatMap_cons, List.length_append, ih]; simp [beBytes]; omega
  have h1 := congrArg (·[2 + 3 * o.length]?) hb
  simp only [Memory.getElem?_readBytes _ _ _ _ (by omega : 2 + 3 * o.length < 4 + 3 * o.length + text.length)] at h1
  rw [List.append_assoc, List.append_assoc, List.append_assoc, List.getElem?_append_right (by simp),
    List.getElem?_append_right (by simp [hk])] at h1
  simp only [List.length_cons, List.length_nil, hk, show 2 + 3 * o.length - (0 + 1 + 1) - 3 * o.length = 0 by omega,
    List.cons_append, List.getElem?_cons_zero, Option.some.injEq] at h1
  rw [h1, BitVec.toNat_ofNat]; omega

/-- The heap bytes of an entry are a function of what stands there. -/
theorem EntryStands.span_unique {s : State} {r : Region} {used v c c' : Nat} {k k' : EntryKind} {o o' : List KeySet}
    {t t' : List Byte} (h : EntryStands s r used v k o t c) (h' : EntryStands s r used v k' o' t' c') :
    entrySpan o t = entrySpan o' t' := by
  have ho : o.length = o'.length := by rw [h.strokes, h'.strokes]
  have ht : t.length = t'.length := by rw [h.textLength, h'.textLength, ho]
  simp [entrySpan, ho, ht]

end Sys2Proof.Machine
end

