-- ==== Sys2Proof/Laws/Release.lean ====
section
/-! SUPPORT. What the drain check, one release, the release check, the capacity rule and the creation of a GAP unit do,
said once: each lemma cites the words of Safety.lean. -/

namespace Sys2Proof.Machine

/-! ### The drain check (R162) -/

theorem leaveFloor_leaves (s : State) : LeavesFloor s (leaveFloor s) s.floor.partner (s.floor.cut.getD 0) := by
  have hn : ∀ (m : Msg) (f : FloorRecord),
      Noted s (enterOff (setFloor f (broadcast m s))) (.floor false (s.release.known.getD 0)) := by
    intro m f
    have := enterOff_noted (s := s) (s' := setFloor f (broadcast m s)) (by rw [setFloor_notes, broadcast_notes])
    rwa [show knownField (setFloor f (broadcast m s)) = s.release.known.getD 0 by
      unfold knownField; rw [setFloor_release, (broadcast_act m s).release]] at this
  have hq : ∀ m : Msg, m.kind.cls < 2 → RoomToSend s →
      (broadcast m s).bus.queue = s.bus.queue ++ [waitingFrame m none] := by
    intro m hm h; unfold broadcast; rw [handFrame_room (f := ⟨.msg m, none, false⟩) h.1 h.2 hm]; rfl
  have hseq := fun m => (broadcast_act m s).core.seq
  have hset := fun m => (broadcast_act m s).core.settings
  refine ⟨(leaveFloor_act s).translator, (leaveFloor_act s).release, ?_, ?_, ?_,
    (leaveFloor_act s).toRelease.outsideFloor (by rw [(leaveFloor_act s).release])⟩
  · unfold leaveFloor; split
    · exact hn _ _
    · exact hn _ _
  · intro p hp
    unfold leaveFloor; rw [hp]
    refine ⟨?_, fun h => ?_⟩
    · rw [enterOff_floor]
      simp only [offRecord, setHolder, setFloor_floor, broadcast_floor, heldBy, setFloor_settings, hset, hseq, vacancyMs]
    · rw [enterOff_bus]; exact hq _ (by simp [Msg.kind, FrameKind.cls]) h
  · intro hp
    unfold leaveFloor; rw [hp]
    refine ⟨?_, fun h => ?_⟩
    · rw [enterOff_floor]; simp only [offRecord, setFloor_floor, broadcast_floor, setFloor_settings, hset, vacancyMs]
    · rw [enterOff_bus]; exact hq _ (by simp [Msg.kind, FrameKind.cls]) h

theorem drainCheck_checked (s : State) : DrainChecked s (drainCheck s) := by
  have hd : (s.floor.state = .draining ∧ ¬ s.translator.history.any heldOfficial ∧ ¬ textQueued s) ↔
      (s.floor.state = .draining ∧
        (∀ u ∈ s.translator.history, u.released = false → u.stream ≠ .official) ∧
        ∀ f ∈ s.bus.queue, f.kind ≠ .text) := by
    simp [heldOfficial, textQueued, List.any_eq_true]
  constructor
  · intro h; unfold drainCheck; rw [if_neg (by rw [hd]; exact h)]
  · intro h; unfold drainCheck; rw [if_pos (hd.mpr h)]; exact leaveFloor_leaves s

/-! ### One release (R113 to R117) -/

/-- The status unit after setting a flag depends on the phase and the status unit only. -/
theorem setFlag_status {s t : State} (f : Flag) (h1 : t.seq = s.seq) (h2 : t.status = s.status) :
    (setFlag f t).status = (setFlag f s).status := by
  unfold setFlag requestPattern; dsimp only; rw [h1, h2]; repeat' split
  all_goals rfl

theorem broadcast_handedLow {m : Msg} {s t : State} (hk : m.kind ≠ .presence) (hc : 2 ≤ m.kind.cls)
    (h1 : t.seq = s.seq) (h2 : t.bus = s.bus) (h3 : t.status = s.status) : HandedLow s (broadcast m t) m := by
  refine ⟨fun h4 h5 => ?_, fun h4 h5 => ?_, fun h4 => ?_⟩
  · unfold broadcast
    rw [handFrame_roomLow (f := ⟨.msg m, none, false⟩) (by rw [h1]; exact h4) (by rw [h2]; exact h5) hk hc]
    exact ⟨by rw [setQueue_bus, h2]; rfl, h3⟩
  · unfold broadcast handFrame
    have hl : noLowSlot t.bus.queue = true := by
      unfold noLowSlot; rw [h2]; rcases h5 with h5 | h5 <;> simp [h5]
    rw [if_neg (by rw [h1]; simp [h4]), if_neg (by exact hk), if_pos (by exact hc), hl, if_pos rfl]
    exact ⟨by rw [setFlag_eq, h2], setFlag_status _ h1 h3⟩
  · unfold broadcast handFrame; rw [if_pos (by rw [h1]; exact h4)]; exact ⟨by rw [h2], h3⟩

theorem succNonzero_eq (w : Word) : succNonzero w = if w = 4294967295 then 1 else w + 1 := by
  unfold succNonzero
  by_cases h : w = 4294967295
  · subst h; rfl
  · rw [if_neg h, if_neg]; intro hc; exact h (by bv_omega)

theorem nextOfficial_eq (known : Option Word) : nextOfficial known = officialAfter known := by
  unfold nextOfficial; rw [succNonzero_eq]; cases known <;> rfl

/-- A release of a unit in place i, whatever remains of its delay. -/
theorem releaseUnit_released {s : State} {us vs : List TextUnit} {u v : TextUnit} (hs : u.stream ≠ .pending)
    (hh : s.translator.history = us ++ v :: vs) : UnitReleased s (releaseUnit us.length u s) us u vs := by
  have hset : ∀ x, s.translator.history.set us.length x = us ++ x :: vs := by intro x; rw [hh]; simp
  have hb : ∀ (m : Msg) (h : List TextUnit) (r : ReleaseUnit),
      let x := broadcast m { setHistory h s with release := r }
      x.translator.history = h ∧ x.release = r ∧
        x = { s with translator := { s.translator with history := x.translator.history }, release := x.release
                     bus := { s.bus with queue := x.bus.queue }, status := x.status } := by
    intro m h r x
    have hx := handFrame_eq ⟨.msg m, none, false⟩ { setHistory h s with release := r }
    have h1 : x.translator = { s.translator with history := h } := by show (handFrame _ _).translator = _; rw [hx]; rfl
    have h2 : x.release = r := by show (handFrame _ _).release = _; rw [hx]
    refine ⟨by rw [h1], h2, ?_⟩
    rw [h2, h1]; exact hx
  by_cases hk : u.kind = .format
  · have he : releaseUnit us.length u s = drainCheck (setHistory (us ++ { u with released := true, seq := none } :: vs) s) := by
      unfold releaseUnit; simp only [hset, hk]
    rw [he]
    exact ⟨_, drainCheck_checked _, fun h => absurd hk h, fun h => absurd hk h, fun _ => ⟨rfl, rfl, rfl, rfl⟩, rfl⟩
  · cases hst : u.stream with
    | pending => exact absurd hst hs
    | official =>
      have he : releaseUnit us.length u s =
          drainCheck (broadcast (textFrame u (nextOfficial s.release.known) s.release.known.isNone)
            { setHistory (us ++ { u with released := true, seq := some (nextOfficial s.release.known) } :: vs) s with
              release := { s.release with known := some (nextOfficial s.release.known) } }) := by
        unfold releaseUnit; simp only [hset, hst]; cases hk' : u.kind <;> first | exact absurd hk' hk | rfl
      rw [he]
      obtain ⟨h1, h2, h3⟩ := hb (textFrame u (nextOfficial s.release.known) s.release.known.isNone)
        (us ++ { u with released := true, seq := some (nextOfficial s.release.known) } :: vs)
        { s.release with known := some (nextOfficial s.release.known) }
      refine ⟨_, drainCheck_checked _, fun _ _ => ?_, fun _ h => ?_, fun h => absurd h hk, h3⟩
      · rw [← nextOfficial_eq]; exact ⟨h1, h2, broadcast_handedLow (by simp [textFrame, Msg.kind])
          (by simp [textFrame, Msg.kind, FrameKind.cls]) rfl rfl rfl⟩
      · rw [hst] at h; cases h
    | shadow =>
      have he : releaseUnit us.length u s =
          drainCheck (broadcast (shadowFrame u s.release.nextShadow)
            { setHistory (us ++ { u with released := true, seq := some s.release.nextShadow } :: vs) s with
              release := { s.release with nextShadow := succNonzero s.release.nextShadow } }) := by
        unfold releaseUnit; simp only [hset, hst]; cases hk' : u.kind <;> first | exact absurd hk' hk | rfl
      rw [he]
      obtain ⟨h1, h2, h3⟩ := hb (shadowFrame u s.release.nextShadow)
        (us ++ { u with released := true, seq := some s.release.nextShadow } :: vs)
        { s.release with nextShadow := succNonzero s.release.nextShadow }
      refine ⟨_, drainCheck_checked _, fun _ h => ?_, fun _ _ => ?_, fun h => absurd h hk, h3⟩
      · rw [hst] at h; cases h
      · rw [← succNonzero_eq]; exact ⟨h1, h2, broadcast_handedLow (by simp [shadowFrame, Msg.kind])
          (by simp [shadowFrame, Msg.kind, FrameKind.cls]) rfl rfl rfl⟩

/-! ### The release check (R112, R113) -/

theorem oldestHeld_eq (h : List TextUnit) : ∀ k : Nat,
    ((h.zipIdx k).findSome? fun p => if p.1.released then none else some (p.2, p.1)) = none ∧
        (∀ u ∈ h, u.released = true) ∨
      ∃ us u vs, h = us ++ u :: vs ∧ (∀ v ∈ us, v.released = true) ∧ u.released = false ∧
        ((h.zipIdx k).findSome? fun p => if p.1.released then none else some (p.2, p.1)) = some (k + us.length, u) := by
  induction h with
  | nil => intro k; exact .inl ⟨rfl, by simp⟩
  | cons a h ih =>
    intro k
    cases ha : a.released with
    | false => exact .inr ⟨[], a, h, rfl, by simp, ha, by simp [List.zipIdx_cons, ha]⟩
    | true =>
      rcases ih (k + 1) with ⟨h1, h2⟩ | ⟨us, u, vs, h1, h2, h3, h4⟩
      · exact .inl ⟨by simp [List.zipIdx_cons, ha, h1], by simpa [ha] using h2⟩
      · refine .inr ⟨a :: us, u, vs, by simp [h1], by simpa [ha] using h2, h3, ?_⟩
        simp only [List.zipIdx_cons, List.findSome?_cons, ha, if_true]
        rw [h4]; simp; omega

/-- The oldest HELD unit with its place: none where every unit is RELEASED. -/
theorem oldestHeld_cases (s : State) :
    oldestHeld s.translator.history = none ∧ (∀ u ∈ s.translator.history, u.released = true) ∨
      ∃ us u vs, OldestHeld s us u vs ∧ oldestHeld s.translator.history = some (us.length, u) := by
  rcases oldestHeld_eq s.translator.history 0 with h | ⟨us, u, vs, h1, h2, h3, h4⟩
  · exact .inl h
  · exact .inr ⟨us, u, vs, ⟨h1, h2, h3⟩, by simpa [oldestHeld] using h4⟩

theorem OldestHeld.unique {s : State} {us us' vs vs' : List TextUnit} {u u' : TextUnit} (h : OldestHeld s us u vs)
    (h' : OldestHeld s us' u' vs') : us = us' ∧ u = u' ∧ vs = vs' := by
  obtain ⟨e, h1, h2⟩ := h
  obtain ⟨e', h1', h2'⟩ := h'
  rw [e] at e'; clear e
  induction us generalizing us' with
  | nil =>
    cases us' with
    | nil => simpa using e'
    | cons a as => simp at e'; rw [e'.1, h1' a (by simp)] at h2; cases h2
  | cons b bs ih =>
    cases us' with
    | nil => simp at e'; rw [← e'.1, h1 b (by simp)] at h2'; cases h2'
    | cons a as =>
      simp at e'
      obtain ⟨r, x⟩ := ih (fun v hv => h1 v (by simp [hv])) e'.2 (fun v hv => h1' v (by simp [hv]))
      exact ⟨by rw [e'.1, r], x⟩

theorem armHold_armed (s : State) : HoldArmed s (armHold s) := by
  refine ⟨rfl, fun h => ?_, fun us u vs ho => ?_⟩
  · rcases oldestHeld_cases s with ⟨h1, _⟩ | ⟨us, u, vs, h1, _⟩
    · unfold armHold; rw [h1]
    · have := h u (by rw [h1.1]; simp); rw [h1.2.2] at this; cases this
  · rcases oldestHeld_cases s with ⟨_, h1⟩ | ⟨us', u', vs', h1, h2⟩
    · have := h1 u (by rw [ho.1]; simp); rw [ho.2.2] at this; cases this
    · obtain ⟨_, rfl, _⟩ := ho.unique h1
      unfold armHold; rw [h2]; dsimp only
      constructor
      · rintro ⟨ha, hd⟩
        rw [if_pos (by simp [ha, hd])]
        refine ⟨_, rfl, ?_⟩
        unfold due interval at hd
        have := of_decide_eq_false hd
        unfold interval; omega
      · intro h; rw [if_neg (by rcases h with h | h <;> simp [h])]

/-- The HELD units of a history. -/
def heldCount (h : List TextUnit) : Nat := h.countP fun u => !u.released

theorem DrainChecked.translator {s t : State} (h : DrainChecked s t) : t.translator = s.translator := by
  by_cases hd : s.floor.state = .draining ∧
      (∀ u ∈ s.translator.history, u.released = false → u.stream ≠ .official) ∧ ∀ f ∈ s.bus.queue, f.kind ≠ .text
  · exact (h.2 hd).1
  · rw [h.1 hd]

/-- A release leaves the units around it, and its unit RELEASED. -/
theorem UnitReleased.history {s t : State} {us vs : List TextUnit} {u : TextUnit} (hs : u.stream ≠ .pending)
    (h : UnitReleased s t us u vs) :
    ∃ seq, t.translator.history = us ++ { u with released := true, seq := seq } :: vs := by
  obtain ⟨m, hd, h1, h2, h3, -⟩ := h
  rw [hd.translator]
  by_cases hk : u.kind = .format
  · exact ⟨none, (h3 hk).1⟩
  · by_cases hst : u.stream = .official
    · exact ⟨_, (h1 hk hst).1⟩
    · exact ⟨_, (h2 hk (by revert hs hst; cases u.stream <;> simp)).1⟩

theorem releaseDue_check (n : Nat) : ∀ s : State, heldCount s.translator.history ≤ n →
    ReleaseCheck s (armHold (releaseDue n s)) := by
  induction n with
  | zero =>
    intro s h
    refine .over (fun us u vs ho => ?_) (armHold_armed s)
    rw [ho.1] at h; simp [heldCount, ho.2.2] at h
  | succ n ih =>
    intro s h
    unfold releaseDue
    rcases oldestHeld_cases s with ⟨h1, h2⟩ | ⟨us, u, vs, h1, h2⟩
    · rw [h1]
      refine .over (fun us u vs ho => ?_) (armHold_armed s)
      have := h2 u (by rw [ho.1]; simp); rw [ho.2.2] at this; cases this
    · rw [h2]; dsimp only
      by_cases hr : Releasable s u
      · rw [if_pos (by simp [hr.1, hr.2.1, hr.2.2])]
        have hu := releaseUnit_released hr.2.2 h1.1
        refine .release h1 hr hu (ih _ ?_)
        obtain ⟨seq, he⟩ := hu.history hr.2.2
        rw [he]; rw [h1.1] at h
        simp [heldCount, h1.2.2] at h ⊢; omega
      · rw [if_neg (by intro hc; simp at hc; exact hr ⟨hc.1.1, hc.1.2, hc.2⟩)]
        refine .over (fun us' u' vs' ho => ?_) (armHold_armed s)
        obtain ⟨_, rfl, _⟩ := h1.unique ho; exact hr

/-- What the release check does. -/
theorem settle_check (s : State) : ReleaseCheck s (settle s) :=
  releaseDue_check _ s List.countP_le_length

/-- An event whose own act gives m, ended by the release check. -/
theorem settle_then {s m : State} (hm : NothingDue s → NothingDue m) : ThenReleases s m (settle m) := by
  refine ⟨settle_check m, (settle_act m).outsideFloor ?_, fun h => ?_⟩
  · have hd : ∀ s : State, (drainCheck s).release.recordOn = s.release.recordOn := fun s => by
      rw [(drainCheck_act s).release]
    have hb : ∀ (m : Msg) (s : State), (broadcast m s).release = s.release := fun m s => (broadcast_act m s).release
    have hu : ∀ i u (s : State), (releaseUnit i u s).release.recordOn = s.release.recordOn := by
      intro i u s; unfold releaseUnit; dsimp only; split <;> rw [hd]
      · rfl
      · rw [hb]; rfl
      · rw [hb]; rfl
      · rfl
    show (releaseDue _ m).release.recordOn = _
    generalize m.translator.history.length = n
    clear hm
    induction n generalizing m with
    | zero => rfl
    | succ n ih =>
      unfold releaseDue; split
      · rfl
      · split
        · rw [ih, hu]
        · rfl
  · obtain ⟨x, hx⟩ := settle_none (hm h); rw [hx]

/-! ### Room for a unit, and the GAP unit (R61, R82, R84, R86) -/

/-- What the capacity rule does. -/
theorem makeRoom_made (s : State) : RoomMade s (makeRoom s) := by
  unfold RoomMade makeRoom
  cases hh : s.translator.history with
  | nil => exact ⟨fun _ => rfl, by intro u us h; cases h⟩
  | cons a as =>
    dsimp only
    refine ⟨fun h => by rw [if_pos h], ?_⟩
    rintro u us ⟨⟩ hl
    rw [if_neg (by omega)]
    refine ⟨fun h => ?_, fun h => ?_⟩
    · rw [if_pos h]; unfold dropOldest; rw [hh]; rfl
    · have hn : ¬ a.released = true := by simp [h]
      rw [if_neg hn]
      have hdrop : ∀ x v, x.translator.history = v :: as →
          dropOldest x = { x with translator := { x.translator with history := as } } := by
        intro x v hx; unfold dropOldest; rw [hx]; rfl
      cases ha : s.release.active with
      | true =>
        have hp : ({ a with stream := if a.stream = .pending then .shadow else a.stream } : TextUnit).stream ≠
            .pending := by show (if _ then _ else _) ≠ _; split <;> simp_all
        have hr : UnitReleased s (forceOldest a s) []
            { a with stream := if a.stream = .pending then .shadow else a.stream } as := by
          unfold forceOldest; rw [if_pos ha]; exact releaseUnit_released (us := []) hp hh
        obtain ⟨seq, he⟩ := hr.history hp
        refine ⟨_, _, fun _ => hr, fun h => by simp at h, ?_, settle_check _⟩
        rw [← hdrop _ _ he]; exact drainCheck_checked _
      | false =>
        refine ⟨s, _, fun h => by simp at h, fun _ => rfl, ?_, settle_check _⟩
        have : dropOldest (forceOldest a s) = { s with translator := { s.translator with history := as } } := by
          unfold forceOldest; rw [ha, if_neg (by simp), hh]; rfl
        rw [this]; exact drainCheck_checked _

end Sys2Proof.Machine
end

