-- ==== Sys2Proof/Laws/Startup.lean ====
section
/-! SUPPORT. What the checks of LOAD say, in the words of the rules: configuration block, regions, clamping, dictionary
headers, device images (R42, R170 to R172). -/

namespace Sys2Proof.Machine

/-- Bytes stand for a number below 256 to their count. -/
theorem beNat_lt (bs : List Byte) : beNat bs < 256 ^ bs.length := by
  unfold beNat
  have : ∀ (bs : List Byte) (acc k : Nat), acc < 256 ^ k →
      bs.foldl (fun acc b => acc * 256 + b.toNat) acc < 256 ^ (k + bs.length) := by
    intro bs
    induction bs with
    | nil => intro acc k h; simpa using h
    | cons b bs ih =>
      intro acc k h
      have hb := b.isLt
      have := ih (acc * 256 + b.toNat) (k+1) (by rw [pow_succ]; omega)
      simp only [List.foldl_cons, List.length_cons]
      rwa [show k + (bs.length + 1) = k + 1 + bs.length by omega]
  simpa using this bs 0 0 (by simp)

/-- A field of n bytes is below 256 ^ n. -/
theorem fieldAt_lt (bs : List Byte) (off n : Nat) : fieldAt bs off n < 256 ^ n := by
  unfold fieldAt
  exact (beNat_lt _).trans_le (Nat.pow_le_pow_right (by norm_num) (by simp))

/-- A 16-bit field equals a CRC as a number exactly when it does as a word. -/
theorem crcField_iff (v : Nat) (h : v < 65536) (c : BitVec 16) : v = c.toNat ↔ BitVec.ofNat 16 v = c := by
  constructor
  · rintro rfl; simp
  · rintro rfl; simp; omega

/-- With the default window installed the configuration block is the first 445 bytes of the flash (R33). -/
theorem configBlock_default (s : State) (h : s.port.regions = defaultRegions) :
    configBlock s = Memory.readBytes s.port.flashMem 0 445 := by
  simp [configBlock, MemoryPort.dataAt, MemoryPort.readAt, MemoryPort.allows, PortOp.isProgram, Config.flashSpace,
    MemoryPort.bytesAt, MemoryPort.region, h, defaultRegions, MemoryPort.contents, configLength]

/-- The checks of R171 steps 1 and 2, in their words. -/
theorem blockGood_iff (blk : List Byte) (r : Bool) : blockGood blk r = true ↔ r = true ∧ BlockSound blk := by
  unfold blockGood BlockSound
  rw [Bool.and_eq_true, Bool.and_eq_true, decide_eq_true_eq, decide_eq_true_eq, crcField_iff _ (fieldAt_lt _ _ _),
    and_assoc]

/-- The port's own test of a region is R171 step 4. -/
theorem Span.fits_iff (p : Span) (top limit : Nat) (h : top ≤ 2 ^ 24) :
    p.fits top limit = true ↔ p.Allowed top limit := by
  unfold Span.fits Span.Allowed
  simp only [Bool.and_eq_true, decide_eq_true_eq, List.any_eq_true, List.mem_range, beq_iff_eq]
  constructor
  · rintro ⟨⟨⟨⟨h1, h2⟩, k, hk, h3⟩, h4⟩, h5⟩
    refine ⟨⟨k, ?_, h3.symm⟩, h2, Nat.dvd_of_mod_eq_zero h4, h5⟩
    by_contra hc
    have : 2 ^ k < 2 ^ 12 := Nat.pow_lt_pow_right (by norm_num) (by omega)
    omega
  · rintro ⟨⟨k, hk, h3⟩, h2, h4, h5⟩
    refine ⟨⟨⟨⟨?_, h2⟩, k, ?_, h3.symm⟩, Nat.mod_eq_zero_of_dvd h4⟩, h5⟩
    · rw [h3]; exact Nat.pow_le_pow_right (by norm_num) hk (n := 2)
    · have : 2 ^ k ≤ 2 ^ 24 := by omega
      have := (Nat.pow_le_pow_iff_right (by norm_num)).1 this
      omega

/-- Two spans that hold addresses overlap exactly when they share one. -/
theorem Span.overlaps_iff (p q : Span) (hp : 0 < p.size) (hq : 0 < q.size) : p.overlaps q = false ↔ p.Apart q := by
  unfold Span.overlaps Span.Apart Span.has
  constructor
  · intro h a ⟨⟨h1, h2⟩, h3, h4⟩
    simp at h; omega
  · intro h
    by_contra hc
    simp at hc
    exact h (max p.base q.base) ⟨⟨by omega, by omega⟩, by omega, by omega⟩

/-- An allowed span holds an address. -/
theorem Span.Allowed.pos (p : Span) (a b) (h : p.Allowed a b) : 0 < p.size := by
  obtain ⟨⟨k, _, h⟩, _⟩ := h; rw [h]; positivity

/-- The check of a flash region, in the words of R171 step 4. -/
theorem flashSpanGood_iff (p : Span) (t : Settings) : flashSpanGood t p = true ↔ p.AllowedInFlash t := by
  unfold flashSpanGood Span.AllowedInFlash
  rw [Bool.and_eq_true, Span.fits_iff _ _ _ (by decide)]
  constructor
  · rintro ⟨h1, h2⟩
    exact ⟨h1, (Span.overlaps_iff _ _ (Span.Allowed.pos _ _ _ h1) (by decide)).1 (by simpa [configSpan] using h2)⟩
  · rintro ⟨h1, h2⟩
    refine ⟨h1, ?_⟩
    simpa [configSpan] using (Span.overlaps_iff _ _ (Span.Allowed.pos _ _ _ h1) (by decide)).2 h2

/-- The region checks, in the words of R171 step 4. -/
theorem regionsGood_iff (blk : List Byte) (t : Settings) (r : Bool) :
    regionsGood blk t r = true ↔ RegionsAllowed blk t r := by
  unfold regionsGood RegionsAllowed
  simp only [Bool.and_eq_true, flashSpanGood_iff, List.all_eq_true, List.mem_filter, Bool.or_eq_true, Bool.not_eq_true',
    overlaySpanGood, decide_eq_true_eq, Span.present, bne_iff_ne, and_imp, and_assoc]
  rw [Span.fits_iff _ _ _ (by decide)]
  refine and_congr_right fun hn => and_congr ?_ ?_
  · refine forall_congr' fun p => forall_congr' fun hp => forall_congr' fun hne => and_congr_right fun h => ?_
    exact Span.overlaps_iff _ _ (by omega) (Span.Allowed.pos _ _ _ hn.1)
  · cases r <;> simp [mib, kib]

/-- A device image read back: every listed cell, and elsewhere what was there. -/
theorem foldlCells_read (space : Nat) (cells : List Host.Cell) (m : Memory) (hm : Memory.wf m)
    (hs : ∀ c ∈ cells, c.1 < space) (hn : (cells.map Prod.fst).Nodup) :
    (∀ c ∈ cells,
        Memory.read (cells.foldl (fun m c => if c.1 < space then Memory.write m c.1 c.2 else m) m) c.1 = c.2) ∧
    ∀ a, a ∉ cells.map Prod.fst →
      Memory.read (cells.foldl (fun m c => if c.1 < space then Memory.write m c.1 c.2 else m) m) a = Memory.read m a := by
  induction cells generalizing m with
  | nil => simp
  | cons d ds ih =>
    simp only [List.map_cons, List.nodup_cons] at hn
    have hd : d.1 < space := hs d (by simp)
    simp only [List.foldl_cons, hd, if_true]
    obtain ⟨h1, h2⟩ := ih (Memory.write m d.1 d.2) (Memory.wf_write hm _ _) (fun c hc => hs c (by simp [hc])) hn.2
    refine ⟨?_, ?_⟩
    · intro c hc
      rcases List.mem_cons.1 hc with rfl | hc
      · rw [h2 _ hn.1, Memory.read_write_same hm]
      · exact h1 c hc
    · intro a ha
      simp only [List.map_cons, List.mem_cons, not_or] at ha
      rw [h2 a ha.2, Memory.read_write_ne m _ ha.1]

/-- A configured field is taken by its row of R172. -/
theorem clampField_takes (blk : List Byte) (off n lo hi std : Nat) (h : lo ≤ hi) :
    (clampField blk off n lo hi std).Takes blk off n lo hi std := by
  unfold clampField Clamped.Takes allOnes clampTo
  dsimp only
  split
  · rfl
  · split
    · simp; omega
    · split
      · simp; omega
      · simp; omega

/-- A clamped field stays under its upper end. -/
theorem clampField_le (blk : List Byte) (off n lo hi std : Nat) (h : lo ≤ hi) (h2 : std ≤ hi) :
    (clampField blk off n lo hi std).value ≤ hi := by
  unfold clampField clampTo; dsimp only; split <;> simp; · exact h2
  · omega

/-- A header that passes the checks of R42 enables its window with its values. -/
theorem dictGeometry_sound (size : Nat) (h : List Byte) (m heap heapSize : Nat)
    (hs : HeaderSound size h m heap heapSize) :
    dictGeometry size h = some ⟨2 ^ m, max 1 (min 64 (fieldAt h 5 1)), 16, heap, heapSize⟩ := by
  obtain ⟨h1, h2, rfl, rfl, rfl, h3⟩ := hs
  unfold dictGeometry; dsimp only
  rw [if_pos]
  rw [crcField_iff _ (fieldAt_lt _ _ _)]
  refine ⟨h1, h2, h3.1, h3.2.1, by omega, h3.2.2.1, h3.2.2.2.1, h3.2.2.2.2⟩

/-- A header that fails a check of R42 enables nothing. -/
theorem dictGeometry_unsound (size : Nat) (h : List Byte)
    (hs : ¬ ∃ m heap heapSize, HeaderSound size h m heap heapSize) :
    dictGeometry size h = none := by
  unfold dictGeometry; dsimp only
  rw [if_neg]
  intro ⟨h1, h2, h3⟩
  rw [crcField_iff _ (fieldAt_lt _ _ _)] at h2
  exact hs ⟨_, _, _, h1, h2, rfl, rfl, rfl, h3.1, h3.2.1, h3.2.2.2⟩

end Sys2Proof.Machine
end

