-- ==== Sys2Proof/Tests/Slice0.lean ====
section
/-! SUPPORT. Small checks of the model on fixed values, and for every statement of the certificate a state and operands
that meet its hypotheses (one for each of its clauses). Expected values come from the spec's own tables and examples, or
are worked out by hand from its rules; each check names its source. -/

open Sys2Proof Sys2Proof.Machine

namespace Sys2Proof.Tests

/-! ### Well-formedness: one ill-formed term for each check -/

/-- A PRESENCE-sized frame of a class and kind from station 3, with an empty payload. -/
def plain (ident : BitVec 11) : LineFrame := ⟨ident, 0x10, 0, [], 0, BitVec.allOnes 7, 0⟩

theorem test_wf_image_outside_flash : Instr.wellFormed (.powerOnReset ⟨0, false⟩ [(16777216, 0)] []) = false := by
  decide

theorem test_wf_image_outside_ram : Instr.wellFormed (.powerOnReset ⟨0, true⟩ [] [(2097152, 0)]) = false := by decide

theorem test_wf_image_inside : Instr.wellFormed (.powerOnReset ⟨0, true⟩ [(16777215, 0)] [(2097151, 0)]) = true := by
  decide

theorem test_wf_stuck_needs_more_than_10 : Instr.wellFormed (.busStuck 10) = false := by decide

theorem test_wf_kind_of_claim : Instr.wellFormed (.claimReceived (plain 0x013)) = false := by decide

theorem test_wf_claim : Instr.wellFormed (.claimReceived (plain 0x003)) = true := by decide

theorem test_wf_end_field : Instr.wellFormed (.claimReceived { plain 0x003 with endBits := 0x7E }) = false := by decide

theorem test_wf_payload_length : Instr.wellFormed (.claimReceived { plain 0x003 with length := 1 }) = false := by decide

theorem test_wf_length_above_160 :
    Instr.wellFormed (.frameDiscarded { plain 0x003 with length := 161, payload := [0] }) = false := by decide

theorem test_wf_broken_off : Instr.wellFormed (.frameDiscarded { plain 0x003 with length := 161 }) = true := by decide

theorem test_wf_age : Instr.wellFormed (.frameDiscarded { plain 0x003 with age := 7 }) = false := by decide

/-! ### Arithmetic and layouts, against the spec's examples -/

/-- spec/03, "Worked case: one stroke" and "Worked case: two strokes": hash and home slots. -/
theorem test_hash_one : (outlineHash [524552], homeSlot (outlineHash [524552]) 1024) = (524649, 361) := by decide

theorem test_hash_two : (outlineHash [10252, 622932], homeSlot (outlineHash [10252, 622932]) 1024,
    homeSlot (outlineHash [10252, 622932]) 65536) = (963351, 791, 45847) := by decide

/-- spec/03, "Arithmetic at the limit": the product wraps at 2^32. -/
theorem test_hash_wraps : (150000000 : Word) * 33 + 8 = 655032712 := by decide

/-- spec/04, "Number strokes". -/
theorem test_number_00 : convertNumber 4325637 = some (chars "25800") := by decide

theorem test_number_reversed : convertNumber 4331781 = some (chars "85200") := by decide

theorem test_number_e_alone : (convertNumber 2053, untranslate 2053) = (none, chars "#TE") := by decide

theorem test_number_no_digit : (convertNumber 4194305, untranslate 4194305) = (none, chars "#-Z") := by decide

/-- spec/04, "Untranslate texts". -/
theorem test_untranslate_hyphen : (untranslate 524296, untranslate 524288) = (chars "K-T", chars "-T") := by decide

theorem test_untranslate_middle : (untranslate 33792, untranslate 622932) = (chars "*P", chars "TPHAPBT") := by decide

theorem test_untranslate_all : untranslate 8388607 = chars "#STKPWHRAO*EUFRPBLGTSDZ" := by decide

/-- spec/09, "The worked case" and "A step": the estimate after each sample. -/
theorem test_offset_samples : (nextOffset none 599750, nextOffset (some 9596000) 599753,
    nextOffset (some 9596006) 599900) = (9596000, 9596006, 9596022) := by decide

theorem test_offset_step : nextOffset (some 9596022) (-400800) = -6412800 := by decide

/-- spec/09, "Conversions". -/
theorem test_convert : (convertWith 9596006 1010000, convertWith 9596022 1010000, convertWith (-6412800) 1500,
    convertWith (-164000) 100) = (410250, 410249, 402300, 10350) := by decide

/-- R17: a VOID record is 16 bytes of 0x00 and carries a good CRC. -/
theorem test_void_record : Note.void.bytes = List.replicate 16 0 ∧ slotGood Note.void.bytes = true := by decide +kernel

/-- R182: most significant byte first; a STROKE record with the stroke 524 552 (08 01 08). -/
theorem test_stroke_record : (Note.stroke 1 2 524552 3).body =
    [1, 0, 0, 0, 1, 0, 0, 0, 2, 8, 1, 8, 0, 3, 0] := by decide

/-- R129, note 1: class × 256 + kind × 16 + source. -/
theorem test_identifier : (FrameKind.claim.ident 2, FrameKind.pass.ident 2, FrameKind.text.ident 2,
    FrameKind.presence.ident 5) = (2, 50, 770, 1541) := by decide

/-- spec/12: a CLAIM of 5 bytes, the Held bit lowest. -/
theorem test_claim_payload : (Msg.claim 258 true).payload = [0, 0, 1, 2, 1] := by decide

/-- spec/12: a PASS names the target, then the known, then the cut. -/
theorem test_pass_payload : (Msg.pass 7 1 256).payload = [7, 0, 0, 0, 1, 0, 0, 1, 0] := by decide

/-- R22: 5 records from slot 13 cross a page boundary after 3 of them. -/
theorem test_page_split : pageSplit 13 5 = [(13, 3), (16, 2)] ∧ pageSplit 12 4 = [(12, 4)] := by decide

/-- R10, R84, R114: 4 294 967 295 is followed by 1. -/
theorem test_wrap : succNonzero 4294967295 = 1 ∧ nextOfficial none = 1 := by decide

/-- R90: the entry of TKEF/TPHAPBT with 12 characters takes 24 heap bytes, that of TKEF alone 8 (spec/06). -/
theorem test_entry_sizes : (entrySize 2 12, entrySize 1 0) = (24, 8) := by decide

/-- spec/05, "Assembly of a short passage", units 1, 2, 4 and 8. -/
theorem test_assembly_label : assembleEntry [chars "THE COURT: "] .initial [5, 1] =
    some ⟨.word, chars "THE COURT: ", false, true, false, some 1, ⟨.capNext, true, false, some 1, false⟩⟩ := by decide

theorem test_assembly_good : assembleEntry [] ⟨.capNext, true, false, some 1, false⟩ (chars "good") =
    some ⟨.word, chars "Good", false, false, false, none, ⟨.none, false, false, some 1, false⟩⟩ := by decide

theorem test_assembly_stop : assembleEntry [] ⟨.none, false, false, some 1, false⟩ ([1] ++ chars ".") =
    some ⟨.word, chars ".", false, false, false, none, ⟨.capNext, false, false, some 1, false⟩⟩ := by decide

theorem test_assembly_format : assembleEntry [] ⟨.none, false, true, some 1, false⟩ [4, 2] =
    some ⟨.format, [], false, false, false, none, ⟨.capNext, false, true, some 1, true⟩⟩ := by decide

/-! ### States for the witnesses -/

/-- A notes region of 256 record slots. -/
def notesRegion : Region := ⟨.notes, .flash, 0x300000, 4096, [.flashRead, .flashProgram]⟩

/-- A notes region of one record slot, to reach its end. -/
def oneSlot : Region := { notesRegion with size := 16 }

/-- Station 5 in RUN with an idle bus, scanning, notes open, nothing waiting; `notes` is its notes region. -/
def runningWith (notes : Region) : State :=
  { State.reset with
    seq := { State.reset.seq with phase := .run, loadStep := .done, accepted := true, addr := 5, ramFit := true }
    scanner := { Scanner.initial with active := true, markActive := true, period := some 1, nextStroke := some 7 }
    notes := { NotesWriter.initial with opened := true, writePos := some 0, restartCount := some 1 }
    port :=
      { State.reset.port with
        flash := .free, timer := none
        regions :=
          [notes, ⟨.job, .flash, 0x200000, 4096, [.flashRead]⟩, ⟨.main, .flash, 0x100000, 4096, [.flashRead]⟩,
            ⟨.overlay, .ram, 0, 0x40000, [.ramRead, .ramWrite]⟩] }
    translator := { Translator.initial with active := true }
    release := { ReleaseUnit.initial with active := true }
    bus := { BusController.initial with follower := .idle }
    peers := { PeerUnit.initial with timer := some 250 }
    floor := { FloorRecord.initial with vacancyTimer := some 1000 } }

def running : State := runningWith notesRegion

/-- The same station in a floor state, with a holder, a partner and every timer of the floor at 20 ms. -/
def onFloor (state : FloorState) (holder partner : Option Station) : State :=
  { running with
    floor :=
      { running.floor with
        state := state, holder := holder, partner := partner, claimWait := some 20, holdOff := some 20,
        claimWindow := some 20, reliefTimer := some 20, yieldTimer := some 20, vacancyTimer := some 20 } }

/-- A command as station a sends it, to all. -/
def from_ (a : Station) (m : Msg) : LineFrame := m.frame a none

/-- A unit of some stream, released or HELD, created at time 0. -/
def unit (kind : UnitKind) (stream : Stream) (released : Bool) (seq : Option Word) : TextUnit :=
  { number := 1, kind := kind, strokes := [1], start := 100, created := 0, text := [0x61], spaceBefore := true,
    paragraph := false, marked := true, offRecord := false, truncated := false, gap := none, speaker := none,
    snapshot := .initial, stream := stream, released := released, seq := seq }

def withHistory (h : List TextUnit) (s : State) : State :=
  { s with translator := { s.translator with history := h } }

def withQueue (n : Nat) (s : State) : State :=
  { s with bus := { s.bus with queue := List.replicate n ⟨.msg (.retract true 1), none, false⟩ } }

/-- The same part at another local time. -/
def atTime (n : Word) (s : State) : State := { s with seq := { s.seq with clock := n } }

/-- A history of n units, the oldest of which is given; the others are released. -/
def fullOf (n : Nat) (oldest : TextUnit) (s : State) : State :=
  withHistory (oldest :: List.replicate (n - 1) (unit .word .shadow true (some 9))) s

/-- Two HELD units, PENDING and OFFICIAL, due since 1500, at local time 1500. -/
def dueUnits (s : State) : State :=
  atTime 1500 (withHistory [unit .word .pending false none, unit .word .official false none] s)

/-- A CRC-16 in which each register value is looked at before the next bit, so that the kernel evaluates it in small
steps. -/
def strictCrc : BitVec 16 → List Bool → BitVec 16
  | r, [] => r
  | r, b :: bs => if r.toNat < 65536 then strictCrc (crc16Step r b) bs else r

theorem crc16_strict (bs : List Bool) : crc16 bs = strictCrc 0xFFFF bs := by
  have h : ∀ r, bs.foldl crc16Step r = strictCrc r bs := by
    induction bs with
    | nil => exact fun _ => rfl
    | cons b bs ih => intro r; rw [strictCrc, if_pos r.isLt, List.foldl_cons, ih]
  exact h _

/-! ### Witnesses: resets and LOAD -/

theorem test_meets_StepRunsFrontOrTicks : State.reset.pending = [] := rfl

theorem test_meets_ResetsRestartEveryBlock :
    (([(7, 1)] : List Host.Cell).map Prod.fst).Nodup ∧ (([(9, 2)] : List Host.Cell).map Prod.fst).Nodup ∧
      Instr.wellFormed (.powerOnReset ⟨5, true⟩ [(7, 1)] [(9, 2)]) = true ∧ State.reset.notes.burst = none ∧
      Memory.wf State.reset.port.flashMem := by decide

def programming : State :=
  { running with
    notes := { running.notes with burst := some ⟨.first, 1, [(0, 1)], (0, 1)⟩, fifo := [.mark 3] }
    port := { running.port with flash := .programming, timer := some 50 } }

theorem test_meets_FlashRecoveryAndTimeout :
    Loading State.reset .recovery ∧ ¬ Loading running .recovery ∧
      (programming.port.flash = .programming ∧ programming.port.timer = some 50) ∧
      running.port.flash ≠ .programming := by unfold Loading; decide

/-- A configuration block: version 1, 16 MiB of flash, 2048 KiB of RAM, MAIN, no JOB, NOTES, OVERLAY of 256 KiB, every
other field 0xFF, and a CRC. -/
def block (mainSize notesSize crc : Nat) : List Byte :=
  beBytes 2 1 ++ [16, 1] ++ beBytes 2 2048 ++ beBytes 4 0x100000 ++ beBytes 4 mainSize ++ beBytes 4 0x200000 ++
    beBytes 4 0 ++ beBytes 4 0x300000 ++ beBytes 4 notesSize ++ beBytes 4 0 ++ beBytes 4 0x40000 ++
    List.replicate 405 0xFF ++ beBytes 2 crc

/-- A part at the end of its configuration read, over a flash that holds these bytes. -/
def configured (bytes : List Byte) : State :=
  { State.reset with
    seq := { State.reset.seq with loadStep := .config, ramFit := true }
    port :=
      { State.reset.port with
        flash := .reading, timer := none, deviceReady := true, flashMem := Memory.writeBytes [] 0 bytes } }

def flashBlock (s : State) : List Byte := Memory.readBytes s.port.flashMem 0 445

theorem flashBlock_of (bytes : List Byte) (h : bytes.length = 445) : flashBlock (configured bytes) = bytes := by
  have := Memory.readBytes_writeBytes Memory.wf_nil 0 bytes
  rw [h] at this; exact this

theorem flashBlock_configured (main notes crc : Nat) :
    flashBlock (configured (block main notes crc)) = block main notes crc := by
  apply flashBlock_of
  simp only [block, beBytes, List.length_append, List.length_map, List.length_range, List.length_replicate,
    List.length_cons, List.length_nil]

/-- The block's CRC is wrong by one. -/
theorem test_meets_RefusedConfiguration_crc :
    Loading (configured (block 0 4096 44105)) .config ∧
      (configured (block 0 4096 44105)).port.regions = defaultRegions ∧
      ¬ BlockSound (flashBlock (configured (block 0 4096 44105))) := by
  rw [flashBlock_configured]; unfold Loading BlockSound; rw [crc16_strict]; decide +kernel

/-- The block is good, but the size of NOTES is 0. -/
theorem test_meets_RefusedConfiguration_regions :
    Loading (configured (block 0 0 42380)) .config ∧
      (configured (block 0 0 42380)).port.regions = defaultRegions ∧
      BlockSound (flashBlock (configured (block 0 0 42380))) ∧
      ¬ RegionsAllowed (flashBlock (configured (block 0 0 42380)))
        (readSettings (flashBlock (configured (block 0 0 42380)))).1 true := by
  simp only [flashBlock_configured]; rw [← regionsGood_iff]; unfold Loading BlockSound; rw [crc16_strict]; decide +kernel

theorem test_meets_AcceptedConfiguration :
    Loading (configured (block 4096 4096 61504)) .config ∧
      (configured (block 4096 4096 61504)).port.regions = defaultRegions ∧
      (configured (block 4096 4096 61504)).port.deviceReady = true ∧
      BlockSound (flashBlock (configured (block 4096 4096 61504))) ∧
      RegionsAllowed (flashBlock (configured (block 4096 4096 61504)))
        (readSettings (flashBlock (configured (block 4096 4096 61504)))).1 true := by
  simp only [flashBlock_configured]; rw [← regionsGood_iff]; unfold Loading BlockSound; rw [crc16_strict]; decide +kernel

/-- With neither MAIN nor JOB. -/
theorem test_meets_AcceptedConfiguration_bare :
    BlockSound (flashBlock (configured (block 0 4096 44104))) ∧
      RegionsAllowed (flashBlock (configured (block 0 4096 44104)))
        (readSettings (flashBlock (configured (block 0 4096 44104)))).1 true := by
  simp only [flashBlock_configured]; rw [← regionsGood_iff]; unfold BlockSound; rw [crc16_strict]; decide +kernel

/-- A dictionary header: m, heap offset, heap size (spec/03). -/
def header (m heap size crc : Nat) : List Byte :=
  beBytes 4 0x5A3C9617 ++ [BitVec.ofNat 8 m, 0] ++ beBytes 4 heap ++ beBytes 4 size ++ beBytes 2 crc

def headersDue (l : LoadStep) : State :=
  { running with
    seq := { running.seq with phase := .load, loadStep := l }
    port := { running.port with flashMem := Memory.writeBytes [] 0x200000 (header 8 1040 100 57981) } }

/-- JOB's header is good, its heap reaching 1140 of 4096 bytes. -/
theorem test_meets_DictionaryHeader_job :
    Loading (headersDue .jobHeader) .jobHeader ∧
      (headersDue .jobHeader).port.region .job = some ⟨.job, .flash, 0x200000, 4096, [.flashRead]⟩ ∧
      HeaderSound 4096 (Memory.readBytes (headersDue .jobHeader).port.flashMem 0x200000 16) 8 1040 100 := by
  unfold Loading HeaderSound; decide +kernel

/-- MAIN's header reads erased. -/
theorem test_meets_DictionaryHeader_main :
    Loading (headersDue .mainHeader) .mainHeader ∧
      (headersDue .mainHeader).port.region .main = some ⟨.main, .flash, 0x100000, 4096, [.flashRead]⟩ ∧
      ¬ ∃ m heap size, HeaderSound 4096 (Memory.readBytes (headersDue .mainHeader).port.flashMem 0x100000 16) m heap
        size := by
  refine ⟨by unfold Loading; decide, by decide, ?_⟩
  rintro ⟨m, heap, size, h, -⟩
  revert h; decide +kernel

/-- A part at its overlay header, with a RAM that holds a sound header of an empty overlay. -/
def overlayDue (kind : ResetKind) : State :=
  { running with
    seq := { running.seq with phase := .load, loadStep := .overlayHeader, resetKind := kind }
    port :=
      { running.port with
        ramMem := Memory.writeBytes [] 0 (beBytes 4 1024 ++ List.replicate 10 0 ++ beBytes 2 10700) } }

theorem test_meets_OverlayCleared_kept :
    Loading (overlayDue .pin) .overlayHeader ∧
      (overlayDue .pin).port.region .overlay = some ⟨.overlay, .ram, 0, 0x40000, [.ramRead, .ramWrite]⟩ ∧
      Memory.wf (overlayDue .pin).port.ramMem ∧ (overlayDue .pin).settings.overlayLog2 ≤ 12 ∧
      (overlayDue .pin).seq.resetKind = .pin ∧
      OverlayHeaderSound (overlayDue .pin).settings (Memory.readBytes (overlayDue .pin).port.ramMem 0 16) := by
  unfold Loading OverlayHeaderSound; decide +kernel

theorem test_meets_OverlayCleared_cleared :
    Loading (overlayDue .powerOn) .overlayHeader ∧ Memory.wf (overlayDue .powerOn).port.ramMem ∧
      (overlayDue .powerOn).settings.overlayLog2 ≤ 12 ∧ (overlayDue .powerOn).seq.resetKind ≠ .pin := by
  unfold Loading; decide +kernel

/-! ### Witnesses: the resume scan -/

/-- A part in SCAN, with six notes and a mark held, over a notes region whose first two slots hold these records. -/
def resuming (r : Region) (records : List Note) : State :=
  { runningWith r with
    seq := { running.seq with phase := .scan }
    scanner := { Scanner.initial with markActive := true, period := some 1, heldMark := some 3 }
    notes :=
      { NotesWriter.initial with heldNotes := List.replicate 6 (.record true 1), resumeScan := some (.forward 0) }
    port :=
      { (runningWith r).port with
        flash := .reading, flashMem := Memory.writeBytes [] r.base (records.flatMap Note.bytes) } }

/-- One record, room for 255, and seven notes to hand. -/
theorem test_meets_ResumeScanOpens_room :
    (resuming notesRegion [.mark 9]).seq.phase = .scan ∧ NotesUnopened (resuming notesRegion [.mark 9]) ∧
      WrittenUpTo (resuming notesRegion [.mark 9]) notesRegion 1 ∧
      (resuming notesRegion [.mark 9]).notes.resumeScan = some (.forward 0) ∧
      (List.replicate 6 (Note.record true 1) ++ [Note.mark 3]).length ≤ 7 ∧ 0 < 4096 / 16 - 1 := by
  unfold NotesUnopened WrittenUpTo NotesRegion; decide +kernel

/-- Seven notes held and a held mark, eight to hand: the mark finds the FIFO full (R18, R19). -/
theorem test_meets_ResumeScanOpens_eighth :
    let s := { resuming notesRegion [.mark 9] with
      notes := { (resuming notesRegion [.mark 9]).notes with heldNotes := List.replicate 7 (.record true 1) } }
    s.seq.phase = .scan ∧ NotesUnopened s ∧ WrittenUpTo s notesRegion 1 ∧
      s.notes.resumeScan = some (.forward 0) ∧ 7 < (s.notes.heldNotes ++ [Note.mark 3]).length ∧
      s.notes.lostCount ≤ 4294967295 := by
  unfold NotesUnopened WrittenUpTo NotesRegion; decide +kernel

theorem test_eighth_note_is_lost :
    let s := { resuming notesRegion [.mark 9] with
      notes := { (resuming notesRegion [.mark 9]).notes with heldNotes := List.replicate 7 (.record true 1) } }
    let t := resumeEnds s
    t.notes.fifo.length = 8 ∧ Note.mark 3 ∉ t.notes.fifo ∧ t.notes.lostCount = 1 ∧
      t.status.isSet .noteLost = true := by decide +kernel

/-- One read of the scan: of a good slot, of the last erased one, and of a damaged slot; and none under way. -/
theorem test_meets_ResumeScanOpens_read :
    (resuming notesRegion [.mark 9]).port.flash = .reading ∧ NotesRegion (resuming notesRegion [.mark 9]) notesRegion ∧
      255 < notesRegion.size / 16 ∧
      slotErased (Memory.readBytes (resuming notesRegion [.mark 9]).port.flashMem (notesRegion.base + 16 * 255) 16) =
        true ∧
      slotGood (Memory.readBytes (resuming notesRegion [.mark 9]).port.flashMem notesRegion.base 16) = true ∧
      slotGood (Memory.readBytes (Memory.writeBytes [] notesRegion.base [1]) notesRegion.base 16) = false ∧
      running.port.flash ≠ .reading := by
  unfold NotesRegion; decide +kernel

/-- A full region, with a lost count that may still rise. -/
theorem test_meets_ResumeScanOpens_full :
    (resuming oneSlot [.mark 9]).seq.phase = .scan ∧ NotesUnopened (resuming oneSlot [.mark 9]) ∧
      WrittenUpTo (resuming oneSlot [.mark 9]) oneSlot 1 ∧ 16 / 16 - 1 = 0 ∧
      (resuming oneSlot [.mark 9]).notes.lostCount ≤ 4294967295 := by
  unfold NotesUnopened WrittenUpTo NotesRegion; decide +kernel

/-- A STROKE record with the last stroke number, then a RESUME record with the last restart count. -/
def twoRecords : State := resuming notesRegion [.stroke 4294967295 0 1 0, .resume 65535 .pin]

theorem test_meets_ResumeScanFixes_found :
    twoRecords.seq.phase = .scan ∧ NotesUnopened twoRecords ∧ WrittenUpTo twoRecords notesRegion 2 ∧
      NewestOfKind twoRecords notesRegion 1 2 0 ∧ NewestOfKind twoRecords notesRegion 6 2 1 := by
  refine ⟨by decide, by unfold NotesUnopened; decide, by unfold WrittenUpTo NotesRegion; decide +kernel, ?_, ?_⟩
  · refine ⟨by decide, by decide +kernel, by decide +kernel, fun i h1 h2 => ?_⟩
    obtain rfl : i = 1 := by omega
    decide +kernel
  · exact ⟨by decide, by decide +kernel, by decide +kernel, fun i h1 h2 => absurd h2 (by omega)⟩

/-- An erased region holds no record of either kind. -/
theorem test_meets_ResumeScanFixes_none :
    WrittenUpTo (resuming notesRegion []) notesRegion 0 ∧ (∀ j, ¬ NewestOfKind (resuming notesRegion []) notesRegion 1 0 j) ∧
      ∀ j, ¬ NewestOfKind (resuming notesRegion []) notesRegion 6 0 j := by
  refine ⟨by unfold WrittenUpTo NotesRegion; decide +kernel, ?_, ?_⟩ <;> exact fun j h => absurd h.1 (by omega)

/-! ### Witnesses: scanner -/

/-- Running, with one cell in some state. -/
def withCell (p : Nat) (c : CellState) (s : State) : State :=
  { s with scanner := { s.scanner with cells := s.scanner.cells.set p c } }

/-- Running, with an open chord of key 0 that began at local time 0, and key 0 held. -/
def inChord (clock : Word) : State :=
  withCell 0 ⟨true, 0⟩
    { running with
      seq := { running.seq with clock := clock }
      scanner := { running.scanner with chord := .chord, accumulator := 1, chordStart := some 0 } }

/-- A cell whose next differing reading is its last, and one whose next is not (debounce 2). -/
theorem test_meets_ScanDebounces :
    ScanDue (withCell 22 ⟨false, 1⟩ running) 1 ∧
      (withCell 22 ⟨false, 1⟩ running).scanner.cells[22]? = some ⟨false, 1⟩ ∧
      (withCell 22 ⟨false, 1⟩ running).scanner.cells[0]? = some ⟨false, 0⟩ := by
  unfold ScanDue; decide

theorem test_meets_ChordOpens_down :
    ScanDue (withCell 22 ⟨false, 1⟩ running) 1 ∧ (withCell 22 ⟨false, 1⟩ running).scanner.chord = .idle ∧
      KeyGoesDown (withCell 22 ⟨false, 1⟩ running) 0x400000 22 := by
  unfold ScanDue; exact ⟨by decide, by decide, ⟨false, 1⟩, by decide⟩

theorem test_meets_ChordOpens_none : ∀ p < 23, ¬ KeyGoesDown (withCell 22 ⟨false, 1⟩ running) 0x800000 p := by
  have h : ∀ p < 23, (0x800000 : BitVec 24).getLsbD p = false := by decide
  rintro p hp ⟨c, -, -, hd, -⟩
  rw [h p hp] at hd; cases hd

theorem test_meets_ChordOpens_kept :
    ChordGood running ∧ step running = .next (tick running) ∧
      step { running with pending := [.busIdle] } = .next running := by
  refine ⟨⟨by decide, ?_, by decide⟩, rfl, rfl⟩
  unfold keyUp; decide

/-- 3000 ms after the chord's start, the limit itself. -/
theorem test_meets_OverlongChord_limit :
    ScanDue (inChord 2999) 1 ∧ (inChord 2999).scanner.chord = .chord ∧ (inChord 2999).scanner.chordStart = some 0 ∧
      keysHeld (cellsAfter (inChord 2999) 1) ≠ 0 ∧ (timeAfter (inChord 2999) 1 - 0).toInt = 3 * 1000 := by
  unfold ScanDue; decide

/-- 3001 ms after the chord's start. -/
theorem test_meets_OverlongChord_beyond :
    ScanDue (inChord 3000) 1 ∧ keysHeld (cellsAfter (inChord 3000) 1) ≠ 0 ∧
      (timeAfter (inChord 3000) 1 - 0).toInt = 3 * 1000 + 1 := by
  unfold ScanDue; decide

def draining (held : Bool) : State :=
  withCell 0 ⟨held, 0⟩ { running with scanner := { running.scanner with chord := .drain } }

theorem test_meets_DrainWaits :
    ScanDue (draining true) 1 ∧ (draining true).scanner.chord = .drain ∧ keysHeld (cellsAfter (draining true) 1) ≠ 0 ∧
      keysHeld (cellsAfter (draining false) 0) = 0 := by
  unfold ScanDue; decide

/-- A chord whose only key is let go at this scan. -/
def letGo (fifo strokes : Nat) : State :=
  { withCell 0 ⟨false, 0⟩ (inChord 50) with
    notes := { running.notes with fifo := List.replicate fifo (.mark 0) }
    strokes := List.replicate strokes ⟨⟨1, 1, 0, 0⟩, none⟩ }

/-- Seven notes leave room, and fifteen strokes leave a place. -/
theorem test_meets_CompletedStroke_room :
    ScanDue (letGo 7 15) 1 ∧ (letGo 7 15).scanner.chord = .chord ∧ (letGo 7 15).scanner.nextStroke = some 7 ∧
      (letGo 7 15).scanner.chordStart = some 0 ∧ keysHeld (cellsAfter (letGo 7 15) 0) = 0 ∧
      (letGo 7 15).notes.opened = true ∧ RoomForNotes (letGo 7 15) 8 ∧ (letGo 7 15).strokes.length < 16 := by
  unfold ScanDue RoomForNotes; decide

/-- Eight notes and sixteen strokes leave none. -/
theorem test_meets_CompletedStroke_full :
    ScanDue (letGo 8 16) 1 ∧ keysHeld (cellsAfter (letGo 8 16) 0) = 0 ∧ (letGo 8 16).notes.opened = true ∧
      ¬ RoomForNotes (letGo 8 16) 8 ∧ (letGo 8 16).notes.pathOpen = true ∧
      (letGo 8 16).strokes = List.replicate 15 ⟨⟨1, 1, 0, 0⟩, none⟩ ++ [⟨⟨1, 1, 0, 0⟩, none⟩] ∧
      16 ≤ (letGo 8 16).strokes.length := by
  unfold ScanDue RoomForNotes; decide

theorem test_meets_UnconnectedCell :
    ScanDue (withCell 23 ⟨false, 1⟩ running) 1 ∧
      (withCell 23 ⟨false, 1⟩ running).scanner.cells[23]? = some ⟨false, 1⟩ ∧
      ∀ p < 23, (0x800000 : BitVec 24).getLsbD p = (0 : BitVec 24).getLsbD p := by
  unfold ScanDue; decide

/-- Running, with a MARK level and count, and some notes in the FIFO. -/
def marked (active : Bool) (level : Option Bool) (count fifo : Nat) : State :=
  { running with
    scanner := { running.scanner with active := active, markLevel := level, markCount := count }
    notes := { running.notes with fifo := List.replicate fifo (.mark 0) } }

theorem test_meets_MarkEdge_first :
    (marked true none 0 0).scanner.period = some 1 ∧ (marked true none 0 0).scanner.markActive = true ∧
      (marked true none 0 0).scanner.markLevel = none := by decide

theorem test_meets_MarkEdge_fall :
    (marked true (some true) 1 6).scanner.markLevel = some true ∧
      (marked true (some true) 1 6).settings.debounce ≤ (marked true (some true) 1 6).scanner.markCount + 1 ∧
      (marked true (some true) 1 6).scanner.active = true ∧ (marked true (some true) 1 6).notes.opened = true ∧
      RoomForNotes (marked true (some true) 1 6) 7 ∧ (marked false (some true) 1 6).scanner.active = false := by
  unfold RoomForNotes; decide

theorem test_meets_MarkEdge_rise :
    (marked true (some false) 1 0).scanner.markLevel = some false ∧
      (marked true (some false) 1 0).settings.debounce ≤ (marked true (some false) 1 0).scanner.markCount + 1 := by
  decide

/-- A sample equal to the level, and one that differs with its count not complete. -/
theorem test_meets_MarkEdge_none :
    (marked true (some true) 1 6).scanner.markLevel = some true ∧
      (marked true (some true) 0 6).scanner.markLevel = some (!false) ∧
      (marked true (some true) 0 6).scanner.markCount + 1 < (marked true (some true) 0 6).settings.debounce ∧
      (marked true (some false) 0 6).scanner.markLevel = some (!true) ∧
      { (marked true none 0 0).scanner with markActive := false }.period = some 1 := by decide

/-! ### Witnesses: notes writer and flash -/

/-- Running, with some notes in the FIFO, a flash state, and the rest of the notes writer as given. -/
def noting (r : Region) (flash : FlashState) (n : NotesWriter) : State :=
  { runningWith r with notes := n, port := { (runningWith r).port with flash := flash, timer := some 50 } }

def fewNotes : NotesWriter := { running.notes with fifo := [.mark 1], flushTimer := some 5 }

theorem test_meets_FlushTimer :
    (noting notesRegion .free fewNotes).notes.flushTimer = some 5 ∧
      (noting notesRegion .reading fewNotes).port.flash ≠ .free ∧
      ((noting notesRegion .free fewNotes).port.burstGranted = false ∧
        (noting notesRegion .free fewNotes).lookup.claims = false ∧
        (noting notesRegion .free fewNotes).notes.pathOpen = true ∧
        (noting notesRegion .free fewNotes).notes.burst = none ∧
        (noting notesRegion .free fewNotes).notes.fifo ≠ []) := by decide

/-- A granted burst of six notes at slot 13, a RESUME at their head and a loss to report. -/
def granted (fifo : List Note) (due : Bool) (lost : Nat) : State :=
  { noting notesRegion .free
      { running.notes with fifo := fifo, flushDue := due, lostCount := lost, writePos := some (16 * 13) } with
    port := { running.port with burstGranted := true } }

def startable (s : State) (w : Nat) : Prop :=
  s.port.flash = .free ∧ s.port.burstGranted = true ∧ s.notes.burst = none ∧ s.notes.pathOpen = true ∧
    (6 ≤ s.notes.fifo.length ∨ s.notes.flushDue = true) ∧ s.notes.fifo ≠ [] ∧
    NotesRegion s notesRegion ∧ s.notes.writePos = some (16 * w) ∧ w < notesRegion.size / 16

theorem test_meets_BurstStart_six :
    startable (granted (.resume 1 .pin :: List.replicate 5 (.mark 1)) false 4) 13 ∧
      0 < (granted (.resume 1 .pin :: List.replicate 5 (.mark 1)) false 4).notes.lostCount ∧
      (granted (.resume 1 .pin :: List.replicate 5 (.mark 1)) false 4).notes.fifo.any Note.isLost = false := by
  unfold startable NotesRegion; decide

/-- The region allows no program. -/
theorem test_meets_BurstStart_refused :
    let readOnly : Region := { notesRegion with allowed := [.flashRead] }
    let s : State :=
      { granted [.lost 3] true 3 with port := { running.port with regions := [readOnly], burstGranted := true } }
    s.port.flash = .free ∧ s.port.burstGranted = true ∧ s.notes.wantsBurst = true ∧
      s.port.region .notes = some readOnly ∧ PortOp.flashProgram ∉ readOnly.allowed := by decide

theorem test_meets_BurstStart_due :
    startable (granted [.lost 3] true 3) 13 ∧ (granted [.lost 3] true 3).notes.fifo.any Note.isLost = true := by
  unfold startable NotesRegion; decide

/-- A burst at slot 15: two records over a page boundary, in a stage, with these operations left. -/
def bursting (stage : BurstStage) (flash : FlashState) (ops : List (Nat × Nat)) : State :=
  noting notesRegion flash
    { running.notes with
      fifo := [.mark 1, .lost 2, .mark 3], burst := some ⟨stage, 2, ops, (15, 2)⟩, writePos := some (16 * 15) }

theorem test_meets_BurstSuccess_more :
    InBurst (bursting .first .programming [(15, 1), (16, 1)]) ⟨.first, 2, [(15, 1), (16, 1)], (15, 2)⟩ notesRegion 15 ∧
      15 - 15 + 1 ≤ 2 ∧ 2 ≤ (bursting .first .programming [(15, 1), (16, 1)]).notes.fifo.length ∧
      Memory.wf (bursting .first .programming [(15, 1), (16, 1)]).port.flashMem := by
  unfold InBurst OpsFit NotesRegion; decide

/-- The crossing of the threshold of 16 slots: 16 free before a burst of two. -/
theorem test_meets_BurstSuccess_nearFull :
    let b := bursting .first .programming []
    let s : State :=
      { b with
        notes := { b.notes with burst := some ⟨.first, 2, [(240, 2)], (240, 2)⟩, writePos := some (16 * 240) }
        settings := { Settings.standard with nearFull := 4 } }
    InBurst s ⟨.first, 2, [(240, 2)], (240, 2)⟩ notesRegion 240 ∧
      2 ^ s.settings.nearFull ≤ notesRegion.size / 16 - 240 ∧
      notesRegion.size / 16 - (240 + 2) < 2 ^ s.settings.nearFull := by
  unfold InBurst OpsFit NotesRegion; decide

theorem test_meets_BurstSuccess_last :
    InBurst (bursting .second .programming [(16, 1)]) ⟨.second, 2, [(16, 1)], (15, 2)⟩ notesRegion 15 ∧
      16 - 15 + 1 ≤ 2 ∧ 15 + 2 < notesRegion.size / 16 ∧
      (bursting .second .programming [(16, 1)]).lookup.claims = false ∧
      Memory.wf (bursting .second .programming [(16, 1)]).port.flashMem := by
  unfold InBurst OpsFit NotesRegion; decide

/-- The burst that fills a region of one slot. -/
def filling (stage : BurstStage) (flash : FlashState) : State :=
  noting oneSlot flash { running.notes with fifo := [.mark 1, .mark 3], burst := some ⟨stage, 1, [(0, 1)], (0, 1)⟩ }

theorem test_meets_BurstSuccess_full :
    InBurst (filling .first .programming) ⟨.first, 1, [(0, 1)], (0, 1)⟩ oneSlot 0 ∧ oneSlot.size / 16 ≤ 0 + 1 ∧
      1 ≤ (filling .first .programming).notes.fifo.length ∧ Memory.wf (filling .first .programming).port.flashMem := by
  unfold InBurst OpsFit NotesRegion; decide

theorem test_meets_FailedBurst_poll :
    InBurst (bursting .first .programming [(15, 1), (16, 1)]) ⟨.first, 2, [(15, 1), (16, 1)], (15, 2)⟩ notesRegion 15 ∧
      ReportsFailure (bursting .first .programming [(15, 1), (16, 1)]) (.programPollResult true) := by
  unfold InBurst OpsFit NotesRegion ReportsFailure; decide

theorem test_meets_FailedBurst_recovered :
    ReportsFailure (bursting .first .recovering [(15, 1), (16, 1)]) (.recoveryEnd true) ∧
      (bursting .first .recovering [(15, 1), (16, 1)]).notes.burst.isSome = true := by
  unfold ReportsFailure; decide

theorem test_meets_FailedBurst_overwritten :
    InBurst (bursting .overwrite .programming [(16, 1)]) ⟨.overwrite, 2, [(16, 1)], (15, 2)⟩ notesRegion 15 ∧
      15 + 2 < notesRegion.size / 16 ∧
      InBurst (filling .overwrite .programming) ⟨.overwrite, 1, [(0, 1)], (0, 1)⟩ oneSlot 0 ∧
      oneSlot.size / 16 ≤ 0 + 1 := by
  unfold InBurst OpsFit NotesRegion; decide

theorem test_meets_SecondFailure_second :
    InBurst (bursting .second .programming [(16, 1)]) ⟨.second, 2, [(16, 1)], (15, 2)⟩ notesRegion 15 ∧
      ReportsFailure (bursting .second .programming [(16, 1)]) (.programPollResult true) ∧
      (bursting .second .programming [(16, 1)]).notes.lostCount ≤ 4294967295 := by
  unfold InBurst OpsFit NotesRegion ReportsFailure; decide

theorem test_meets_SecondFailure_overwrite :
    InBurst (bursting .overwrite .recovering [(16, 1)]) ⟨.overwrite, 2, [(16, 1)], (15, 2)⟩ notesRegion 15 ∧
      ReportsFailure (bursting .overwrite .recovering [(16, 1)]) (.recoveryEnd true) := by
  unfold InBurst OpsFit NotesRegion ReportsFailure; decide

theorem test_meets_SecondFailure_halted :
    (noting notesRegion .free { running.notes with halted := true }).notes.halted = true ∧
      (noting notesRegion .free { running.notes with halted := true }).notes.burst = none ∧
      exec .busIdle (noting notesRegion .free { running.notes with halted := true }) =
        .next (noting notesRegion .free { running.notes with halted := true }) := ⟨rfl, rfl, rfl⟩

/-! ### Witnesses: lookup unit -/

/-- A window of 256 slots, probe limit 2, and a heap of 100 bytes. -/
def window : Geometry := ⟨256, 2, 16, 1040, 100⟩

/-- JOB with these bytes at an offset of its region, and a lookup of the stroke T- K- at slot 3 of it. -/
def probing (off : Nat) (bytes : List Byte) (visited : Nat) : State :=
  { running with
    port :=
      { running.port with flash := .reading, flashMem := Memory.writeBytes [] (0x200000 + off) bytes }
    lookup :=
      { running.lookup with
        w1 := some window
        search := some ⟨[12], outlineHash [12], .w1, some ⟨3, visited, .slot⟩, ⟨none, false⟩⟩ } }

def valueAt3 (s : State) : Nat := slotAt s.port .job window 3

theorem test_meets_FlashReadMovesProbe :
    (probing 28 [] 0).seq.phase = .run ∧ (probing 28 [] 0).port.flash = .reading ∧
      (probing 28 [] 0).lookup.search = some ⟨[12], outlineHash [12], .w1, some ⟨3, 0, .slot⟩, ⟨none, false⟩⟩ ∧
      (probing 28 [] 0).lookup.geometry .w1 = some window ∧ valueAt3 (probing 28 [] 0) = 0xFFFFFFFF := by
  decide +kernel

/-- Deleted, with the limit not reached and reached. -/
theorem test_meets_FlashReadMovesProbe_deleted :
    valueAt3 (probing 28 (beBytes 4 0xFFFFFFFE) 0) = 0xFFFFFFFE ∧ 0 + 1 < window.probe ∧ window.probe ≤ 1 + 1 := by
  decide +kernel

/-- The first offset outside the heap, and the last one inside, whose read the port takes. -/
theorem test_meets_FlashReadMovesProbe_offset :
    valueAt3 (probing 28 (beBytes 4 100) 0) = window.heapSize ∧ valueAt3 (probing 28 (beBytes 4 99) 0) = 99 ∧
      (probing 28 (beBytes 4 99) 0).port.readAt .job (window.heapBase + 99) 2 ≠ none := by
  decide +kernel

/-- R34, R44: an entry is at least 2 bytes, so one at the last byte of the region is refused when it is asked for. -/
theorem test_entry_at_last_byte :
    let g : Geometry := ⟨256, 2, 16, 4000, 96⟩
    let p : MemoryPort :=
      { running.port with flashMem := Memory.writeBytes [] (0x200000 + 16 + 4 * 3) (beBytes 4 95), flash := .reading }
    let q : Search := ⟨[2], 0, .w1, some ⟨3, 0, .slot⟩, ⟨none, false⟩⟩
    let t := flashReadEnds { running with port := p, lookup := ⟨none, some g, none, some q, none⟩ }
    t.status.isSet .dictBad = true ∧ (t.lookup.search.bind Search.probe) = none := by decide +kernel

/-- The stroke T- alone has home slot 35. Slot 35 holds the deleted value, slot 36 an offset into the heap. -/
def stored (v : Nat) (entry : List Byte) : MemoryPort :=
  { running.port with
    flashMem :=
      Memory.writeBytes (Memory.writeBytes [] (0x200000 + 16 + 4 * 35) (beBytes 4 0xFFFFFFFE ++ beBytes 4 v))
        (0x200000 + 1040 + v) entry }

theorem test_home_of_T : visitedSlot window [4] 0 = 37 ∧ visitedSlot window [2] 0 = 35 := by decide

theorem goesPast35 (v : Nat) (entry : List Byte)
    (h : slotAt (stored v entry) .job window 35 = 0xFFFFFFFE) :
    GoesPast (stored v entry) .job window [2] (visitedSlot window [2] 0) := .inl h

/-- The entry is the last that the heap of 100 bytes can hold: 92 + 3 + 3 + 2. -/
theorem test_meets_ProbeFinds_text :
    GoesPast (stored 92 [2, 1, 0, 0, 2, 2, 0x61, 0x62]) .job window [2] (visitedSlot window [2] 0) ∧ 1 < window.probe ∧
      slotAt (stored 92 [2, 1, 0, 0, 2, 2, 0x61, 0x62]) .job window (visitedSlot window [2] 1) = 92 ∧
      EntryAt (stored 92 [2, 1, 0, 0, 2, 2, 0x61, 0x62]) .job window 92 .wordCont [2] [0x61, 0x62] := by
  refine ⟨goesPast35 _ _ (by decide +kernel), by decide, by decide +kernel, ?_⟩
  unfold EntryAt; decide +kernel

theorem test_meets_ProbeFinds_cont :
    slotAt (stored 0 [3, 1, 0, 0, 2, 0]) .job window (visitedSlot window [2] 1) = 0 ∧
      EntryAt (stored 0 [3, 1, 0, 0, 2, 0]) .job window 0 .cont [2] [] := by
  unfold EntryAt; decide +kernel

theorem test_meets_ProbeFinds_empty :
    slotAt running.port .job window (visitedSlot window [2] 0) = 0xFFFFFFFF ∧ 0 < window.probe := by decide +kernel

/-- Both slots that the limit allows are gone past: deleted, then the entry of the stroke S- T-. -/
theorem test_meets_ProbeFinds_limit :
    ∀ j < 2, GoesPast (stored 0 [1, 1, 0, 0, 6, 0]) .job window [2] (visitedSlot window [2] j) := by
  intro j hj
  rcases (by omega : j = 0 ∨ j = 1) with rfl | rfl
  · exact goesPast35 _ _ (by decide +kernel)
  · refine .inr ⟨.word, [6], [], by decide, ?_, by decide +kernel⟩
    have h : slotAt (stored 0 [1, 1, 0, 0, 6, 0]) .job window (visitedSlot window [2] 1) = 0 := by decide +kernel
    rw [h]; unfold EntryAt; decide +kernel

/-- A lookup of T- in JOB at slot 36, waiting for this read, with these entry bytes at this heap offset. -/
def reading (v : Nat) (entry : List Byte) (read : ProbeRead) : State :=
  { running with
    port := { stored v entry with flash := .reading }
    lookup :=
      { running.lookup with
        w1 := some window, w2 := some window
        search := some ⟨[2], outlineHash [2], .w1, some ⟨36, 1, read⟩, ⟨none, false⟩⟩ } }

/-- The entry read: of another outline, a CONT of this one, and a WORD_CONT of this one whose text is then read. -/
theorem test_meets_FlashReadMovesProbe_entry :
    EntryAt (reading 0 [1, 1, 0, 0, 6, 0] (.entry 0)).port .job window 0 .word [6] [] ∧ ([6] : List KeySet) ≠ [2] ∧
      EntryAt (reading 0 [3, 1, 0, 0, 2, 0] (.entry 0)).port .job window 0 .cont [2] [] ∧
      EntryAt (reading 92 [2, 1, 0, 0, 2, 2, 0x61, 0x62] (.entry 92)).port .job window 92 .wordCont [2] [0x61, 0x62] ∧
      (reading 0 [] (.entry 0)).lookup.search =
        some ⟨[2], outlineHash [2], .w1, some ⟨36, 1, .entry 0⟩, ⟨none, false⟩⟩ := by
  unfold EntryAt; decide +kernel

/-- A stroke count of 9, a kind of 4; a text length of 121, and one byte past the heap; a slot read refused. -/
theorem test_meets_FlashReadMovesProbe_bad :
    (reading 0 [1, 9] (.entry 0)).port.readAt .job (window.heapBase + 0) 2 = some [1, 9] ∧ 8 < fieldAt [1, 9] 1 1 ∧
      3 < fieldAt [4, 1] 0 1 ∧
      (reading 0 [1, 1, 0, 0, 2, 121] (.text 0 .word)).port.readAt .job (window.heapBase + 0 + 2 + 3 * 1) 1 =
        some [121] ∧
      120 < (121 : Byte).toNat ∧
      (reading 92 [1, 1, 0, 0, 2, 3] (.text 92 .word)).port.readAt .job (window.heapBase + 92 + 2 + 3 * 1) 1 = some [3] ∧
      window.heapSize < 92 + 3 + 3 * 1 + (3 : Byte).toNat ∧
      ({ running.port with regions := [] } : MemoryPort).readAt .job (window.slotBase + 4 * 36) 4 = none := by
  decide +kernel

/-- The search goes on to W2 past a disabled W1; a settled one ends. -/
theorem test_meets_FlashReadMovesProbe_windows :
    ([(Window.w1, none), (.w2, some window)] : List (Window × Option Geometry)) =
        [(.w1, none)] ++ (.w2, some window) :: [] ∧
      ([(.w1, none)] : List (Window × Option Geometry)).all (fun x => x.2.isNone) = true ∧
      (windowEnded (reading 0 [] .slot).lookup ⟨[2], outlineHash [2], .w1, none, ⟨none, true⟩⟩
        (some (.word, [0x61])) false).result.text ≠ none := by decide

/-! ### Witnesses: translator -/

def stroke (keys : KeySet) : QueuedStroke := ⟨⟨5, keys, 10, 20⟩, none⟩

/-- An entry of the pending sequence. -/
def held (keys : KeySet) (text : Option (List Byte)) (cont : Bool) : PendingEntry :=
  ⟨⟨4, keys, 10⟩, text.map fun t => ⟨.w2, .wordCont, t⟩, cont⟩

/-- At rest, with these strokes queued and this pending sequence. -/
def resting (strokes : List QueuedStroke) (sequence : List PendingEntry) (timer : Option Nat) : State :=
  { running with
    strokes := strokes
    translator := { running.translator with sequence := sequence, resolveTimer := timer } }

def capturing (c : Capture) (s : State) : State := { s with translator := { s.translator with capture := c } }

def outlining (n : Nat) : Capture :=
  { Capture.closed with state := .outline, outline := List.replicate n ⟨4, 8, 10⟩ }

theorem test_meets_StrokeEvent :
    Resting (resting [stroke 2] [held 4 none true] (some 9)) ∧ (stroke 2).stroke.keys ≠ 1024 := by
  unfold Resting; decide

theorem test_meets_StrokeEvent_outline :
    Resting (capturing { Capture.closed with state := .outline } (resting [stroke 2] [] none)) ∧
      (capturing { Capture.closed with state := .outline } (resting [stroke 2] [] none)).strokes = [stroke 2] := by
  unfold Resting; decide

/-- In vacancy, where the claim wait begins; and with a known holder. -/
theorem test_meets_StrokeEvent_vacant :
    (resting [stroke 2] [] none).floor.state = .off ∧ (resting [stroke 2] [] none).floor.holder = none ∧
      (resting [stroke 2] [] none).floor.withdrawn = false ∧ (resting [stroke 2] [] none).floor.claimWait = none ∧
      (resting [stroke 2] [] none).floor.holdOff = none ∧ 0 < (resting [stroke 2] [] none).settings.activeWindow ∧
      (onFloor .off (some 3) none).floor.holder ≠ none := by decide

/-- With the stale mark set. -/
def stale (s : State) : State := { s with translator := { s.translator with stale := true } }

theorem test_meets_StrokeEvent_stale :
    (stale (resting [stroke 2] [held 4 none true] none)).translator.active = true ∧
      (stale (resting [stroke 2] [held 4 none true] none)).translator.work = [] ∧
      (stale (resting [stroke 2] [held 4 none true] none)).lookup.search = none ∧
      (stale (resting [stroke 2] [held 4 none true] none)).lookup.request = none ∧
      (stale (resting [stroke 2] [held 4 none true] none)).inbox = [] ∧
      (stale (resting [stroke 2] [held 4 none true] none)).translator.sequence = [held 4 none true] ∧
      (stale (resting [stroke 2] [] none)).translator.sequence = [] := by decide

/-- A prefix looked up again: the first of two, and the last, with a definition waiting that cannot be stored. -/
def recomputing (i : Nat) : State :=
  { running with
    inbox := [⟨2, [8], chars "c"⟩]
    translator :=
      { running.translator with
        work := [.recompute i, .stroke ⟨5, 2, 10⟩], sequence := [held 4 none true, held 6 none true] }
    lookup := { running.lookup with search := some ⟨[4], outlineHash [4], .w2, none, ⟨none, true⟩⟩ } }

theorem test_meets_StrokeEvent_recompute :
    (recomputing 0).lookup.request = none ∧ (recomputing 0).translator.work = .recompute 0 :: [.stroke ⟨5, 2, 10⟩] ∧
      0 + 1 < (recomputing 0).translator.sequence.length ∧ 1 < (recomputing 1).translator.sequence.length ∧
      1 + 1 = (recomputing 1).translator.sequence.length ∧
      (recomputing 1).translator.capture.state ≠ .outline ∧ (2 : KeySet) ≠ 1024 ∧
      (applyInbox (recomputing 1)).translator.stale = false ∧
      (applyInbox (stale (recomputing 1))).translator.stale = true := by
  decide +kernel

theorem test_meets_StrokeEvent_none : running.strokes = [] := rfl

theorem test_meets_Undo_sequence :
    Resting (resting [stroke 1024] [held 4 none true] (some 9)) ∧ (stroke 1024).overrun = none ∧
      (resting [stroke 1024] [held 4 none true] (some 9)).translator.capture.state = .normal ∧
      (resting [stroke 1024] [held 4 none true] (some 9)).translator.sequence = [] ++ [held 4 none true] := by
  unfold Resting; decide

theorem test_meets_Undo_nothing :
    Resting (resting [stroke 1024] [] none) ∧ (resting [stroke 1024] [] none).translator.history = [] := by
  unfold Resting; decide

/-- A released unit with a sequence, and the last place below the limit of the low classes. -/
theorem test_meets_Undo_released :
    Resting (withHistory [unit .word .official true (some 9)] (withQueue 19 (resting [stroke 1024] [] none))) ∧
      (withQueue 19 running).bus.queue.length < 20 ∧ running.seq.phase = .run := by
  unfold Resting; decide

theorem test_meets_Undo_silent :
    (withHistory [unit .format .official true none] (resting [stroke 1024] [] none)).translator.history =
        [] ++ [unit .format .official true none] ∧
      (withHistory [unit .word .shadow false none] (resting [stroke 1024] [] none)).translator.history =
        [] ++ [unit .word .shadow false none] ∧
      (resting [stroke 1024] [] none).floor.state ≠ .draining := by decide

/-- A capture in DEF_TEXT with n pieces. -/
def texting (n : Nat) : Capture :=
  { Capture.closed with
    state := .text, outline := [⟨4, 8, 10⟩], separator := some ⟨5, 2, 11⟩
    pieces := List.replicate n ⟨[6], chars "a", ⟨.none, true, false⟩⟩ }

/-- A capture with strokes and without, in DEF_TEXT with an entry, a piece and neither. -/
theorem test_meets_Undo_capture :
    (∀ n ≤ 8, Resting (capturing (outlining n) (resting [stroke 1024] [] none)) ∧
      (outlining n).state ≠ .normal) ∧
      (outlining 1).outline = [] ++ [⟨4, 8, 10⟩] ∧ (outlining 0).outline = [] ∧
      Resting (capturing (texting 1) (resting [stroke 1024] [held 4 none true] (some 9))) ∧ (texting 1).state = .text ∧
      Resting (capturing (texting 1) (resting [stroke 1024] [] none)) ∧
      (texting 1).pieces = [] ++ [⟨[6], chars "a", ⟨.none, true, false⟩⟩] ∧ (texting 0).pieces = [] := by
  unfold Resting; decide

/-- An UNDO stroke whose record carries an overrun count: entries left with text and without, a full history to undo, a
capture abandoned, and one whose text leaves an entry behind its front part. -/
theorem test_meets_Undo_marker :
    let undo : QueuedStroke := { stroke 1024 with overrun := some 65535 }
    let text := held 4 (some (chars "a")) true
    (∀ s ∈ [fullOf 32 (unit .word .shadow false none) (resting [undo] [text, held 2 none true, held 2 none true] (some 9)),
        resting [undo] [text, held 2 none true] (some 9), resting [undo] [held 4 none true, held 2 none true] (some 9),
        fullOf 32 (unit .word .shadow false none) (resting [undo] [] none),
        capturing (outlining 0) (resting [undo] [] none), capturing (texting 1) (resting [undo] [] none),
        capturing (texting 1) (resting [undo] [text, held 2 none true, held 2 none true] (some 9))],
      Resting s ∧ s.strokes = undo :: [] ∧ 0 < s.settings.holdBack) ∧
      PlainText (chars "a") ∧ [text, held 2 none true] = [] ++ text :: [held 2 none true] := by
  unfold Resting PlainText; decide

/-- R53, R56, R61, R62: behind the UNDO stroke the sequence that is left is forced, then the gap; an open definition is
refused. -/
theorem test_undo_then_marker :
    let undo : QueuedStroke := { stroke 1024 with overrun := some 7 }
    let text := held 4 (some (chars "a")) true
    let kinds := fun s => (takeStroke s).translator.history.map TextUnit.kind
    kinds (resting [undo] [text, held 2 none true] (some 9)) = [.word, .gap] ∧
      (takeStroke (resting [undo] [text, held 2 none true, held 2 none true] (some 9))).translator.work =
        [.reprocess [(held 2 none true).stroke], .force, .marker 5 7 20] ∧
      kinds (capturing (outlining 2) (resting [undo] [] none)) = [.gap] ∧
      (takeStroke (capturing (outlining 2) (resting [undo] [] none))).status.isSet .defRefused = true := by
  decide +kernel

/-- A text of 120 characters, and a history of 31 units. -/
def waiting120 : State :=
  withHistory (List.replicate 31 (unit .word .shadow true none))
    (resting [] [held 4 (some (List.replicate 120 0x61)) true] (some 9))

theorem test_meets_ResolveTimer :
    Resting waiting120 ∧ waiting120.translator.resolveTimer = some 9 ∧
      waiting120.translator.capture.state = .normal ∧
      waiting120.translator.sequence = [] ++ [held 4 (some (List.replicate 120 0x61)) true] ∧
      PlainText (List.replicate 120 0x61) ∧ 0 < waiting120.settings.holdBack := by
  refine ⟨by unfold Resting; decide, rfl, rfl, rfl, ⟨by decide, fun b hb => ?_, by decide⟩, by decide⟩
  rw [List.eq_of_mem_replicate hb]; decide

/-- Text at the first prefix only, so that the second stroke is re-processed; and text nowhere. -/
theorem test_meets_ResolveTimer_fallback :
    Resting (resting [] [held 4 (some (chars "a")) true, held 2 none true] (some 9)) ∧
      [held 4 (some (chars "a")) true, held 2 none true] = [] ++ held 4 (some (chars "a")) true :: [held 2 none true] ∧
      (∀ y ∈ [held 2 none true], y.result.text = none) ∧ PlainText (chars "a") ∧
      0 < (resting [] [held 4 (some (chars "a")) true, held 2 none true] (some 9)).settings.holdBack ∧
      Resting (resting [] [held 4 none true, held 2 none true] (some 9)) ∧
      ∀ y ∈ [held 4 none true, held 2 none true], y.result.text = none := by
  unfold Resting PlainText; decide

/-- A history of 32 units, its oldest released, HELD on a stream, and PENDING; and release suspended. -/
theorem test_meets_ResolveTimer_full :
    let s := fun u => fullOf 32 u (resting [] [held 4 (some (chars "a")) true] (some 9))
    (∀ r ∈ [true, false], ∀ stream ∈ [Stream.official, .shadow, .pending],
      Resting (s (unit .word stream r none)) ∧ (s (unit .word stream r none)).translator.history.length = 32 ∧
        0 < (s (unit .word stream r none)).settings.holdBack) ∧
      { (s (unit .word .shadow false none)).release with active := false }.active = false := by
  unfold Resting; decide

theorem test_meets_ResolveTimer_empty :
    Resting (resting [] [] (some 9)) ∧ (resting [] [] none).translator.resolveTimer = none := by
  unfold Resting; decide

/-- A lookup has searched its windows for a stroke; six entries wait before it. -/
def answered (sequence : Nat) (r : LookupResult) (c : Capture) (keys : KeySet) : State :=
  { running with
    translator :=
      { running.translator with
        work := [.stroke ⟨5, keys, 10⟩], sequence := List.replicate sequence (held 4 none true), capture := c }
    lookup := { running.lookup with search := some ⟨[keys], outlineHash [keys], .w2, none, r⟩ } }

/-- A result whose text is a lone DEF_SEP. -/
def separator : LookupResult := ⟨some ⟨.w2, .word, [9]⟩, false⟩

theorem test_meets_LookupResult_held :
    AwaitsResult (answered 6 ⟨none, true⟩ .closed 2) ⟨[2], outlineHash [2], .w2, none, ⟨none, true⟩⟩
        [.stroke ⟨5, 2, 10⟩] ∧
      (answered 6 ⟨none, true⟩ .closed 2).translator.sequence.length < 7 ∧
      (answered 6 ⟨none, true⟩ .closed 2).translator.capture.state ≠ .outline := by
  unfold AwaitsResult; decide

theorem test_meets_LookupResult_separator :
    AwaitsResult (answered 0 separator (outlining 8) 2) ⟨[2], outlineHash [2], .w2, none, separator⟩
        [.stroke ⟨5, 2, 10⟩] ∧
      (answered 0 separator (outlining 8) 2).translator.sequence = [] ∧ Token.code .defSep ∈ tokens [9] ∧
      (outlining 8).outline ≠ [] ∧ (outlining 0).outline = [] := by
  unfold AwaitsResult; decide

theorem test_meets_LookupResult_raw :
    AwaitsResult (answered 0 ⟨none, false⟩ (outlining 7) 2) ⟨[2], outlineHash [2], .w2, none, ⟨none, false⟩⟩
        [.stroke ⟨5, 2, 10⟩] ∧
      (outlining 7).outline.length < 8 ∧ 8 ≤ (outlining 8).outline.length := by
  unfold AwaitsResult; decide

/-- # S- and K- A -T in DEF_TEXT. -/
theorem test_meets_LookupResult_piece :
    AwaitsResult (answered 0 ⟨none, false⟩ (texting 1) 3) ⟨[3], outlineHash [3], .w2, none, ⟨none, false⟩⟩
        [.stroke ⟨5, 3, 10⟩] ∧
      (texting 1).state = .text ∧ (answered 0 ⟨none, false⟩ (texting 1) 3).translator.sequence = [] ∧
      convertNumber 3 = some (chars "1") ∧ convertNumber 524552 = none := by
  unfold AwaitsResult; decide

/-- An entry's result: {CAP}"a."{DEF_CLOSE}, {ATTACH} alone, and {DEF_CLOSE} alone. -/
def entryOf (text : List Byte) (cont : Bool) : LookupResult := ⟨some ⟨.w2, .word, text⟩, cont⟩

theorem test_meets_LookupResult_entry :
    AwaitsResult (answered 0 (entryOf ([0x02] ++ chars "a." ++ [0x0A]) false) (texting 1) 2)
        ⟨[2], outlineHash [2], .w2, none, entryOf ([0x02] ++ chars "a." ++ [0x0A]) false⟩ [.stroke ⟨5, 2, 10⟩] ∧
      AwaitsResult (answered 7 (entryOf ([0x01] ++ [] ++ []) true) (texting 0) 2)
        ⟨[2], outlineHash [2], .w2, none, entryOf ([0x01] ++ [] ++ []) true⟩ [.stroke ⟨5, 2, 10⟩] ∧
      7 ≤ (answered 7 (entryOf [0x01] true) (texting 0) 2).translator.sequence.length ∧
      (texting 1).abandoned = false ∧ (∀ b ∈ [0x02] ++ [0x0A], isCodeByte b = true) ∧
      (∀ b ∈ chars "a.", definable b = true ∨ isCodeByte b = true) ∧
      (∀ b, (chars "a.").head? = some b ∨ (chars "a.").getLast? = some b → definable b = true) ∧
      0x0A ∈ [0x02] ++ chars "a." ++ [0x0A] ∧ ¬ (0x0A : Byte) ∈ [0x01] ++ [] ++ [] := by
  refine ⟨by unfold AwaitsResult; decide, by unfold AwaitsResult; decide, by decide, rfl, by decide, by decide,
    fun b h => ?_, by decide⟩
  rcases h with h | h <;> (cases h; decide)

/-- A record's marker met in DEF_OUTLINE and in DEF_TEXT, in a history of n units. -/
def marking (r : LookupResult) (c : Capture) (n : Nat) : State :=
  fullOf n (unit .word .shadow false none)
    { answered 0 r c 2 with
      translator :=
        { (answered 0 r c 2).translator with
          work := .stroke ⟨5, 2, 10⟩ :: markerWork { stroke 2 with overrun := some 65535 } } }

theorem test_meets_LookupResult_marker :
    (∀ c ∈ [outlining 0, outlining 8, texting 1],
      AwaitsResult (marking ⟨none, true⟩ c 32) ⟨[2], outlineHash [2], .w2, none, ⟨none, true⟩⟩
          (.stroke (stroke 2).stroke.taken :: markerWork { stroke 2 with overrun := some 65535 }) ∧
        (marking ⟨none, true⟩ c 32).translator.sequence = [] ∧ 0 < (marking ⟨none, true⟩ c 32).settings.holdBack) ∧
      (outlining 0).state = .outline ∧ (texting 1).state = .text := by
  unfold AwaitsResult; decide

/-- The record's stroke, looked up behind a DEF_OPEN that the forced resolution has resolved. -/
def rawMarked (r : LookupResult) (n : Nat) : State :=
  { answered 0 r (outlining n) 2 with
    translator :=
      { (answered 0 r (outlining n) 2).translator with
        work := [.reprocess [⟨5, 2, 10⟩], .force, .marker 5 3 20] } }

theorem test_meets_LookupResult_rawMarker :
    AwaitsResult (rawMarked ⟨none, true⟩ 7) ⟨[2], outlineHash [2], .w2, none, ⟨none, true⟩⟩
        [.reprocess [⟨5, 2, 10⟩], .force, .marker 5 3 20] ∧
      AwaitsResult (rawMarked separator 1) ⟨[2], outlineHash [2], .w2, none, separator⟩
        [.reprocess [⟨5, 2, 10⟩], .force, .marker 5 3 20] ∧
      0 < (rawMarked ⟨none, true⟩ 7).settings.holdBack ∧ (rawMarked ⟨none, true⟩ 7).translator.capture = outlining 7 ∧
      (outlining 7).abandoned = false ∧ (outlining 7).outline.length < 8 ∧ (outlining 1).outline ≠ [] ∧
      Token.code .defSep ∈ tokens [9] := by
  unfold AwaitsResult; decide

/-- R61, R62: the record's stroke goes raw to the outline buffer, so the marker refuses the definition. -/
theorem test_marker_refuses_raw :
    let t := lookupCompletes (rawMarked ⟨none, true⟩ 0)
    t.translator.capture = .closed ∧ t.status.isSet .defRefused = true ∧
      t.translator.history.map TextUnit.kind = [.gap] := by decide +kernel

/-- The first of two strokes behind a resolution is looked up. -/
def reprocessing (sequence : List PendingEntry) (r : LookupResult) : State :=
  { running with
    translator :=
      { running.translator with
        work := [.reprocess [⟨5, 2, 10⟩, ⟨6, 4, 12⟩], .force], sequence := sequence }
    lookup := { running.lookup with search := some ⟨[2], outlineHash [2], .w2, none, r⟩ } }

theorem test_meets_LookupResult_reprocess :
    AwaitsResult (reprocessing [] ⟨none, true⟩) ⟨[2], outlineHash [2], .w2, none, ⟨none, true⟩⟩
        (.reprocess (⟨5, 2, 10⟩ :: ⟨6, 4, 12⟩ :: []) :: [.force]) ∧
      (reprocessing [] ⟨none, true⟩).translator.capture.state ≠ .outline ∧
      (reprocessing [] ⟨none, true⟩).translator.sequence.length < 7 := by
  unfold AwaitsResult; decide

theorem test_meets_LookupResult_waiting : running.lookup.search = none := rfl

/-- # S- converts to a number; K- A -T does not. -/
theorem test_meets_StrokeWithoutText :
    AwaitsResult (answered 0 ⟨none, false⟩ .closed 3) ⟨[3], outlineHash [3], .w2, none, ⟨none, false⟩⟩
        [.stroke ⟨5, 3, 10⟩] ∧
      (answered 0 ⟨none, false⟩ .closed 3).translator.history.length < 32 ∧
      0 < (answered 0 ⟨none, false⟩ .closed 3).settings.holdBack ∧ convertNumber 3 = some (chars "1") ∧
      convertNumber 524552 = none ∧
      oldestHeld (answered 0 ⟨none, false⟩ .closed 3).translator.history = none ∧
      (answered 0 ⟨none, false⟩ .closed 3).release.active = true ∧
      oldestHeld [unit .word .shadow false none] ≠ none := by
  unfold AwaitsResult; decide

/-- The eighth stroke, with text at the fourth of them; a re-processed stroke with text, and one with none. -/
def fourth : List PendingEntry :=
  List.replicate 3 (held 4 none true) ++ held 4 (some (chars "a")) true :: List.replicate 3 (held 4 none true)

theorem test_meets_StrokeWithoutText_fallback :
    let s := { answered 0 ⟨none, true⟩ .closed 2 with
      translator := { (answered 0 ⟨none, true⟩ .closed 2).translator with sequence := fourth } }
    AwaitsResult s ⟨[2], outlineHash [2], .w2, none, ⟨none, true⟩⟩ [.stroke ⟨5, 2, 10⟩] ∧
      s.translator.capture.state = .normal ∧ 7 ≤ s.translator.sequence.length ∧ 0 < s.settings.holdBack ∧
      s.translator.sequence ++ [⟨⟨5, 2, 10⟩, ⟨none, true⟩⟩] =
        List.replicate 3 (held 4 none true) ++ held 4 (some (chars "a")) true ::
          (List.replicate 3 (held 4 none true) ++ [⟨⟨5, 2, 10⟩, ⟨none, true⟩⟩]) ∧
      PlainText (chars "a") := by
  unfold AwaitsResult PlainText; decide

theorem test_meets_StrokeWithoutText_reprocess :
    AwaitsResult (reprocessing [] ⟨some ⟨.w2, .word, chars "a"⟩, false⟩)
        ⟨[2], outlineHash [2], .w2, none, ⟨some ⟨.w2, .word, chars "a"⟩, false⟩⟩
        (.reprocess (⟨5, 2, 10⟩ :: [⟨6, 4, 12⟩]) :: [.force]) ∧
      AwaitsResult (reprocessing [held 4 none true] ⟨none, false⟩) ⟨[2], outlineHash [2], .w2, none, ⟨none, false⟩⟩
        (.reprocess (⟨5, 2, 10⟩ :: [⟨6, 4, 12⟩]) :: [.force]) ∧
      0 < (reprocessing [held 4 none true] ⟨none, false⟩).settings.holdBack := by
  unfold AwaitsResult; decide

/-- A full history, with a HELD oldest unit; a marker in a full history, with the stroke held and resolved. -/
theorem test_meets_StrokeWithoutText_full :
    let s := fun u => fullOf 32 u (answered 0 ⟨none, false⟩ .closed 3)
    let k := { stroke 2 with overrun := some 65535 }
    AwaitsResult (s (unit .word .pending false none)) ⟨[3], outlineHash [3], .w2, none, ⟨none, false⟩⟩
        [.stroke ⟨5, 3, 10⟩] ∧
      (s (unit .word .pending false none)).translator.history.length = 32 ∧
      0 < (s (unit .word .pending false none)).settings.holdBack ∧
      (∀ r ∈ [⟨none, true⟩, ⟨none, false⟩, entryOf (chars "a") true, entryOf (chars "a") false],
        AwaitsResult (marking r .closed 32) ⟨[2], outlineHash [2], .w2, none, r⟩
            (.stroke k.stroke.taken :: markerWork k) ∧
          (marking r .closed 32).translator.capture.state = .normal ∧
          0 < (marking r .closed 32).settings.holdBack) := by
  unfold AwaitsResult; decide

/-- The same marker with an entry before its stroke, which is then re-processed. -/
theorem test_meets_StrokeWithoutText_markerBehind :
    let s := { marking ⟨none, true⟩ .closed 32 with
      translator := { (marking ⟨none, true⟩ .closed 32).translator with sequence := [held 4 (some (chars "a")) true] } }
    AwaitsResult s ⟨[2], outlineHash [2], .w2, none, ⟨none, true⟩⟩
        (.stroke (stroke 2).stroke.taken :: markerWork { stroke 2 with overrun := some 65535 }) ∧
      s.translator.sequence ++ [⟨(stroke 2).stroke.taken, ⟨none, true⟩⟩] =
        [] ++ held 4 (some (chars "a")) true :: [⟨(stroke 2).stroke.taken, ⟨none, true⟩⟩] := by
  unfold AwaitsResult; decide

/-- #S- converts; # alone has no digit key; S- has no #. -/
theorem test_meets_NumberConversion :
    (3 : KeySet).getLsbD 0 = true ∧ (1 : KeySet).getLsbD 0 = true ∧ (2 : KeySet).getLsbD 0 = false ∧
      convertNumber 3 = some (chars "1") := by decide

theorem test_meets_UntranslateText : (524552 : KeySet) ≠ 0 := by decide

/-- {PARA}{CAP}"a."{LOWER}, around and inside the codes; no character; a label of 24 characters and none. -/
theorem test_meets_PlainText :
    (∀ b ∈ [0x04, 0x02] ++ [0x03], isFormatByte b = true) ∧
      (∀ b ∈ chars "a" ++ [0x06] ++ chars ".", definable b = true ∨ isFormatByte b = true) ∧
      (∀ b, (chars "a" ++ [0x06] ++ chars ".").head? = some b ∨ (chars "a" ++ [0x06] ++ chars ".").getLast? = some b →
        definable b = true) ∧
      (literalBytes (chars "a" ++ [0x06] ++ chars ".")).length ≤ 120 ∧ chars "a" ++ [0x06] ++ chars "." ≠ [] ∧
      isLetter 0x61 = true ∧ isLetter 0x02 = false ∧ endsSentence 0x2E = true ∧ endsSentence 0x61 = false ∧
      1 ≤ (15 : Byte).toNat ∧ (15 : Byte).toNat ≤ 15 ∧ (literalBytes (List.replicate 24 0x4C)).length = 24 ∧
      ∀ b ∈ ([0x08, 0x10] : List Byte), 0x08 ≤ b.toNat ∧ b.toNat ≤ 0x10 := by
  refine ⟨by decide, by decide, fun b h => ?_, by decide⟩
  rcases h with h | h <;> (cases h; decide)

/-- spec/05, the texts of R79: a code behind a sentence end decides the mode. -/
theorem test_assembly_lower_behind_stop :
    (assembleEntry [] .initial (chars "Mr." ++ [0x03])).map (fun a => a.after.cap) = some .lowerNext := by decide


/-! ### Witnesses: release unit and bus -/

/-- A released unit, then a HELD one of this kind and stream, created at 0 and due at 1500; `n` frames wait. -/
def holding (kind : UnitKind) (stream : Stream) (known : Option Word) (n : Nat) : State :=
  let s := withQueue n (withHistory [unit .word .shadow true (some 9), unit kind stream false none] running)
  { s with release := { s.release with holdTimer := some 1500, known := known, nextShadow := 4294967295 } }

def releasable (s : State) (u : TextUnit) : Prop :=
  s.release.holdTimer = some 1500 ∧ s.translator.history = [unit .word .shadow true (some 9)] ++ [u] ∧
    (∀ v ∈ [unit .word .shadow true (some 9)], v.released = true) ∧ u.released = false ∧ s.release.active = true ∧
    s.seq.phase = .run ∧ s.floor.state ≠ .draining ∧ s.bus.queue.length < 20 ∧
    (s.settings.holdBack : Int) ≤ (timeAfter s 1500 - u.created).toInt

theorem test_meets_HoldBackReleases_official :
    releasable (holding .word .official (some 4294967295) 19) (unit .word .official false none) ∧
      releasable (holding .word .official none 0) (unit .word .official false none) := by unfold releasable; decide

theorem test_meets_HoldBackReleases_others :
    releasable (holding .gap .shadow none 19) (unit .gap .shadow false none) ∧
      releasable (holding .format .official none 19) (unit .format .official false none) ∧
      releasable (holding .number .pending none 19) (unit .number .pending false none) ∧
      running.release.holdTimer = none := by unfold releasable; decide

/-- Three units due at once, in RUN and in DRAINING with the last of them OFFICIAL. -/
def severalDue (state : FloorState) : State :=
  let s := withHistory
    [unit .word .shadow false none, unit .format .pending false none, unit .word .official false none]
    (onFloor state none none)
  { s with release := { s.release with holdTimer := some 1500 } }

theorem test_meets_HoldBackReleases_several :
    (severalDue .on).release.holdTimer = some 1500 ∧ (severalDue .draining).release.holdTimer = some 1500 ∧
      ∀ u ∈ (severalDue .on).translator.history, due (elapse 1500 (severalDue .on)) u = true := by decide

/-- R113: each due unit is released behind the one before it, up to the PENDING one. -/
theorem test_release_stops_at_pending :
    ((holdBackExpired (atTime 1500 (severalDue .on))).translator.history.map TextUnit.released) =
      [true, false, false] := by decide +kernel

/-- A queue of a PRESENCE, a low message and a floor frame. -/
def mixed (first : TxFrame) : State :=
  { running with bus := { running.bus with queue := [first, ⟨.presence, none, false⟩, ⟨.presence, none, true⟩] } }

def chosen (s : State) (i : Nat) (f : TxFrame) : Prop :=
  s.seq.phase = .run ∧ s.bus.follower = .idle ∧ s.bus.inFlight = none ∧ s.bus.queue[i]? = some f ∧ f.sending = false

/-- The younger of two is chosen when its class is lower; the older of two of one class. -/
theorem test_meets_ChosenFrame :
    chosen (mixed ⟨.presence, none, false⟩) 0 ⟨.presence, none, false⟩ ∧
      chosen (mixed (waitingFrame (.record true) none)) 0 (waitingFrame (.record true) none) ∧
      (waitingFrame (.record true) none).cls < (⟨.presence, none, false⟩ : TxFrame).cls ∧
      running.bus.queue = [] := by unfold chosen; decide

theorem test_meets_ChosenFrame_least (j : Nat) (g : TxFrame)
    (h : (mixed (waitingFrame (.record true) none)).bus.queue[j]? = some g) (hg : g.sending = false) :
    (waitingFrame (.record true) none).cls < g.cls ∨ (waitingFrame (.record true) none).cls = g.cls ∧ 0 ≤ j := by
  match j, h with
  | 0, h => exact .inr ⟨by cases h; rfl, Nat.zero_le 0⟩
  | 1, h => exact .inl (by cases h; decide)
  | 2, h => cases h; cases hg
  | j + 3, h => cases h

/-- Sending its own frame, with a stuck spell going on. -/
def sendingOwn (follower : Follower) : State :=
  { running with
    bus :=
      { running.bus with
        inFlight := some (plain 0x005), follower := follower, queue := [⟨.msg .reliefReq, some 3, true⟩] } }

theorem test_meets_LineEvents :
    running.bus.inFlight = none ∧ (sendingOwn .frame).bus.inFlight ≠ none ∧
      (sendingOwn .frame).floor.state ≠ .draining ∧ (sendingOwn .frame).seq.phase = .run ∧ 10 < 11 ∧
      (sendingOwn .waitIdle).bus.follower = .waitIdle ∧ (sendingOwn .frame).bus.follower ≠ .waitIdle ∧
      State.reset.seq.phase = .load := by decide

/-- R126, R133: a start bit read back recessive was no start bit, and the next frame's start bit follows; a mismatch at a
later bit leaves the follower in the frame. -/
theorem test_misread_start_bit :
    let s := { sendingOwn .frame with bus.queue := (sendingOwn .frame).bus.queue ++ [waitingFrame (.record true) none] }
    let t := abandonFrame true s
    (t.bus.follower, t.bus.recessive, t.bus.queue.length, t.status.isSet .txError) = (.idle, 11, 1, true) ∧
      (startFrame t).bus.inFlight.isSome = true ∧ (abandonFrame false s).bus.follower = .frame ∧
      startFrame (abandonFrame false s) = abandonFrame false s := by decide +kernel

/-- A DRAINING station's last TEXT in flight, with no unit HELD and with an OFFICIAL one. -/
def sendingText (h : List TextUnit) : State :=
  let s := withHistory h (onFloor .draining none (some 3))
  { s with
    bus :=
      { s.bus with
        inFlight := some (plain 0x245), follower := .frame
        queue :=
          [⟨.msg (.text ⟨1, 1, 1, true, false, false, false, false, none, false, none, [0x61]⟩), none, true⟩] } }

theorem test_meets_LineEvents_draining :
    (sendingText []).bus.inFlight ≠ none ∧ (sendingText []).floor.state = .draining ∧
      (∃ f ∈ (sendingText []).bus.queue, f.sending = true ∧ f.kind = .text) ∧
      (sendingText [unit .word .official false none]).bus = (sendingText []).bus :=
  ⟨by decide, rfl, ⟨_, List.mem_singleton_self _, rfl, rfl⟩, rfl⟩

/-- R162: the drain ends when that TEXT has left the queue. -/
theorem test_drain_ends_with_text :
    (finishFrame (sendingText [])).floor.state = .off ∧ (abandonFrame false (sendingText [])).floor.holder = some 3 ∧
      (finishFrame (sendingText [unit .word .official false none])).floor.state = .draining := by decide +kernel

/-- A frame from this station's own address is a clash; one with a recessive end bit missing, or broken off, is not.
-/
theorem test_meets_FramesForNoBlock :
    let own := from_ 5 (.retract true 1)
    canReceive running = true ∧ own.length.toNat ≤ 160 ∧ own.endBits = BitVec.allOnes 7 ∧
      own.payload.length = own.length.toNat ∧ own.crc = crc16 own.covered ∧ own.source = running.seq.addr ∧
      (from_ 3 (.retract true 1)).source ≠ running.seq.addr ∧ 160 < (161 : Byte).toNat ∧
      canReceive (sendingOwn .frame) = false := by decide +kernel

/-! ### Witnesses: the floor -/

/-- The parts of a sent frame's checks that do not need its CRC worked out: the length, the source, the parse. -/
abbrev Heard (me a : Station) (m : Msg) : Prop :=
  m.payload.length ≤ 160 ∧ (from_ a m).source = a ∧ a ≠ me ∧
    ((from_ a m).kind.bind fun k => Msg.parse k m.payload) = some m

theorem intact_of (f : LineFrame) (hl : f.length.toNat ≤ 160) (hp : f.payload.length = f.length.toNat)
    (he : f.endBits = BitVec.allOnes 7) : { f with crc := crc16 f.covered }.intact = true := by
  unfold LineFrame.intact; simp only [LineFrame.covered, Bool.and_eq_true, decide_eq_true_eq, beq_iff_eq]
  exact ⟨⟨⟨hl, hp⟩, trivial⟩, he⟩

/-- A frame carries the CRC of its own bits, so that the other checks decide. -/
theorem hears {s : State} {a : Station} {m : Msg} (h : Heard 5 a m) (hc : canReceive s = true) (hs : s.seq.addr = 5) :
    Accepts s (from_ a m) a m := by
  obtain ⟨hl, ha, hne, hp⟩ := h
  refine ⟨hc, ?_⟩
  have hi : (from_ a m).intact = true := by
    have hlen : (BitVec.ofNat 8 m.payload.length).toNat = m.payload.length := by
      simp only [BitVec.toNat_ofNat]; omega
    unfold from_ Msg.frame
    exact intact_of _ (by rw [hlen]; exact hl) hlen.symm rfl
  have hr : (from_ a m).reaches s.seq.addr = true := by
    unfold LineFrame.reaches; rw [show (from_ a m).dest = 0x10 from rfl]; rfl
  unfold LineFrame.judge
  rw [hi, hr, ha, hs, if_neg (by decide : ¬ (!true) = true), if_neg hne, if_neg (by decide : ¬ (!true) = true),
    show (from_ a m).payload = m.payload from rfl, hp]

/-- The same station in LISTEN, one expiry of the presence timer gone. -/
def listening : State := { running with seq := { running.seq with phase := .listen, listenExpiries := 1 } }

theorem nothingDue_running (s : State) (h : s.translator.history = []) : NothingDue s := by
  intro u hu; rw [h] at hu; exact absurd hu List.not_mem_nil

/-- A CLAIM from a lower and a higher address, held or not, in every floor state, and before RUN. -/
theorem test_meets_ClaimIsTaken (state : FloorState) (holder : Option Station) :
    (∀ held, Accepts (onFloor state holder none) (from_ 3 (.claim 8 held)) 3 (.claim 8 held) ∧
      Accepts (onFloor state holder none) (from_ 9 (.claim 8 held)) 9 (.claim 8 held)) ∧
      NothingDue (onFloor state holder none) ∧ (3 : Station) < (onFloor state holder none).seq.addr ∧
      (onFloor state holder none).seq.addr < 9 := by
  refine ⟨?_, nothingDue_running _ rfl, (by decide : (3 : Station) < 5), (by decide : (5 : Station) < 9)⟩
  intro held
  have h : ∀ held, Heard 5 3 (.claim 8 held) ∧ Heard 5 9 (.claim 8 held) := by decide
  exact ⟨hears (h held).1 rfl rfl, hears (h held).2 rfl rfl⟩

/-- A holder whose queue has one slot left after the answer; a part in LISTEN. -/
theorem test_meets_ClaimIsTaken_clauses :
    Holding (onFloor .draining none none) ∧ (withQueue 22 (onFloor .on none none)).bus.queue.length < 23 ∧
      (onFloor .off none none).floor.holder = none ∧ (onFloor .off (some 2) none).floor.holder ≠ none ∧
      listening.seq.phase ≠ .run ∧ Accepts listening (from_ 3 (.claim 8 true)) 3 (.claim 8 true) :=
  ⟨by unfold Holding; decide, by decide, rfl, by decide, by decide, hears (by decide) rfl rfl⟩

/-- Units that are due, at every frame that may end in the release check. -/
theorem test_meets_due (state : FloorState) (holder partner : Option Station) :
    let s := dueUnits (onFloor state holder partner)
    Accepts s (from_ 3 (.claim 8 false)) 3 (.claim 8 false) ∧
      Accepts s (from_ 3 (.reliefBusy true)) 3 (.reliefBusy true) ∧
      Accepts s (from_ 3 (.pass 5 412 50)) 3 (.pass s.seq.addr 412 50) ∧
      Accepts s (from_ 3 (.pass 7 7 300)) 3 (.pass 7 7 300) ∧ ¬ NothingDue s := by
  refine ⟨hears (by decide) rfl rfl, hears (by decide) rfl rfl, hears (m := .pass 5 412 50) (by decide) rfl rfl,
    hears (by decide) rfl rfl, fun h => ?_⟩
  exact absurd (h (unit .word .pending false none) List.mem_cons_self rfl) (by
    show decide ((1500 : Int) ≤ ((1500 : Word) - 0).toInt) ≠ false; decide)

/-- spec/07, the worked table of R119: a PASS of 412, and the first unit released behind it carries 413. -/
theorem test_pass_then_release :
    let t := passTaken 3 412 50 (dueUnits (onFloor .requesting (some 3) (some 3)))
    t.translator.history.map TextUnit.seq = [some 413, some 414] ∧ t.release.known = some 414 ∧ t.floor.state = .on := by
  decide +kernel

theorem test_meets_ReliefRequest (state : FloorState) (partner : Option Station) :
    Accepts (withQueue 22 (onFloor state none partner)) (from_ 3 .reliefReq) 3 .reliefReq ∧
      RoomToSend (withQueue 23 (onFloor state none partner)) ∧
      (withQueue 22 (onFloor state none partner)).bus.queue.length < 23 ∧
      (¬ Holding (onFloor .off none partner) ∧ ¬ Holding (onFloor .requesting none partner)) := by
  refine ⟨hears (by decide) rfl rfl, ⟨rfl, (by decide : 23 < 24)⟩, (by decide : 22 < 23), ?_, ?_⟩ <;>
    rintro (h | h | h) <;> cases h

/-- Before RUN; and the partner's own repetition, in both states. -/
theorem test_meets_ReliefRequest_ignored :
    Accepts listening (from_ 3 .reliefReq) 3 .reliefReq ∧ listening.seq.phase ≠ .run ∧
      (onFloor .yielding none (some 3)).floor.partner = some 3 ∧
      (onFloor .draining none (some 3)).floor.partner = some 3 := ⟨hears (by decide) rfl rfl, by decide, rfl, rfl⟩

theorem test_meets_ReliefEnds (notHolder : Bool) (holder : Option Station) :
    Accepts (onFloor .requesting holder (some 3)) (from_ 3 (.reliefBusy notHolder)) 3 (.reliefBusy notHolder) ∧
      (onFloor .requesting holder (some 3)).seq.phase = .run ∧
      (onFloor .requesting holder (some 3)).floor.partner = some 3 ∧
      (onFloor .requesting holder (some 3)).floor.reliefTimer = some 20 ∧
      NothingDue (onFloor .requesting holder (some 3)) ∧
      NothingDue (elapse 20 (onFloor .requesting holder (some 3))) ∧
      (onFloor .requesting (some 2) (some 4)).floor.partner ≠ some 3 ∧ running.floor.state ≠ .requesting := by
  have h : ∀ n, Heard 5 3 (.reliefBusy n) := by decide
  exact ⟨hears (h _) rfl rfl, rfl, rfl, rfl, nothingDue_running _ rfl, nothingDue_running _ rfl, by decide, by decide⟩

/-- Station 5 in a floor state, with this known. -/
def withKnown (known : Option Word) (s : State) : State := { s with release := { s.release with known := known } }

/-- Station 3's estimate. -/
def withOffset (e : Option Int) (s : State) : State :=
  { s with
    peers := { s.peers with table := s.peers.table.set 3 ⟨true, some .writer, some 7, some 0, e, some .on, true⟩ } }

/-- A known above, equal to and below the value passed, with and without an estimate, in RUN and before it. -/
theorem test_meets_PassGives (state : FloorState) :
    Accepts (onFloor state none none) (from_ 3 (.pass 5 7 300)) 3 (.pass (onFloor state none none).seq.addr 7 300) ∧
      Accepts (onFloor state none none) (from_ 3 (.pass 5 0 300)) 3 (.pass (onFloor state none none).seq.addr 0 300) ∧
      NothingDue (onFloor state none none) := by
  exact ⟨hears (m := .pass 5 7 300) (by decide) rfl rfl, hears (m := .pass 5 0 300) (by decide) rfl rfl,
    nothingDue_running _ rfl⟩

theorem test_meets_PassGives_clauses :
    (withKnown (some 8) running).release.known = some 8 ∧ 0 < ((8 : Word) - 7).toInt ∧ ((7 : Word) - 7).toInt ≤ 0 ∧
      ((6 : Word) - 7).toInt ≤ 0 ∧ running.release.known = none ∧ ¬ Holding (onFloor .off none none) ∧
      ¬ Holding (onFloor .claiming none none) ∧ Holding (onFloor .on none none) ∧
      ((withOffset (some (-9)) running).peers.record 3).offset = some (-9) ∧
      (running.peers.record 3).offset = none ∧ Accepts listening (from_ 3 (.pass 5 7 300)) 3 (.pass 5 7 300) := by
  refine ⟨by decide, by decide, by decide, by decide, rfl, ?_, ?_, ?_, by decide, by decide, hears (by decide) rfl rfl⟩ <;>
    (unfold Holding; decide)

theorem test_meets_PassAndFreeMove_pass (state : FloorState) (partner : Option Station) :
    Accepts (onFloor state none partner) (from_ 3 (.pass 7 7 300)) 3 (.pass 7 7 300) ∧
      (7 : Station) ≠ (onFloor state none partner).seq.addr ∧ NothingDue (onFloor state none partner) ∧
      (onFloor .requesting none (some 7)).floor.partner = some 7 ∧
      (onFloor .requesting none (some 3)).floor.partner ≠ some 7 ∧
      (withQueue 23 (onFloor state none partner)).bus.queue.length < 24 := by
  exact ⟨hears (by decide) rfl rfl, (by decide : (7 : Station) ≠ 5), nothingDue_running _ rfl, rfl, by decide,
    (by decide : 23 < 24)⟩

theorem test_meets_PassAndFreeMove_free (state : FloorState) (holder partner : Option Station) :
    Accepts (onFloor state holder partner) (from_ 3 (.floorFree 7)) 3 (.floorFree 7) ∧
      (onFloor .off (some 3) none).floor.holder = some 3 ∧ (onFloor .requesting none (some 3)).floor.partner = some 3 ∧
      (onFloor .off (some 4) none).floor.holder ≠ some 3 ∧ (onFloor .off (some 4) none).floor.partner ≠ some 3 ∧
      Accepts listening (from_ 3 (.floorFree 7)) 3 (.floorFree 7) ∧ listening.seq.phase ≠ .run ∧
      (onFloor .claiming (some 3) none).floor.holder = some 3 ∧ Holding (onFloor .draining (some 5) none) := by
  exact ⟨hears (by decide) rfl rfl, rfl, rfl, by decide, by decide, hears (by decide) rfl rfl, by decide, rfl,
    .inr (.inr rfl)⟩

/-- Station 3 is shown as the holder in the peer table, and no lower station is; or nobody is. -/
theorem test_meets_Vacancy :
    (onFloor .off none none).floor.vacancyTimer = some 20 ∧ (onFloor .off none none).seq.phase = .run ∧
      (withOffset none (onFloor .off none none)).peers.table[3]? =
        some ⟨true, some .writer, some 7, some 0, none, some .on, true⟩ ∧
      (∀ j < 3, (withOffset none (onFloor .off none none)).peers.table[j]? = some Peer.initial) ∧
      (∀ p ∈ (onFloor .off none none).peers.table, p.present = false) ∧
      (onFloor .off none none).floor.claimWait = some 20 ∧ (onFloor .off none none).floor.holdOff = some 20 ∧
      (onFloor .off none none).bus.queue.length < 24 ∧ (onFloor .off (some 3) none).floor.holder ≠ none ∧
      running.floor.claimWait = none ∧ running.floor.holdOff = none ∧ State.reset.floor.vacancyTimer = none := by
  decide

/-- The RELIEF command with another station, this one and nobody as known holder, with one slot left in the queue. -/
theorem test_meets_Vacancy_relief :
    (onFloor .off (some 3) none).seq.phase = .run ∧ (3 : Station) ≠ (onFloor .off (some 3) none).seq.addr ∧
      (onFloor .off (some 5) none).floor.holder = some (onFloor .off (some 5) none).seq.addr ∧
      (onFloor .off none none).floor.holder = none ∧ (onFloor .on none none).floor.state ≠ .off ∧
      listening.seq.phase ≠ .run ∧ (withQueue 23 (onFloor .off none none)).bus.queue.length < 24 := by decide

theorem test_meets_ClaimWindow :
    (onFloor .claiming none none).seq.phase = .run ∧ (onFloor .claiming none none).floor.claimWindow = some 20 ∧
      NothingDue (elapse 20 (onFloor .claiming none none)) ∧ RoomForNotes (onFloor .claiming none none) 8 ∧
      (onFloor .claiming none none).notes.opened = true ∧ running.floor.claimWindow = none :=
  ⟨rfl, rfl, nothingDue_running _ rfl, by unfold RoomForNotes; decide, rfl, rfl⟩

/-- Drained at once, to a partner and to nobody; and with an OFFICIAL unit HELD before a newer one released. -/
theorem test_meets_Cut :
    (onFloor .yielding none (some 3)).seq.phase = .run ∧
      (onFloor .yielding none (some 3)).floor.yieldTimer = some 20 ∧
      (onFloor .yielding none (some 3)).translator.history = [] ∧ (onFloor .yielding none (some 3)).bus.queue = [] ∧
      (onFloor .yielding none none).floor.partner = none ∧
      (∃ u ∈ (withHistory [unit .word .official false none] (onFloor .yielding none none)).translator.history,
        u.released = false ∧ u.stream = .official) ∧
      [unit .word .official false none, unit .word .shadow false none] =
        [] ++ unit .word .official false none :: [unit .word .shadow false none] ∧
      (onFloor .on none none).floor.state ≠ .yielding :=
  ⟨rfl, rfl, rfl, rfl, rfl, ⟨_, List.mem_singleton_self _, rfl, rfl⟩, rfl, by decide⟩

/-- YIELD in YIELDING, FREE in ON, and a unit with a speaker under auto-cut. -/
theorem test_meets_Cut_commands :
    (onFloor .yielding none (some 3)).floor.state = .yielding ∧ (onFloor .on none none).floor.state = .on ∧
      listening.seq.phase ≠ .run ∧
      ({ unit .word .official false none with speaker := some 15 } : TextUnit).kind ≠ .untran ∧
      ({ (onFloor .yielding none (some 3)).settings with autoCut := true } : Settings).autoCut = true ∧
      (unit .word .official false none).speaker = none := by decide

/-- R62: a marker met in DEF_TEXT with a DEF_CLOSE held: nothing is stored or sent, and the definition is refused. -/
def markerIn (state : DefineState) (code : Byte) : State :=
  runWork [.markerMet, .force, .marker 9 1 0]
    (capturing { Capture.closed with state := state, outline := [⟨4, 8, 10⟩] }
      (resting [] [held 4 (some [code]) true] none))

theorem test_marker_abandons_definition :
    (markerIn .text 0x0A).status.isSet .defRefused = true ∧ (markerIn .text 0x0A).port.ramMem = [] ∧
      (markerIn .text 0x0A).bus.queue = [] ∧ (markerIn .text 0x0A).translator.capture = .closed := by decide +kernel

/-- R62: met in NORMAL, with a DEF_OPEN held: the capture that the forced resolution opens stays open. -/
theorem test_marker_keeps_new_definition :
    (markerIn .normal 0x08).status.isSet .defRefused = false ∧
      (markerIn .normal 0x08).translator.capture.state = .outline := by decide +kernel

/-! ### Witnesses: records, flags, text and definitions -/

theorem test_meets_RecordFrame :
    (∀ on, Accepts running (from_ 3 (.record on)) 3 (.record on)) ∧ running.release.recordOn ≠ false ∧
      running.release.recordOn = true ∧ running.floor.state ≠ .draining := by
  have h : ∀ on, Heard 5 3 (.record on) := by decide
  exact ⟨fun on => hears (h on) rfl rfl, by decide, rfl, by decide⟩

/-- An own record command with one slot left in the queue, and before RUN. -/
theorem test_meets_RecordFrame_sent :
    RoomToSend (withQueue 23 running) ∧ (withQueue 23 running).floor.state ≠ .draining ∧ listening.seq.phase ≠ .run ∧
      listening.floor.state ≠ .draining := by unfold RoomToSend; decide

theorem test_meets_ClearFrame : Accepts running (from_ 3 (.clear 0x80400001)) 3 (.clear 0x80400001) :=
  hears (by decide) rfl rfl

/-- The first official text, with a label, a gap and 2 characters. -/
def body : TextBody := ⟨12, 4, 100, true, false, false, false, false, some 65535, true, some 15, [0x61, 0x2E]⟩

theorem test_meets_TextRaises (state : FloorState) (partner : Option Station) :
    Accepts (onFloor state none partner) (from_ 3 (.text body)) 3 (.text body) ∧
      Accepts (onFloor state none partner) (from_ 9 (.text body)) 9 (.text body) ∧
      (3 : Station) < (onFloor state none partner).seq.addr ∧ (onFloor state none partner).seq.addr < 9 ∧
      NothingDue (onFloor state none partner) ∧ (withQueue 23 (onFloor state none partner)).bus.queue.length < 24 := by
  exact ⟨hears (by decide) rfl rfl, hears (by decide) rfl rfl, (by decide : (3 : Station) < 5),
    (by decide : (5 : Station) < 9), nothingDue_running _ rfl, (by decide : 23 < 24)⟩

theorem test_meets_TextRaises_listening : listening.seq.phase ≠ .run ∧ NothingDue listening ∧
    Accepts listening (from_ 3 (.text body)) 3 (.text body) :=
  ⟨by decide, nothingDue_running _ rfl, hears (by decide) rfl rfl⟩

/-- A claim lost, and a conflict lost, with units that are due. -/
theorem test_meets_TextRaises_due (state : FloorState) :
    Accepts (dueUnits (onFloor state none none)) (from_ 3 (.text body)) 3 (.text body) ∧
      Holding (dueUnits (onFloor .yielding none none)) := ⟨hears (by decide) rfl rfl, .inr (.inl rfl)⟩

/-- A definition of K- A -T as ab. -/
def good : List Byte := definePayload [524552] (chars "ab")

/-- A sender whose definitions are disabled. -/
def disabled : State :=
  { running with
    peers := { running.peers with table := running.peers.table.set 3 { Peer.initial with definitionsEnabled := false } } }

def inboxOf (n : Nat) : State := { running with inbox := List.replicate n ⟨2, [8], chars "c"⟩ }

theorem test_meets_DefineArrival :
    Accepts running (from_ 3 (.define good)) 3 (.define good) ∧ Accepts running (from_ 3 (.define [0])) 3 (.define [0]) ∧
      parseDefine good = some ([524552], chars "ab") ∧ parseDefine [0] = none ∧
      (disabled.peers.record 3).definitionsEnabled = false ∧ disabled.peers.table.length = 16 ∧
      running.seq.ramFit = true ∧ State.reset.seq.ramFit = false ∧ (inboxOf 3).inbox.length < 4 ∧
      (inboxOf 3).inbox ≠ [] ∧ 4 ≤ (inboxOf 4).inbox.length ∧ running.inbox = [] ∧ running.lookup.search = none :=
  ⟨hears (by decide) rfl rfl, hears (by decide) rfl rfl, by decide⟩

/-! ### Witnesses: the overlay -/

/-- An overlay of 256 slots that holds K (8) as WORD_CONT "a", with prefix count 1, and K/T (8, 4) as WORD "b"; the
slot behind the home slot of K is deleted. `used` and `crc` stand in the header. -/
def pair (used crc : Nat) (heap : Nat) : State :=
  { running with
    settings := { Settings.standard with overlayLog2 := 8, overlayHeap := heap }
    lookup := { running.lookup with w0 := some ⟨256, 16, 16, 1040, heap * 1024⟩ }
    port :=
      { running.port with
        ramMem :=
          Memory.writeBytes
            (Memory.writeBytes
              (Memory.writeBytes
                (Memory.writeBytes [] 0 (beBytes 4 256 ++ beBytes 4 used ++ [0, 2, 0, 1] ++ [0, 0] ++ beBytes 2 crc))
                (16 + 4 * 41) (beBytes 4 0 ++ [0xFF, 0xFF, 0xFF, 0xFE]))
              (16 + 4 * 142) (beBytes 4 8))
            1040
            ([2, 1, 0, 0, 8, 1, 0x61, 1] ++ [1, 2, 0, 0, 8, 0, 0, 4, 1, 0x62, 0, 0]) } }

def small : State := pair 20 6305 8
def nearlyFull : State := pair 1020 61280 1
def overlayRegion : Region := ⟨.overlay, .ram, 0, 0x40000, [.ramRead, .ramWrite]⟩

theorem stands_small : OverlayStands small overlayRegion 20 2 1 := by
  unfold OverlayStands OverlayHeaderIs OverlayHeaderSound; rw [crc16_strict]; decide +kernel

theorem stands_nearlyFull : OverlayStands nearlyFull overlayRegion 1020 2 1 := by
  unfold OverlayStands OverlayHeaderIs OverlayHeaderSound; rw [crc16_strict]; decide +kernel

theorem slots_small (i : Nat) (hi : i < 256) (h : slotHolds small overlayRegion i < 0xFFFFFFFE) : i = 41 ∨ i = 142 := by
  revert h; revert i; decide +kernel

theorem entry_K : EntryStands small overlayRegion 20 0 .wordCont [8] [0x61] 1 := by unfold EntryStands; decide +kernel

theorem entry_KT : EntryStands small overlayRegion 20 8 .word [8, 4] [0x62] 0 := by unfold EntryStands; decide +kernel

theorem heap_small : HeapSound small overlayRegion 20 := by
  have h41 : slotHolds small overlayRegion 41 = 0 := by decide +kernel
  have h142 : slotHolds small overlayRegion 142 = 8 := by decide +kernel
  refine ⟨fun i hi => ?_, fun i j hi hj hne k o t c k' o' t' c' h h' => ?_⟩
  · rcases slots_small i hi.1 hi.2 with rfl | rfl
    · rw [h41]; exact ⟨_, _, _, _, entry_K⟩
    · rw [h142]; exact ⟨_, _, _, _, entry_KT⟩
  · rcases slots_small i hi.1 hi.2 with rfl | rfl <;> rcases slots_small j hj.1 hj.2 with rfl | rfl
    · exact absurd rfl hne
    · rw [h41] at h; rw [h41, h142, h.span_unique entry_K]; exact .inl (by decide)
    · rw [h41] at h'; rw [h41, h142, h'.span_unique entry_K]; exact .inr (by decide)
    · exact absurd rfl hne

theorem applies (s : State) (outline : List KeySet) (text : List Byte) (hc : canReceive s = true) (ha : s.seq.addr = 5)
    (h : Heard 5 3 (.define (definePayload outline text)))
    (hs : (s.peers.record 3).definitionsEnabled = true ∧ s.seq.ramFit = true ∧ s.lookup.search = none ∧ s.inbox = [] ∧
      1 ≤ outline.length ∧ outline.length ≤ 8 ∧ text.length ≤ 120 ∧ ∀ b ∈ text, definable b = true)
    (hk : outline.all (fun k => decide (k ≠ 0)) = true) :
    DefineApplies s (from_ 3 (.define (definePayload outline text))) 3 outline text := by
  obtain ⟨h1, h2, h3, h4, h5, h6, h7, h8⟩ := hs
  exact ⟨hears h hc ha, h1, h2, h3, h4, h5, h6, fun k hm => of_decide_eq_true (List.all_eq_true.mp hk k hm), h7, h8⟩

/-- K/T deleted, its prefix a WORD left alone; K deleted, a longer outline left; S absent. -/
theorem test_meets_DefineArrival_delete :
    DefineApplies small (from_ 3 (.define (definePayload [8, 4] []))) 3 [8, 4] [] ∧
      DefineApplies small (from_ 3 (.define (definePayload [8] []))) 3 [8] [] ∧
      findOutline small [8, 4] [] = .entry 142 8 ∧ findOutline small [8] [] = .entry 41 0 ∧
      properPrefixes [8, 4] = [[8]] ∧ findOutline small [2] [] = .absent (some 35) ∧
      OverlayStands small overlayRegion 20 2 1 ∧ HeapSound small overlayRegion 20 ∧
      EntryStands small overlayRegion 20 0 .wordCont [8] [0x61] 1 ∧
      EntryStands small overlayRegion 20 8 .word [8, 4] [0x62] 0 :=
  ⟨applies _ _ _ rfl rfl (by decide) (by decide) rfl, applies _ _ _ rfl rfl (by decide) (by decide) rfl,
    by decide +kernel, by decide +kernel, rfl, by decide +kernel, stands_small, heap_small, entry_K, entry_KT⟩

/-- Replaced; created behind an entry of its prefix; created with its prefix, which takes the slot behind its home. -/
theorem test_meets_DefineIsStored_plans :
    storePlan small [8, 4] = [([8], .entry 41 0)] ++ [([8, 4], .entry 142 8)] ∧
      storePlan small [8, 2] = [([8], .entry 41 0)] ++ [([8, 2], .absent (some 140))] ∧
      storePlan small [2, 4] = [([2], .absent (some 35))] ++ [([2, 4], .absent (some 200))] ∧
      DefineApplies small (from_ 3 (.define (definePayload [8, 4] [0x63]))) 3 [8, 4] [0x63] ∧
      DefineApplies small (from_ 3 (.define (definePayload [8, 2] [0x63]))) 3 [8, 2] [0x63] ∧
      DefineApplies small (from_ 3 (.define (definePayload [2, 4] [0x63]))) 3 [2, 4] [0x63] ∧
      2 + 1 + 2 ≤ 2 ^ small.settings.overlayLog2 * 3 / 4 ∧ 20 + 8 + entrySpan [2, 4] [0x63] ≤ 8 * 1024 :=
  ⟨by decide +kernel, by decide +kernel, by decide +kernel, applies _ _ _ rfl rfl (by decide) (by decide) rfl,
    applies _ _ _ rfl rfl (by decide) (by decide) rfl, applies _ _ _ rfl rfl (by decide) (by decide) rfl, by decide,
    by decide⟩

/-- Four bytes of heap left. -/
theorem test_meets_DefineIsStored_refused :
    storePlan nearlyFull [8, 4] = [([8], .entry 41 0)] ++ [([8, 4], .entry 142 8)] ∧
      OverlayStands nearlyFull overlayRegion 1020 2 1 ∧
      ¬ 1020 + prefixBytes [([8], .entry 41 0)] + entrySpan [8, 4] [0x63] ≤ nearlyFull.settings.overlayHeap * 1024 :=
  ⟨by decide +kernel, stands_nearlyFull, by decide⟩

/-- The history holds an older and the newest untranslate of P, the newest released with a sequence. -/
def untranslated : State :=
  withHistory
    [{ unit .untran .official true (some 8) with text := chars "P" },
      { unit .untran .official true (some 9) with text := chars "P" },
      { unit .untran .official false none with text := chars "T" }] small

theorem test_meets_UntranslateText_retranslated :
    DefineApplies untranslated (from_ 3 (.define (definePayload [16, 4] [0x63]))) 3 [16, 4] [0x63] ∧
      storeRefused untranslated (storePlan untranslated [16, 4]) [16, 4] 1 = false ∧ NothingDue untranslated ∧
      RoomToSend untranslated ∧ untranslated.bus.queue.length + 2 ≤ 20 ∧ untranslated.floor.state ≠ .draining ∧
      UntranRun untranslated.translator.history.tail [16, 4] := by
  refine ⟨applies _ _ _ rfl rfl (by decide) (by decide) rfl, by decide +kernel, ?_, ?_, by decide +kernel,
    by decide +kernel, ?_⟩
  · unfold NothingDue; decide +kernel
  · unfold RoomToSend; decide +kernel
  · unfold UntranRun; decide +kernel

/-- An overlay of 1024 slots: the home slot of K- A -T is 361 (spec/03), and holds the deleted mark. -/
def overlay : State :=
  { running with
    lookup := { running.lookup with w0 := some ⟨1024, 16, 16, 4112, 65536⟩ }
    port :=
      { running.port with
        ramMem :=
          Memory.writeBytes
            (Memory.writeBytes [] 0 (beBytes 4 1024 ++ beBytes 4 8 ++ [0, 0, 0, 1] ++ [0, 0] ++ beBytes 2 15296))
            (16 + 4 * 361) [0xFF, 0xFF, 0xFF, 0xFE] } }

theorem test_meets_DefineIsStored :
    Accepts overlay (from_ 3 (.define good)) 3 (.define good) ∧ (overlay.peers.record 3).definitionsEnabled = true ∧
      overlay.seq.ramFit = true ∧ (∀ b ∈ chars "ab", definable b = true) ∧
      overlay.port.region .overlay = some ⟨.overlay, .ram, 0, 0x40000, [.ramRead, .ramWrite]⟩ ∧
      Memory.wf overlay.port.ramMem ∧ overlay.settings.overlayLog2 = 10 ∧ overlay.settings.overlayHeap = 64 ∧
      16 + 4 * 2 ^ 10 + 64 * 1024 ≤ 0x40000 ∧
      OverlayHeaderIs overlay.settings (Memory.readBytes overlay.port.ramMem 0 16) 8 0 1 ∧
      findOutline overlay [524552] [] = .absent (some 361) ∧ 0 + 1 + 1 ≤ 2 ^ 10 * 3 / 4 ∧
      8 + (4 + 3 + 2 + 3) / 4 * 4 ≤ 64 * 1024 ∧ (∀ u ∈ overlay.translator.history, u.kind ≠ .untran) ∧
      fieldAt (Memory.readBytes overlay.port.ramMem (16 + 4 * 361) 4) 0 4 = 0xFFFFFFFE := by
  refine ⟨hears (by decide) rfl rfl, ?_⟩
  unfold OverlayHeaderIs OverlayHeaderSound; rw [crc16_strict]; decide +kernel

/-! ### Witnesses: peers -/

/-- A PRESENCE that says this time, floor state and restart count. -/
def saying (time : Word) (floor : FloorState) (restart : BitVec 16) : PresenceBody :=
  ⟨time, true, floor, true, restart, 7, 1⟩

theorem heard_presence : Heard 5 3 (.presence (saying 500 .off 0)) ∧ Heard 5 3 (.presence (saying 500 .on 8)) ∧
    Heard 5 9 (.presence (saying 500 .yielding 7)) := by decide +kernel

/-- From a lower and a higher address, off the floor and holding it, with the restart count unknown and changed. -/
theorem test_meets_PresenceUpdates (s : State) (hs : s = onFloor .on none none ∨ s = onFloor .off none none) :
    Accepts s (from_ 3 (.presence (saying 500 .off 0))) 3 (.presence (saying 500 .off 0)) ∧
      Accepts s (from_ 3 (.presence (saying 500 .on 8))) 3 (.presence (saying 500 .on 8)) ∧
      Accepts s (from_ 9 (.presence (saying 500 .yielding 7))) 9 (.presence (saying 500 .yielding 7)) ∧
      s.peers.table.length = 16 ∧ NothingDue s := by
  obtain ⟨h1, h2, h3, h4⟩ : canReceive s = true ∧ s.seq.addr = 5 ∧ s.peers.table.length = 16 ∧
      s.translator.history = [] := by rcases hs with rfl | rfl <;> decide
  obtain ⟨g1, g2, g3⟩ := heard_presence
  exact ⟨hears g1 h1 h2, hears g2 h1 h2, hears g3 h1 h2, h3, nothingDue_running _ h4⟩

/-- The estimate: none, one that slews by |r| = 8000, one that steps by 8001; a restart count changed and not. -/
theorem test_meets_PresenceUpdates_clauses :
    (running.peers.record 3).offset = none ∧ ((withOffset (some 0) running).peers.record 3).offset = some 0 ∧
      |16 * ((500 : Word) - (running.seq.clock - 0)).toInt - 0| ≤ 8000 ∧
      8000 < |16 * ((500 : Word) - (running.seq.clock - 0)).toInt - -1| ∧
      ((withOffset (some 0) running).peers.record 3).restart = some 7 ∧ (7 : BitVec 16) ≠ 8 ∧
      listening.seq.phase ≠ .run := by decide

/-- A holding sender met by a claimant, and a lost conflict, with and without a partner. -/
theorem test_meets_PresenceUpdates_floor (state : FloorState) (partner : Option Station) :
    Accepts (withQueue 23 (onFloor state none partner)) (from_ 3 (.presence (saying 500 .on 8))) 3
        (.presence (saying 500 .on 8)) ∧
      (3 : Station) < (onFloor state none partner).seq.addr ∧ NothingDue (onFloor state none partner) ∧
      (withQueue 23 (onFloor state none partner)).bus.queue.length < 24 ∧ Holding (onFloor .draining none partner) := by
  obtain ⟨-, g, -⟩ := heard_presence
  exact ⟨hears g rfl rfl, (by decide : (3 : Station) < 5), nothingDue_running _ rfl, (by decide : 23 < 24),
    .inr (.inr rfl)⟩

theorem test_meets_PresenceUpdates_due (state : FloorState) :
    Accepts (dueUnits (onFloor state none none)) (from_ 3 (.presence (saying 500 .on 8))) 3
        (.presence (saying 500 .on 8)) ∧
      (dueUnits (onFloor state none none)).peers.table.length = 16 := by
  obtain ⟨-, g, -⟩ := heard_presence
  exact ⟨hears g rfl rfl, rfl⟩

/-- A PRESENCE period at its end, in RUN with nothing and with a PRESENCE waiting, and in LISTEN. -/
theorem test_meets_PresencePeriod :
    running.peers.timer = some 250 ∧
      (∀ a : Station, (running.peers.record a).silent (elapse 250 running).seq.clock
        (running.settings.loss * running.settings.presence) = false) ∧
      running.bus.queue.length < 20 ∧ (∀ g ∈ running.bus.queue, g.kind ≠ .presence) ∧
      (∃ g ∈ (mixed ⟨.presence, none, false⟩).bus.queue, g.kind = .presence ∧ g.sending = false) ∧
      listening.peers.timer = some 250 ∧ listening.seq.phase = .listen ∧ listening.seq.listenExpiries = 1 ∧
      listening.bus.queue = [] ∧ listening.floor.state = .off ∧ listening.floor.holder = none ∧
      { listening.seq with listenExpiries := 0 }.phase = .listen := by
  refine ⟨rfl, by decide, by decide, by decide, ⟨_, List.mem_cons_self, rfl, rfl⟩, rfl, rfl, rfl, rfl, rfl, rfl, rfl⟩

/-- The entry to RUN with nothing due, and with units whose hold-back is over. -/
theorem test_meets_PresencePeriod_due :
    NothingDue (elapse 250 listening) ∧ (dueUnits listening).peers.timer = some 250 ∧
      (dueUnits listening).seq.listenExpiries = 1 ∧ (dueUnits listening).floor.state = .off ∧
      (∀ a : Station, ((dueUnits listening).peers.record a).silent (elapse 250 (dueUnits listening)).seq.clock
        ((dueUnits listening).settings.loss * (dueUnits listening).settings.presence) = false) ∧
      due (elapse 250 (dueUnits listening)) (unit .word .official false none) = true :=
  ⟨nothingDue_running _ rfl, rfl, rfl, rfl, by decide, rfl⟩

/-- Station 3, last heard at 0, is silent after three periods of 250 ms: at 751 ms. -/
theorem test_meets_PresencePeriod_silent :
    let s := { withOffset none running with seq := { running.seq with clock := 501 } }
    let limit := s.settings.loss * s.settings.presence
    s.peers.table.length = 16 ∧ (s.peers.record 3).silent (timeAfter s 250) limit = true ∧
      ∀ b : Station, b ≠ 3 → (s.peers.record b).silent (timeAfter s 250) limit = false := by
  decide

/-- The absent station as known holder and as partner, and as neither. -/
theorem test_meets_PresencePeriod_floor :
    (onFloor .off (some 3) none).floor.holder = some 3 ∧ (onFloor .off (some 2) none).floor.holder ≠ some 3 ∧
      (onFloor .requesting (some 3) (some 3)).floor.partner = some 3 ∧
      (onFloor .requesting (some 3) (some 2)).floor.partner ≠ some 3 ∧
      (onFloor .yielding none (some 3)).floor.state = .yielding ∧
      (onFloor .draining none (some 3)).floor.state = .draining ∧
      (withQueue 23 (onFloor .requesting (some 3) (some 3))).bus.queue.length < 24 := by decide

/-! ### Witnesses: status unit -/

/-- A pattern playing, another waiting, all enabled and all flags masked in. -/
def playing (left : Nat) (waiting : Option Pattern) : State :=
  { running with status := { running.status with mask := 0x3FFFFF, enables := 0xF, playing := some (.untran, left), waiting := waiting } }

theorem test_meets_PatternEnd :
    (playing 7 (some .reliefAsked)).status.playing = some (.untran, 7) ∧ running.status.playing = none ∧
      running.status.enables.getLsbD Pattern.fault.place = false ∧
      (playing 7 none).status.enables.getLsbD Pattern.fault.place = true := by decide

theorem test_meets_FaultPattern :
    (playing 7 none).seq.phase ≠ .fault ∧ (playing 7 none).status.isSet .txDrop = false ∧
      (playing 7 none).status.mask.getLsbD (Machine.Flag.txDrop).position = true ∧
      (playing 7 none).status.enables.getLsbD 3 = true ∧ (playing 7 none).status.playing ≠ none ∧
      { (playing 7 none).status with playing := none }.isSet .txDrop = false ∧
      running.status.mask.getLsbD (Machine.Flag.txDrop).position = false := by decide

/-! ### Witnesses: what every step keeps -/

/-- Running, with a PATTERN_END in front of the queue. -/
def oneCommand : State := { running with pending := [.patternEnd] }

theorem test_meets_FlashBits :
    MemoryGood oneCommand ∧ step oneCommand = .next running ∧
      (∀ straps flash ram, oneCommand.pending.head? ≠ some (.powerOnReset straps flash ram)) ∧
      ¬ InOverlay oneCommand 0x40000 ∧ InOverlay oneCommand 0x3FFFF := by
  refine ⟨⟨Memory.wf_nil, Memory.wf_nil⟩, rfl, ?_, ?_, ⟨overlayRegion, rfl, by decide, by decide⟩⟩
  · intro _ _ _ h; cases h
  rintro ⟨r, hr, -, h⟩
  cases (show some overlayRegion = some r from hr)
  exact absurd h (by decide)

theorem test_meets_BoundsAreKept : QueuesGood oneCommand ∧ FlagsGood oneCommand ∧ step oneCommand = .next running :=
  ⟨by unfold QueuesGood; decide, by unfold FlagsGood; decide, rfl⟩

theorem test_meets_HistoryTail :
    HistoryGood { oneCommand with translator := { running.translator with history := [unit .word .shadow true (some 1), unit .word .official false none] } } := by
  unfold HistoryGood HeldTail; decide

/-- A part in FAULT keeps quiet. -/
def faulted : State :=
  { State.reset with
    seq := { State.reset.seq with phase := .fault, loadStep := .done }
    port := { State.reset.port with flash := .free, timer := none }
    status := { State.reset.status with playing := some (.fault, 500) } }

theorem test_meets_OnlyReset :
    QuietGood faulted ∧ faulted.seq.phase = .fault ∧ step { faulted with pending := [.strokeEvent] } = .next faulted ∧
      isReset .strokeEvent = false ∧ step oneCommand = .next running ∧ step faulted = .next (tick faulted) :=
  ⟨fun _ => by decide, rfl, rfl, rfl, rfl, rfl⟩

theorem test_meets_SentFrame : (Msg.text body).WellFormed ∧ (3 : Station) ≠ 5 :=
  ⟨by unfold Msg.WellFormed TextBody.WellFormed; simp [body], by decide⟩

end Sys2Proof.Tests
end

section
/-! PROOFS. Stroke capture: what debounce, the key sets, the chord former, the MARK sample and one whole scan do, said
once each (R1 to R15). -/

namespace Sys2Proof.Machine

/-! ### Debounce and key sets (R1, R4, R5) -/

theorem debounceCells_getElem? (limit : Nat) (image : BitVec 24) (cells : List CellState) (p : Nat) :
    (debounceCells limit image cells)[p]? = cells[p]?.map (debounceCell limit (image.getLsbD p)) := by
  cases h : cells[p]? <;> simp [debounceCells, List.getElem?_zipIdx, h]

/-- A cell is reported down exactly when it was up, reads pressed and its count is complete (R4). -/
theorem debounceCell_down (limit : Nat) (reading : Bool) (c : CellState) :
    ((debounceCell limit reading c).1.pressed && (debounceCell limit reading c).2) =
      (!c.pressed && reading && decide (limit ≤ c.count + 1)) := by
  by_cases hr : reading = c.pressed
  · cases h : c.pressed <;> simp [debounceCell, hr, h]
  · have hp : c.pressed = !reading := by cases reading <;> simp_all
    by_cases hl : c.count + 1 < limit
    · simp [debounceCell, hp, hl]
    · simp [debounceCell, hp, hl, Nat.le_of_not_lt hl]

/-- A cell that was up and is not reported down is up after the scan (R4). -/
theorem debounceCell_up {limit : Nat} {reading : Bool} {c : CellState} (hc : c.pressed = false)
    (hd : ((debounceCell limit reading c).1.pressed && (debounceCell limit reading c).2) = false) :
    (debounceCell limit reading c).1.pressed = false := by
  unfold debounceCell at hd ⊢
  split_ifs at hd ⊢ <;> simp_all

theorem foldl_addKey_getLsbD (test : Nat → Bool) (l : List Nat) (k : KeySet) {p : Nat} (hp : p < 23) :
    (l.foldl (fun k q => if test q then k ||| BitVec.twoPow 23 q else k) k).getLsbD p =
      (k.getLsbD p || (decide (p ∈ l) && test p)) := by
  induction l generalizing k with
  | nil => simp
  | cons q l ih =>
    rw [List.foldl_cons, ih]
    rcases eq_or_ne q p with rfl | hq
    · cases test q <;> simp [hp]
    · cases test q <;> simp [hp, hq.symm]

theorem keysWhere_getLsbD (test : Nat → Bool) {p : Nat} (hp : p < 23) : (keysWhere test).getLsbD p = test p := by
  unfold keysWhere; rw [foldl_addKey_getLsbD test _ _ hp]; simp [hp]

theorem keysWhere_eq_zero (test : Nat → Bool) : keysWhere test = 0 ↔ ∀ p < 23, test p = false := by
  constructor
  · intro h p hp; rw [← keysWhere_getLsbD test hp, h]; simp
  · intro h; refine BitVec.eq_of_getLsbD_eq fun p hp => ?_; rw [keysWhere_getLsbD test hp, h p hp]; simp

theorem keysWhere_congr {test test' : Nat → Bool} (h : ∀ p < 23, test p = test' p) :
    keysWhere test = keysWhere test' :=
  BitVec.eq_of_getLsbD_eq fun p hp => by rw [keysWhere_getLsbD _ hp, keysWhere_getLsbD _ hp, h p hp]

theorem cellsAfter_getElem? (s : State) (image : BitVec 24) (p : Nat) :
    (cellsAfter s image)[p]? = s.scanner.cells[p]?.map (debounceCell s.settings.debounce (image.getLsbD p)) :=
  debounceCells_getElem? _ _ _ _

theorem keysDown_getLsbD_iff (s : State) (image : BitVec 24) {p : Nat} (hp : p < 23) :
    (keysDown (cellsAfter s image)).getLsbD p = true ↔ KeyGoesDown s image p := by
  unfold keysDown KeyGoesDown
  rw [keysWhere_getLsbD _ hp, cellsAfter_getElem?]
  cases s.scanner.cells[p]? with
  | none => simp
  | some c => simp [debounceCell_down, and_assoc]

/-- With every key up before, a scan that reports no key down leaves every key up (R6). -/
theorem keysHeld_of_keysDown {s : State} {image : BitVec 24} (hu : ∀ p < 23, keyUp s p)
    (hd : keysDown (cellsAfter s image) = 0) : keysHeld (cellsAfter s image) = 0 := by
  unfold keysDown keysHeld at *
  rw [keysWhere_eq_zero] at *
  intro p hp
  have hup := hu p hp
  have hdown := hd p hp
  unfold keyUp at hup
  rw [cellsAfter_getElem?] at *
  cases hc : s.scanner.cells[p]? with
  | none => rfl
  | some c =>
    rw [hc] at hup hdown
    exact debounceCell_up hup hdown

/-! ### What a scan can touch -/

/-- From s to t nothing has changed but the scanner, the stroke queue, the notes writer, the status unit, the state and
grant of the flash, and the mark-next latch. -/
def CaptureAct (s t : State) : Prop :=
  ∃ scanner strokes notes status flash granted mark,
    t = { s with
      scanner := scanner, strokes := strokes, notes := notes, status := status
      port := { s.port with flash := flash, burstGranted := granted }
      translator := { s.translator with markNext := mark } }

theorem CaptureAct.refl (s : State) : CaptureAct s s := ⟨_, _, _, _, _, _, _, rfl⟩

theorem CaptureAct.trans {s t u : State} (h : CaptureAct s t) (k : CaptureAct t u) : CaptureAct s u := by
  obtain ⟨_, _, _, _, _, _, _, rfl⟩ := h
  obtain ⟨_, _, _, _, _, _, _, rfl⟩ := k
  exact ⟨_, _, _, _, _, _, _, rfl⟩

theorem CaptureAct.scanKept {n : Nat} {s t : State} (h : CaptureAct (elapse n s) t) : ScanKept n s t := by
  obtain ⟨_, _, _, _, _, _, _, rfl⟩ := h
  exact ⟨rfl, rfl, rfl, rfl, rfl, rfl, rfl, rfl, rfl, rfl, rfl, ⟨rfl, rfl⟩, rfl⟩

theorem CaptureAct.setScanner (s : State) (x : Scanner) : CaptureAct s { s with scanner := x } :=
  ⟨_, _, _, _, _, _, _, rfl⟩

theorem setFlag_scanner (f : Flag) (s : State) : (setFlag f s).scanner = s.scanner := by rw [setFlag_eq]

theorem setFlag_strokes (f : Flag) (s : State) : (setFlag f s).strokes = s.strokes := by rw [setFlag_eq]

theorem setFlag_captureAct (f : Flag) (s : State) : CaptureAct s (setFlag f s) :=
  ⟨_, _, _, _, _, _, _, setFlag_eq f s⟩

theorem setFlagIf_captureAct (c : Bool) (f : Flag) (s : State) : CaptureAct s (setFlagIf c f s) :=
  ⟨_, _, _, _, _, _, _, setFlagIf_eq c f s⟩

theorem handNote_captureAct (n : Note) (s : State) : CaptureAct s (handNote n s) :=
  ⟨_, _, _, _, _, _, _, handNote_eq n s⟩

theorem offerStroke_captureAct (r : StrokeRecord) (s : State) : CaptureAct s (offerStroke r s) := by
  unfold offerStroke; split
  · exact ⟨_, _, _, _, _, _, _, rfl⟩
  · exact .trans ⟨_, s.strokes.modify (s.strokes.length - 1) QueuedStroke.overrunMore, _, _, _, _, _, rfl⟩
      (setFlag_captureAct _ _)

theorem completeChord_captureAct (keys : KeySet) (t : Word) (s : State) : CaptureAct s (completeChord keys t s) :=
  (CaptureAct.setScanner s _).trans ((handNote_captureAct _ _).trans (offerStroke_captureAct _ _))

theorem chordStep_captureAct (down held : KeySet) (t : Word) (s : State) :
    CaptureAct s (chordStep down held t s) := by
  unfold chordStep; dsimp only; repeat' split
  · exact .refl s
  · exact .setScanner s _
  · exact completeChord_captureAct _ _ s
  · exact (CaptureAct.setScanner s _).trans (setFlag_captureAct _ _)
  · exact .setScanner s _
  · exact .setScanner s _
  · exact .refl s

/-! ### The chord former (R6 to R9) -/

theorem chordStep_idle {s : State} (h : s.scanner.chord = .idle) (down held : KeySet) (t : Word) :
    chordStep down held t s =
      if down = 0 then s
      else { s with scanner := { s.scanner with chord := .chord, accumulator := down, chordStart := some t } } := by
  unfold chordStep; rw [h]

theorem chordStep_complete {s : State} (h : s.scanner.chord = .chord) (down : KeySet) (t : Word) :
    chordStep down 0 t s = completeChord (s.scanner.accumulator ||| down) t s := by
  unfold chordStep; rw [h]; exact if_pos rfl

theorem chordStep_open {s : State} (h : s.scanner.chord = .chord) (down : KeySet) {held : KeySet} (hh : held ≠ 0)
    (t : Word) :
    chordStep down held t s =
      if chordStuck s t then
        setFlag .keyStuck
          { s with scanner := { s.scanner with chord := .drain, accumulator := 0, chordStart := none } }
      else { s with scanner := { s.scanner with accumulator := s.scanner.accumulator ||| down } } := by
  unfold chordStep; rw [h]; exact if_neg hh

theorem chordStep_drain {s : State} (h : s.scanner.chord = .drain) (down held : KeySet) (t : Word) :
    chordStep down held t s = if held = 0 then { s with scanner := { s.scanner with chord := .idle } } else s := by
  unfold chordStep; rw [h]

/-- No stroke is built from s to t: its number, the queue and the STROKE notes are as they were. -/
structure NoStroke (s t : State) : Prop where
  nextStroke : t.scanner.nextStroke = s.scanner.nextStroke
  strokes : t.strokes = s.strokes
  strokeNotes : strokeNotes t = strokeNotes s

theorem NoStroke.trans {s t u : State} (h : NoStroke s t) (k : NoStroke t u) : NoStroke s u :=
  ⟨k.nextStroke.trans h.nextStroke, k.strokes.trans h.strokes, k.strokeNotes.trans h.strokeNotes⟩

theorem NoStroke.setFlag {s t : State} (f : Flag) (h : NoStroke s t) : NoStroke s (setFlag f t) := by
  rw [setFlag_eq]; exact ⟨h.nextStroke, h.strokes, h.strokeNotes⟩

/-- Only the completion of a chord builds a stroke (R6 to R9). -/
theorem chordStep_noStroke {s : State} {held : KeySet} (h : s.scanner.chord = .chord → held ≠ 0) (down : KeySet)
    (t : Word) : NoStroke s (chordStep down held t s) := by
  cases hc : s.scanner.chord with
  | idle => rw [chordStep_idle hc]; split <;> exact ⟨rfl, rfl, rfl⟩
  | drain => rw [chordStep_drain hc]; split <;> exact ⟨rfl, rfl, rfl⟩
  | chord =>
    rw [chordStep_open hc _ (h hc)]; split
    · exact NoStroke.setFlag _ ⟨rfl, rfl, rfl⟩
    · exact ⟨rfl, rfl, rfl⟩

theorem offerStroke_scanner (r : StrokeRecord) (s : State) : (offerStroke r s).scanner = s.scanner := by
  unfold offerStroke; split
  · rfl
  · rw [setFlag_scanner]

/-- The scanner after the completion of a chord (R7, R10). -/
theorem completeChord_scanner (keys : KeySet) (t : Word) (s : State) :
    (completeChord keys t s).scanner =
      { s.scanner with
        chord := .idle, accumulator := 0, chordStart := none
        nextStroke := some (succNonzero (s.scanner.nextStroke.getD 1)) } := by
  unfold completeChord strokeDone; rw [offerStroke_scanner, handNote_eq]

/-- The chord former debounces no cell and changes nothing of the MARK line. -/
theorem chordStep_scanner (down held : KeySet) (t : Word) (s : State) :
    (chordStep down held t s).scanner =
      { s.scanner with
        chord := (chordStep down held t s).scanner.chord
        accumulator := (chordStep down held t s).scanner.accumulator
        chordStart := (chordStep down held t s).scanner.chordStart
        nextStroke := (chordStep down held t s).scanner.nextStroke } := by
  unfold chordStep; dsimp only; repeat' split
  all_goals simp [completeChord_scanner, setFlag_scanner]

/-- The chord former sets no flag but KEY_STUCK, STROKE_OVERRUN and NOTE_LOST. -/
theorem chordStep_isSet (down held : KeySet) (t : Word) (s : State) {g : Flag} (h1 : g ≠ .keyStuck)
    (h2 : g ≠ .strokeOverrun) (h3 : g ≠ .noteLost) :
    (chordStep down held t s).status.isSet g = s.status.isSet g := by
  unfold chordStep completeChord strokeDone offerStroke; dsimp only; repeat' split
  all_goals simp [isSet_setFlag, isSet_handNote, h1, h2, h3]

/-! ### The MARK sample (R14, R15) -/

theorem arbitrate_notes (s : State) : (arbitrate s).notes = s.notes := by rw [arbitrate_eq]

/-- Handing a note that is no STROKE leaves the STROKE notes as they are. -/
theorem handNote_strokeNotes {n : Note} (hn : isStrokeNote n = false) (s : State) :
    strokeNotes (handNote n s) = strokeNotes s := by
  unfold strokeNotes handNote joinNote armFlush
  repeat' split
  all_goals simp [arbitrate_notes, setFlag_notes, loseNote, hn]

/-- What a MARK sample leaves as it is: the matrix and the chord former, the strokes, and every flag but NOTE_LOST. -/
structure MarkSampled (s t : State) : Prop where
  scanner : ∃ level count held,
    t.scanner = { s.scanner with markLevel := level, markCount := count, heldMark := held }
  strokes : t.strokes = s.strokes
  strokeNotes : strokeNotes t = strokeNotes s
  isSet : ∀ g, g ≠ .noteLost → t.status.isSet g = s.status.isSet g
  act : CaptureAct s t

theorem MarkSampled.setLine (s : State) (level : Option Bool) (count : Nat) (held : Option Word) :
    MarkSampled s { s with scanner := { s.scanner with markLevel := level, markCount := count, heldMark := held } } :=
  ⟨⟨_, _, _, rfl⟩, rfl, rfl, fun _ _ => rfl, .setScanner s _⟩

theorem MarkSampled.trans {s t u : State} (h : MarkSampled s t) (k : MarkSampled t u) : MarkSampled s u := by
  obtain ⟨_, _, _, hs⟩ := h.scanner
  obtain ⟨level, count, held, ks⟩ := k.scanner
  exact ⟨⟨level, count, held, by rw [ks, hs]⟩, k.strokes.trans h.strokes, k.strokeNotes.trans h.strokeNotes,
    fun g hg => (k.isSet g hg).trans (h.isSet g hg), h.act.trans k.act⟩

theorem markEdge_sampled (t : Word) (s : State) : MarkSampled s (markEdge t s) := by
  unfold markEdge; split
  · have hact : CaptureAct s { s with translator := { s.translator with markNext := true } } :=
      ⟨_, _, _, _, _, _, _, rfl⟩
    exact ⟨⟨_, _, _, by rw [handNote_eq]⟩, by rw [handNote_eq], handNote_strokeNotes rfl _,
      fun g hg => isSet_handNote _ _ hg, hact.trans (handNote_captureAct _ _)⟩
  · exact .setLine s _ _ _

theorem sampleMark_sampled (high : Bool) (t : Word) (s : State) : MarkSampled s (sampleMark high t s) := by
  unfold sampleMark; split
  · exact .setLine s _ _ _
  · dsimp only; split
    · exact (MarkSampled.setLine s _ _ _).trans (markEdge_sampled _ _)
    · exact .setLine s _ _ _

/-! ### One scan (R2) -/

/-- The state at the start of a scan due in n ms: the time has passed, and the next period is set. -/
def scanStart (n : Nat) (s : State) : State :=
  { elapse n s with scanner := { (elapse n s).scanner with period := some s.settings.scanPeriod } }

/-- The matrix part of a scan up to the chord former: the image, the cells and KEY_FAULT (R4, R5). -/
def matrixRead (image : BitVec 24) (s : State) : State :=
  setFlagIf (faultDown (cellsAfter s image)) .keyFault
    { s with scanner := { s.scanner with image := image, cells := (cellsAfter s image).map Prod.fst } }

/-- A scan of this image, due in n ms, before the MARK sample. -/
def keysScanned (n : Nat) (image : BitVec 24) (s : State) : State :=
  chordStep (keysDown (cellsAfter s image)) (keysHeld (cellsAfter s image)) (timeAfter s n)
    (matrixRead image (scanStart n s))

theorem scanKeys_scanStart (n : Nat) (image : BitVec 24) (s : State) :
    scanKeys image (timeAfter s n) (scanStart n s) = keysScanned n image s := rfl

/-- Where no scan is due nothing happens; else the matrix is read while scanning is active, and MARK is sampled. -/
theorem takeScan_eq {s : State} {n : Nat} (h : s.scanner.period = some n) (image : BitVec 24) (mark : Bool) :
    takeScan image mark s =
      let u := if s.scanner.active then keysScanned n image s else scanStart n s
      if u.scanner.markActive then sampleMark mark (timeAfter s n) u else u := by
  unfold takeScan; rw [h]; rfl

theorem takeScan_sampled {s : State} {n : Nat} (h : s.scanner.period = some n) (image : BitVec 24) (mark : Bool) :
    MarkSampled (if s.scanner.active then keysScanned n image s else scanStart n s) (takeScan image mark s) := by
  rw [takeScan_eq h]; dsimp only
  generalize (if s.scanner.active then keysScanned n image s else scanStart n s) = u
  split
  · exact sampleMark_sampled _ _ _
  · exact .setLine u _ _ _

theorem takeScan_due {s : State} {n : Nat} (h : ScanDue s n) (image : BitVec 24) (mark : Bool) :
    MarkSampled (keysScanned n image s) (takeScan image mark s) := by
  have hm := takeScan_sampled h.1 image mark
  rwa [if_pos h.2] at hm

section
variable (n : Nat) (image : BitVec 24) (s : State)

theorem matrixRead_scanner :
    (matrixRead image (scanStart n s)).scanner =
      { s.scanner with
        period := some s.settings.scanPeriod, image := image, cells := (cellsAfter s image).map Prod.fst } := by
  unfold matrixRead; rw [setFlagIf_eq]; rfl

theorem matrixRead_noStroke : NoStroke s (matrixRead image (scanStart n s)) := by
  unfold matrixRead; rw [setFlagIf_eq]; exact ⟨rfl, rfl, rfl⟩

theorem matrixRead_settings : (matrixRead image (scanStart n s)).settings = s.settings := by
  unfold matrixRead; rw [setFlagIf_eq]; rfl

/-- The matrix part sets KEY_FAULT only (R5). -/
theorem matrixRead_isSet (g : Flag) :
    (matrixRead image (scanStart n s)).status.isSet g =
      (s.status.isSet g || (faultDown (cellsAfter s image) && decide (g = .keyFault))) := by
  unfold matrixRead; rw [isSet_setFlagIf]; rfl

theorem matrixRead_captureAct : CaptureAct (elapse n s) (matrixRead image (scanStart n s)) :=
  (CaptureAct.setScanner _ _).trans ((CaptureAct.setScanner _ _).trans (setFlagIf_captureAct _ _ _))

theorem keysScanned_captureAct : CaptureAct (elapse n s) (keysScanned n image s) :=
  (matrixRead_captureAct n image s).trans (chordStep_captureAct _ _ _ _)

end

/-- A scan touches only the blocks of capture (R2 to R15). -/
theorem takeScan_kept {s : State} {n : Nat} (h : ScanDue s n) (image : BitVec 24) (mark : Bool) :
    ScanKept n s (takeScan image mark s) :=
  ((keysScanned_captureAct n image s).trans (takeScan_due h image mark).act).scanKept

/-- A scan that completes no chord builds no stroke. -/
theorem takeScan_noStroke {s : State} {n : Nat} {image : BitVec 24} (h : ScanDue s n)
    (hh : s.scanner.chord = .chord → keysHeld (cellsAfter s image) ≠ 0) (mark : Bool) :
    NoStroke s (takeScan image mark s) := by
  have hm := takeScan_due h image mark
  obtain ⟨_, _, _, hs⟩ := hm.scanner
  have hk : NoStroke s (keysScanned n image s) :=
    (matrixRead_noStroke n image s).trans (chordStep_noStroke (by rwa [matrixRead_scanner]) _ _)
  exact hk.trans ⟨by rw [hs], hm.strokes, hm.strokeNotes⟩

/-- The chord former after a scan is as the chord former's own step leaves it. -/
theorem takeScan_former {s : State} {n : Nat} (h : ScanDue s n) (image : BitVec 24) (mark : Bool) :
    (takeScan image mark s).scanner.chord = (keysScanned n image s).scanner.chord ∧
      (takeScan image mark s).scanner.accumulator = (keysScanned n image s).scanner.accumulator ∧
      (takeScan image mark s).scanner.chordStart = (keysScanned n image s).scanner.chordStart := by
  obtain ⟨_, _, _, hs⟩ := (takeScan_due h image mark).scanner
  rw [hs]; exact ⟨rfl, rfl, rfl⟩

/-- The matrix after a scan: its image, its period, and each cell debounced (R2, R4). -/
theorem takeScan_matrix {s : State} {n : Nat} (h : ScanDue s n) (image : BitVec 24) (mark : Bool) :
    (takeScan image mark s).scanner.image = image ∧
      (takeScan image mark s).scanner.period = some s.settings.scanPeriod ∧
      (takeScan image mark s).scanner.cells = (cellsAfter s image).map Prod.fst := by
  obtain ⟨_, _, _, hs⟩ := (takeScan_due h image mark).scanner
  rw [hs]; unfold keysScanned; rw [chordStep_scanner, matrixRead_scanner]; exact ⟨rfl, rfl, rfl⟩

/-- Each cell after a scan (R4). -/
theorem takeScan_cell {s : State} {n : Nat} (h : ScanDue s n) (image : BitVec 24) (mark : Bool) {p : Nat}
    {c : CellState} (hc : s.scanner.cells[p]? = some c) :
    (takeScan image mark s).scanner.cells[p]? = some
      (if image.getLsbD p = c.pressed then ⟨c.pressed, 0⟩
      else if c.count + 1 < s.settings.debounce then ⟨c.pressed, c.count + 1⟩
      else ⟨image.getLsbD p, 0⟩) := by
  rw [(takeScan_matrix h image mark).2.2, List.getElem?_map, cellsAfter_getElem?, hc]
  unfold debounceCell; simp only [Option.map_some]; split_ifs <;> rfl

/-- After the chord former a scan sets no flag but NOTE_LOST. -/
theorem takeScan_isSet {s : State} {n : Nat} (h : ScanDue s n) (image : BitVec 24) (mark : Bool) {g : Flag}
    (hg : g ≠ .noteLost) :
    (takeScan image mark s).status.isSet g = (keysScanned n image s).status.isSet g :=
  (takeScan_due h image mark).isSet g hg

end Sys2Proof.Machine
end

section
/-! PROOFS. The statements about one scan: debounce, the stuck limit, DRAIN and the unconnected cell (R4, R5, R8, R9). -/

namespace Sys2Proof.Machine

/-- Settles O13: the cells after a scan are the debounced cells, and nothing outside capture is touched. -/
theorem scanDebouncesEveryCell : Obligations.ScanDebouncesEveryCell := by
  intro s n image mark h
  obtain ⟨himage, hperiod, hcells⟩ := takeScan_matrix h image mark
  exact ⟨_, rfl, himage, hperiod, by simp [hcells, cellsAfter, debounceCells],
    fun _ _ hc => takeScan_cell h image mark hc, takeScan_kept h image mark⟩

/-- In an open chord, the stuck limit is judged on the time since the chord's start, by the signed difference (R8). -/
theorem chordStuck_matrixRead {s : State} {c : Word} (hc : s.scanner.chordStart = some c) (n : Nat)
    (image : BitVec 24) :
    chordStuck (matrixRead image (scanStart n s)) (timeAfter s n) =
      decide ((s.settings.stuckLimit : Int) * 1000 < (timeAfter s n - c).toInt) := by
  unfold chordStuck interval; rw [matrixRead_settings, matrixRead_scanner]; simp only [hc, Option.getD_some]

/-- Settles O15: with a key held the open chord takes the stuck-limit branch of the chord former or stays open. -/
theorem overlongChordIsDiscarded : Obligations.OverlongChordIsDiscarded := by
  intro s n image mark c h hchord hstart hheld
  have hopen := chordStep_open (s := matrixRead image (scanStart n s)) (by rwa [matrixRead_scanner])
    (keysDown (cellsAfter s image)) hheld (timeAfter s n)
  rw [chordStuck_matrixRead hstart, ← keysScanned] at hopen
  obtain ⟨hc, ha, hs⟩ := takeScan_former h image mark
  have hf := takeScan_isSet h image mark (g := .keyStuck) (by decide)
  obtain ⟨hnext, hstrokes, hnotes⟩ := takeScan_noStroke h (fun _ => hheld) mark
  refine ⟨_, rfl, fun hlong => ?_, fun hshort => ?_, hnext, hstrokes, hnotes, takeScan_kept h image mark⟩
  · rw [if_pos (decide_eq_true hlong)] at hopen
    rw [hc, ha, hs, hf, hopen, setFlag_scanner]
    exact ⟨rfl, rfl, rfl, by simp [isSet_setFlag]⟩
  · rw [if_neg (by simpa using hshort)] at hopen
    rw [hc, ha, hs, hf, hopen]
    refine ⟨by simpa [matrixRead_scanner] using hchord, by simp [matrixRead_scanner],
      by simpa [matrixRead_scanner] using hstart, ?_⟩
    exact (matrixRead_isSet n image s .keyStuck).trans (by simp)

/-- Settles O16: DRAIN leaves only for IDLE, at a scan that leaves every key up, and touches nothing else. -/
theorem drainWaitsForClearKeyboard : Obligations.DrainWaitsForClearKeyboard := by
  intro s n image mark h hchord
  have hdrain := chordStep_drain (s := matrixRead image (scanStart n s)) (by rwa [matrixRead_scanner])
    (keysDown (cellsAfter s image)) (keysHeld (cellsAfter s image)) (timeAfter s n)
  rw [← keysScanned] at hdrain
  obtain ⟨hc, ha, hs⟩ := takeScan_former h image mark
  have hf := takeScan_isSet h image mark (g := .keyStuck) (by decide)
  obtain ⟨hnext, hstrokes, hnotes⟩ := takeScan_noStroke (image := image) h (by simp [hchord]) mark
  refine ⟨_, rfl, fun hh => ?_, fun hh => ?_, ?_, ?_, hnext, hstrokes, hnotes, ?_, takeScan_kept h image mark⟩
  · rw [hc, hdrain, if_pos hh]
  · rw [hc, hdrain, if_neg hh, matrixRead_scanner]; exact hchord
  · rw [ha, hdrain]; split <;> rw [matrixRead_scanner]
  · rw [hs, hdrain]; split <;> rw [matrixRead_scanner]
  · rw [hf, hdrain]; split <;> exact (matrixRead_isSet n image s .keyStuck).trans (by simp)

/-! ### The unconnected cell (R5) -/

/-- Two states alike in what strokes and notes are made of: they differ in the matrix, in the status unit, and in blocks
that capture does not read. -/
structure CaptureAlike (s t : State) : Prop where
  settings : t.settings = s.settings
  strokes : t.strokes = s.strokes
  notes : t.notes = s.notes
  scanner : ∃ image cells, t.scanner = { s.scanner with image := image, cells := cells }

theorem CaptureAlike.exists_eq {s t : State} (h : CaptureAlike s t) : ∃ image cells, ∃ u : State,
    t = { u with
      settings := s.settings, strokes := s.strokes, notes := s.notes
      scanner := { s.scanner with image := image, cells := cells } } := by
  obtain ⟨hset, hstr, hnotes, image, cells, hsc⟩ := h
  exact ⟨image, cells, t, by rw [← hset, ← hstr, ← hnotes, ← hsc]⟩

theorem CaptureAlike.setFlagIf {s t : State} (h : CaptureAlike s t) (c d : Bool) (f g : Flag) :
    CaptureAlike (setFlagIf c f s) (setFlagIf d g t) := by
  rw [setFlagIf_eq c, setFlagIf_eq d]; exact ⟨h.settings, h.strokes, h.notes, h.scanner⟩

theorem CaptureAlike.setFlag {s t : State} (h : CaptureAlike s t) (f g : Flag) :
    CaptureAlike (setFlag f s) (setFlag g t) := h.setFlagIf true true f g

/-- What a handed note does to the notes writer depends on the notes writer and the settings only (R18, R19). -/
theorem handNote_notes_congr {s t : State} (hs : t.settings = s.settings) (hn : t.notes = s.notes) (n : Note) :
    (handNote n t).notes = (handNote n s).notes := by
  unfold handNote joinNote armFlush flushPeriod
  rw [hn]
  repeat' split
  all_goals simp_all [arbitrate_notes, setFlag_notes, loseNote]

theorem CaptureAlike.handNote {s t : State} (h : CaptureAlike s t) (n : Note) :
    CaptureAlike (handNote n s) (handNote n t) := by
  refine ⟨?_, ?_, handNote_notes_congr h.settings h.notes n, ?_⟩
  · rw [handNote_eq n s, handNote_eq n t]; exact h.settings
  · rw [handNote_eq n s, handNote_eq n t]; exact h.strokes
  · rw [handNote_eq n s, handNote_eq n t]; exact h.scanner

theorem CaptureAlike.offerStroke {s t : State} (h : CaptureAlike s t) (r : StrokeRecord) :
    CaptureAlike (offerStroke r s) (offerStroke r t) := by
  obtain ⟨_, _, _, rfl⟩ := h.exists_eq
  unfold Machine.offerStroke; dsimp only; split
  · exact ⟨rfl, rfl, rfl, _, _, rfl⟩
  · refine CaptureAlike.setFlag ?_ _ _
    exact ⟨rfl, rfl, rfl, _, _, rfl⟩

/-- The chord former takes alike states, at the same time and with the same keys, to alike states. -/
theorem CaptureAlike.chordStep {s t : State} (h : CaptureAlike s t) (down held : KeySet) (time : Word) :
    CaptureAlike (chordStep down held time s) (chordStep down held time t) := by
  obtain ⟨_, _, _, rfl⟩ := h.exists_eq
  unfold Machine.chordStep chordStuck completeChord strokeDone; dsimp only
  repeat' split
  · exact ⟨rfl, rfl, rfl, _, _, rfl⟩
  · exact ⟨rfl, rfl, rfl, _, _, rfl⟩
  · refine CaptureAlike.offerStroke (CaptureAlike.handNote ?_ _) _
    exact ⟨rfl, rfl, rfl, _, _, rfl⟩
  · refine CaptureAlike.setFlag ?_ _ _
    exact ⟨rfl, rfl, rfl, _, _, rfl⟩
  · exact ⟨rfl, rfl, rfl, _, _, rfl⟩
  · exact ⟨rfl, rfl, rfl, _, _, rfl⟩
  · exact ⟨rfl, rfl, rfl, _, _, rfl⟩

theorem CaptureAlike.markEdge {s t : State} (h : CaptureAlike s t) (time : Word) :
    CaptureAlike (markEdge time s) (markEdge time t) := by
  obtain ⟨_, _, _, rfl⟩ := h.exists_eq
  unfold Machine.markEdge; dsimp only; split
  · refine CaptureAlike.handNote ?_ _
    exact ⟨rfl, rfl, rfl, _, _, rfl⟩
  · exact ⟨rfl, rfl, rfl, _, _, rfl⟩

theorem CaptureAlike.sampleMark {s t : State} (h : CaptureAlike s t) (high : Bool) (time : Word) :
    CaptureAlike (sampleMark high time s) (sampleMark high time t) := by
  obtain ⟨_, _, _, rfl⟩ := h.exists_eq
  unfold Machine.sampleMark; dsimp only; split
  · exact ⟨rfl, rfl, rfl, _, _, rfl⟩
  · split
    · refine CaptureAlike.markEdge ?_ _
      exact ⟨rfl, rfl, rfl, _, _, rfl⟩
    · exact ⟨rfl, rfl, rfl, _, _, rfl⟩

/-- Scans of images alike in cells 0..22, from states alike in capture and in those cells, leave the states alike. -/
theorem CaptureAlike.takeScan {s t : State} {n : Nat} (h : CaptureAlike s t) (hs : ScanDue s n) (ht : ScanDue t n)
    (hclock : t.seq.clock = s.seq.clock) {image image' : BitVec 24} (mark : Bool)
    (hi : ∀ p < 23, image'.getLsbD p = image.getLsbD p)
    (hc : ∀ p < 23, t.scanner.cells[p]? = s.scanner.cells[p]?) :
    CaptureAlike (takeScan image mark s) (takeScan image' mark t) := by
  have hset := h.settings
  have hcells : ∀ p < 23, (cellsAfter t image')[p]? = (cellsAfter s image)[p]? := fun p hp => by
    rw [cellsAfter_getElem?, cellsAfter_getElem?, hset, hi p hp, hc p hp]
  have hdown : keysDown (cellsAfter t image') = keysDown (cellsAfter s image) :=
    keysWhere_congr fun p hp => by rw [hcells p hp]
  have hheld : keysHeld (cellsAfter t image') = keysHeld (cellsAfter s image) :=
    keysWhere_congr fun p hp => by rw [hcells p hp]
  have htime : timeAfter t n = timeAfter s n := by unfold timeAfter; rw [hclock]
  have hread : CaptureAlike (matrixRead image (scanStart n s)) (matrixRead image' (scanStart n t)) := by
    obtain ⟨_, _, _, rfl⟩ := h.exists_eq
    refine CaptureAlike.setFlagIf ?_ _ _ _ _
    exact ⟨rfl, rfl, rfl, _, _, rfl⟩
  have hkeys : CaptureAlike (keysScanned n image s) (keysScanned n image' t) := by
    unfold keysScanned; rw [hdown, hheld, htime]; exact hread.chordStep _ _ _
  have hmark : (keysScanned n image' t).scanner.markActive = (keysScanned n image s).scanner.markActive := by
    obtain ⟨_, _, hsc⟩ := hkeys.scanner; rw [hsc]
  rw [takeScan_eq hs.1, takeScan_eq ht.1, if_pos hs.2, if_pos ht.2]; dsimp only
  rw [hmark, htime]; split
  · exact hkeys.sampleMark _ _
  · exact hkeys

/-- Cell 23 is reported down by a scan when it was up, reads pressed and its count is complete (R5). -/
theorem faultDown_cellsAfter {s : State} {c : CellState} (hc : s.scanner.cells[23]? = some c) (image : BitVec 24) :
    faultDown (cellsAfter s image) =
      (!c.pressed && image.getLsbD 23 && decide (s.settings.debounce ≤ c.count + 1)) := by
  unfold faultDown; rw [cellsAfter_getElem?, hc]; exact debounceCell_down _ _ _

/-- Settles O18: KEY_FAULT is the matrix part's own flag, and a scan takes states alike in cells 0..22 to alike
states. -/
theorem unconnectedCellOnlyFlags : Obligations.UnconnectedCellOnlyFlags := by
  intro s n image mark c h hc
  have hfault : (takeScan image mark s).status.isSet .keyFault =
      (s.status.isSet .keyFault ||
        (!c.pressed && image.getLsbD 23 && decide (s.settings.debounce ≤ c.count + 1))) := by
    rw [takeScan_isSet h image mark (by decide), keysScanned,
      chordStep_isSet _ _ _ _ (by decide) (by decide) (by decide), matrixRead_isSet, faultDown_cellsAfter hc]
    simp
  refine ⟨_, rfl, hfault, takeScan_cell h image mark hc, takeScan_kept h image mark, fun image' c' hi => ?_⟩
  have halike : CaptureAlike s { s with scanner := { s.scanner with cells := s.scanner.cells.set 23 c' } } :=
    ⟨rfl, rfl, rfl, _, _, rfl⟩
  obtain ⟨-, hstrokes, hnotes, _, _, hsc⟩ := halike.takeScan h h rfl mark hi fun p hp =>
    List.getElem?_set_ne (by omega)
  exact ⟨_, rfl, hstrokes, hnotes, by rw [hsc]⟩

end Sys2Proof.Machine
end

section
/-! PROOFS. What every command but the resets and SCAN leaves of capture, block by block, and with it the invariant of
the chord former (R6). -/

namespace Sys2Proof.Machine

/-- From s to t the chord former's state, its accumulator and the cells are kept, and no stroke joins the queue. -/
structure CaptureKept (s t : State) : Prop where
  chord : t.scanner.chord = s.scanner.chord
  accumulator : t.scanner.accumulator = s.scanner.accumulator
  cells : t.scanner.cells = s.scanner.cells
  strokes : t.strokes ⊆ s.strokes

theorem CaptureKept.of_eq {s t : State} (h : t.scanner = s.scanner) (k : t.strokes = s.strokes) : CaptureKept s t := by
  constructor <;> simp [h, k]

theorem CaptureKept.refl (s : State) : CaptureKept s s := .of_eq rfl rfl

theorem CaptureKept.trans {s t u : State} (h : CaptureKept s t) (k : CaptureKept t u) : CaptureKept s u :=
  ⟨k.chord.trans h.chord, k.accumulator.trans h.accumulator, k.cells.trans h.cells,
    fun _ hq => h.strokes (k.strokes hq)⟩

/-- Changes outside the scanner and the stroke queue come before an act that keeps capture. -/
theorem CaptureKept.after {s t u : State} (k : CaptureKept t u) (h : t.scanner = s.scanner)
    (hq : t.strokes = s.strokes) : CaptureKept s u :=
  (CaptureKept.of_eq h hq).trans k

theorem CoreKept.captureKept {s t : State} (h : CoreKept s t) : CaptureKept s t := .of_eq h.scanner h.strokes

theorem FloorAct.captureKept {s t : State} (h : FloorAct s t) : CaptureKept s t := h.core.captureKept

theorem ReleaseAct.captureKept {s t : State} (h : ReleaseAct s t) : CaptureKept s t := h.core.captureKept

theorem OverlayAct.captureKept {s t : State} (h : OverlayAct s t) : CaptureKept s t := h.core.captureKept

theorem CaptureKept.fold {α : Type} (l : List α) (f : State → α → State) (h : ∀ s a, CaptureKept s (f s a)) (s : State) :
    CaptureKept s (l.foldl f s) := by
  induction l generalizing s with
  | nil => exact .refl _
  | cons a l ih => exact (h s a).trans (ih _)

theorem elapse_captureKept (n : Nat) (s : State) : CaptureKept s (elapse n s) := ⟨rfl, rfl, rfl, List.Subset.refl _⟩

theorem onExpiry_captureKept {act : State → State} (h : ∀ s, CaptureKept s (act s)) (t : Option Nat) (s : State) :
    CaptureKept s (onExpiry t act s) := by
  cases t with
  | none => exact .refl s
  | some n => exact (elapse_captureKept n s).trans (h _)

/-! ### Start-up sequencer -/

theorem recoveryOver_captureKept (ready : Bool) (s : State) : CaptureKept s (recoveryOver ready s) := by
  cases ready with
  | true => exact .of_eq rfl rfl
  | false => exact (elapse_captureKept (s.port.timer.getD 0) s).trans (.of_eq rfl rfl)

theorem afterMain_captureKept (s : State) : CaptureKept s (afterMain s) := by
  unfold afterMain; split <;> exact .of_eq rfl rfl

theorem afterJob_captureKept (s : State) : CaptureKept s (afterJob s) := by
  unfold afterJob; split
  · exact .of_eq rfl rfl
  · exact afterMain_captureKept s

theorem readHeaders_captureKept (s : State) : CaptureKept s (readHeaders s) := by
  unfold readHeaders; split
  · exact .of_eq rfl rfl
  · exact afterJob_captureKept s

theorem accept_captureKept (blk : List Byte) (t : Settings) (s : State) : CaptureKept s (accept blk t s) :=
  ⟨rfl, rfl, rfl, List.Subset.refl _⟩

theorem configRead_captureKept (s : State) : CaptureKept s (configRead s) := by
  have hfault : ∀ s, CaptureKept s (enterFault s) := fun _ => .of_eq rfl rfl
  unfold configRead; dsimp only; split
  · have hflag := (setFlagIf_act (readSettings (configBlock s)).2 .configClamped s).captureKept
    split
    · exact hflag.trans ((accept_captureKept _ _ _).trans (readHeaders_captureKept _))
    · exact hflag.trans (hfault _)
  · exact hfault s

theorem headerRead_captureKept (s : State) : CaptureKept s (headerRead s) := by
  have hset : ∀ l, CaptureKept s { s with lookup := l } := fun _ => .of_eq rfl rfl
  unfold headerRead; split
  · split
    · exact (hset _).trans ((setFlagIf_act _ _ _).captureKept.trans (afterJob_captureKept _))
    · exact (hset _).trans ((setFlagIf_act _ _ _).captureKept.trans (afterMain_captureKept _))
    all_goals exact .refl s
  · exact .refl s

theorem overlayRead_captureKept (s : State) : CaptureKept s (overlayRead s) := by
  unfold overlayRead; dsimp only; split
  · exact .of_eq rfl rfl
  · exact (clearOverlay_act s).captureKept.trans (.of_eq rfl rfl)

theorem armFlush_captureKept (s : State) : CaptureKept s (armFlush s) := by
  unfold armFlush; split <;> exact .of_eq rfl rfl

theorem becomeFull_captureKept (s : State) : CaptureKept s (becomeFull s) :=
  (setFlag_act _ _).captureKept.after rfl rfl

theorem enterResume_captureKept (count : Nat) (s : State) : CaptureKept s (enterResume count s) := by
  unfold enterResume; split
  · exact (becomeFull_captureKept s).trans (.of_eq rfl rfl)
  · exact (armFlush_captureKept _).after rfl rfl

theorem resumeNotes_captureKept (s : State) : CaptureKept s (resumeNotes s) := by
  unfold resumeNotes; dsimp only
  refine .trans ?_ ((setFlagIf_act _ _ _).captureKept.trans ((setFlagIf_act _ _ _).captureKept.trans
    ((enterResume_captureKept _ _).trans (.fold _ _ (fun s n => (joinNote_act n s).captureKept) _))))
  exact ⟨rfl, rfl, rfl, List.Subset.refl _⟩

theorem deliverMark_captureKept (s : State) : CaptureKept s (deliverMark s) := by
  unfold deliverMark; split
  · exact .refl s
  · refine .trans ?_ (handNote_act _ _).captureKept
    exact ⟨rfl, rfl, rfl, List.Subset.refl _⟩

theorem enterListen_captureKept (s : State) : CaptureKept s (enterListen s) := ⟨rfl, rfl, rfl, List.Subset.refl _⟩

theorem resumeEnds_captureKept (s : State) : CaptureKept s (resumeEnds s) :=
  (resumeNotes_captureKept s).trans ((enterListen_captureKept _).trans
    ((deliverMark_captureKept _).trans (arbitrate_act _).captureKept))

/-! ### Notes writer and memory port -/

theorem flushExpired_captureKept (s : State) : CaptureKept s (flushExpired s) :=
  (arbitrate_act _).captureKept.after rfl rfl

theorem programExpired_captureKept (s : State) : CaptureKept s (programExpired s) := .of_eq rfl rfl

theorem startProgram_captureKept (s : State) : CaptureKept s (startProgram s) := .of_eq rfl rfl

theorem startBurst_captureKept (s : State) : CaptureKept s (startBurst s) := by
  exact ((armFlush_captureKept _).trans (startProgram_captureKept _)).after rfl rfl

theorem releaseFlash_captureKept (s : State) : CaptureKept s (releaseFlash s) :=
  (arbitrate_act _).captureKept.after rfl rfl

theorem haltPath_captureKept (s : State) : CaptureKept s (haltPath s) := (setFlag_act _ _).captureKept.after rfl rfl

theorem checkRegion_captureKept (before : Nat) (s : State) : CaptureKept s (checkRegion before s) := by
  unfold checkRegion; dsimp only; split
  · exact (setFlagIf_act _ _ _).captureKept.trans (becomeFull_captureKept _)
  · exact (setFlagIf_act _ _ _).captureKept

/-- The write position moves on, with the burst and the FIFO as given, and the region is checked (R27). -/
theorem checkRegion_advanceWrite_captureKept (before k : Nat) (s : State) (w : NotesWriter) :
    CaptureKept s (checkRegion before (advanceWrite k { s with notes := w })) := by
  exact (checkRegion_captureKept _ _).after rfl rfl

theorem burstSuccess_captureKept (b : Burst) (s : State) : CaptureKept s (burstSuccess b s) :=
  (checkRegion_advanceWrite_captureKept _ _ s _).trans (releaseFlash_captureKept _)

theorem overwriteDone_captureKept (b : Burst) (s : State) : CaptureKept s (overwriteDone b s) := by
  have hregion := checkRegion_advanceWrite_captureKept (freeSlots s) b.span.2 s { s.notes with burst := none }
  unfold overwriteDone setBurst; dsimp only; split
  · exact hregion.trans (releaseFlash_captureKept _)
  · exact hregion.trans (((armFlush_captureKept _).trans (startProgram_captureKept _)).after rfl rfl)

theorem operationDone_captureKept (s : State) : CaptureKept s (operationDone s) := by
  have hend : ∀ m, CaptureKept s (endProgram { s with port := { s.port with flashMem := m } }) :=
    fun _ => .of_eq rfl rfl
  unfold operationDone; split
  · exact releaseFlash_captureKept s
  · dsimp only; split
    · exact .of_eq rfl rfl
    · split
      · exact (hend _).trans (overwriteDone_captureKept _ _)
      · exact (hend _).trans (burstSuccess_captureKept _ _)

theorem leaveResidue_captureKept (s : State) : CaptureKept s (leaveResidue s) := by
  unfold leaveResidue; split <;> exact .of_eq rfl rfl

theorem operationFailed_captureKept (s : State) : CaptureKept s (operationFailed s) := by
  have hend : CaptureKept s (endProgram (leaveResidue s)) := (leaveResidue_captureKept s).trans (.of_eq rfl rfl)
  unfold operationFailed setBurst; dsimp only; split
  · exact hend.trans (releaseFlash_captureKept _)
  · split
    · exact hend.trans ((startProgram_captureKept _).after rfl rfl)
    · exact hend.trans ((checkRegion_advanceWrite_captureKept _ _ _ _).trans
        ((haltPath_captureKept _).trans (releaseFlash_captureKept _)))
    · exact hend.trans (((haltPath_captureKept _).trans (releaseFlash_captureKept _)).after rfl rfl)

theorem flashReadEnds_captureKept (s : State) : CaptureKept s (flashReadEnds s) := by
  have hfree : CaptureKept s { s with port := { s.port with flash := .free } } := .of_eq rfl rfl
  unfold flashReadEnds; dsimp only; repeat' split
  · exact hfree.trans ((searchStep_act _ _ _).captureKept.trans (arbitrate_act _).captureKept)
  · exact hfree.trans (arbitrate_act _).captureKept
  · exact hfree.trans (arbitrate_act _).captureKept

theorem readEnds_captureKept (s : State) : CaptureKept s (readEnds s) := by
  unfold readEnds; split
  · exact flashReadEnds_captureKept s
  · exact flashReadEnds_captureKept s
  · exact (setFlagIf_act _ _ _).captureKept.after rfl rfl
  all_goals exact .refl s

/-! ### Translator, lookup unit and release unit -/

theorem takeStroke_captureKept (s : State) : CaptureKept s (takeStroke s) := by
  unfold takeStroke; split
  · exact .refl s
  · rename_i q rest hq
    refine .trans ?_ ((strokeReported_act _).captureKept.trans (beginEvent_act _ _).captureKept)
    exact ⟨rfl, rfl, rfl, by rw [hq]; exact List.subset_cons_self _ _⟩

theorem applyInbox_captureKept (s : State) : CaptureKept s (applyInbox s) :=
  (applyInbox_act s).captureKept.after rfl rfl

theorem lookupCompletes_captureKept (s : State) : CaptureKept s (lookupCompletes s) := by
  unfold lookupCompletes; dsimp only; repeat' split
  · exact .refl s
  · exact .refl s
  · exact ((applyInbox_captureKept _).trans ((recomputeNext_act _ _ _).captureKept.trans
      (takeRequest_act _).captureKept)).after rfl rfl
  · exact (setSearch_act _ s).captureKept.trans ((continueEvent_act _ _).captureKept.trans
      ((applyInbox_captureKept _).trans (takeRequest_act _).captureKept))

theorem holdBackExpired_captureKept (s : State) : CaptureKept s (holdBackExpired s) :=
  (settle_act _).captureKept.after rfl rfl

/-! ### Bus controller -/

theorem startFrame_captureKept (s : State) : CaptureKept s (startFrame s) := by
  unfold startFrame; repeat' split
  all_goals exact .of_eq rfl rfl

theorem loseArbitration_captureKept (s : State) : CaptureKept s (loseArbitration s) := by
  unfold loseArbitration; split <;> exact .of_eq rfl rfl

theorem leaveQueue_captureKept (s : State) : CaptureKept s (leaveQueue s) := by
  unfold leaveQueue; dsimp only; split
  · exact (drainCheck_act _).captureKept.after rfl rfl
  · exact .of_eq rfl rfl

theorem finishFrame_captureKept (s : State) : CaptureKept s (finishFrame s) := by
  unfold finishFrame; split
  · exact .refl s
  · exact (leaveQueue_captureKept _).after rfl rfl

theorem abandonFrame_captureKept (startBit : Bool) (s : State) : CaptureKept s (abandonFrame startBit s) := by
  unfold abandonFrame; split
  · exact .refl s
  · exact ((setFlag_act _ _).captureKept.trans (leaveQueue_captureKept _)).after rfl rfl

theorem lineStuck_captureKept (ms : Nat) (s : State) : CaptureKept s (lineStuck ms s) := by
  unfold lineStuck; dsimp only; repeat' split
  · exact .of_eq rfl rfl
  · exact (setFlag_act .busStuck s).captureKept.trans (.of_eq rfl rfl)
  · exact .refl s

theorem lineIdle_captureKept (s : State) : CaptureKept s (lineIdle s) := by
  unfold lineIdle; split <;> exact .of_eq rfl rfl

/-- A frame read from the line keeps capture where the block that takes it does. -/
theorem receive_captureKept {take : Station → Msg → State → State} (h : ∀ a m s, CaptureKept s (take a m s))
    (f : LineFrame) (s : State) : CaptureKept s (receive f take s) := by
  have hend : CaptureKept s (frameEnded f s) := .of_eq rfl rfl
  unfold receive; dsimp only; repeat' split
  · exact hend
  · exact hend.trans (setFlag_act _ _).captureKept
  · exact hend.trans (h _ _ _)
  · exact .refl s

theorem takenByNone_captureKept (a : Station) (m : Msg) (s : State) : CaptureKept s (takenByNone a m s) := .refl s

theorem takeClaim_captureKept (a : Station) (m : Msg) (s : State) : CaptureKept s (takeClaim a m s) := by
  unfold takeClaim; split
  · exact ((raiseKnown_act _ s).trans (claimHeard_act _ _ _)).captureKept
  · exact .refl s

theorem takeReliefReq_captureKept (a : Station) (m : Msg) (s : State) : CaptureKept s (takeReliefReq a m s) := by
  unfold takeReliefReq; split
  · exact (reliefAsked_act a s).captureKept
  · exact .refl s

theorem takeReliefBusy_captureKept (a : Station) (m : Msg) (s : State) : CaptureKept s (takeReliefBusy a m s) := by
  unfold takeReliefBusy; split
  · exact (reliefRefused_act a _ s).captureKept
  · exact .refl s

theorem takePass_captureKept (a : Station) (m : Msg) (s : State) : CaptureKept s (takePass a m s) := by
  unfold takePass; repeat' split
  · exact (passTaken_act a _ _ s).captureKept
  all_goals exact .refl s

theorem takePassOther_captureKept (a : Station) (m : Msg) (s : State) : CaptureKept s (takePassOther a m s) := by
  unfold takePassOther; repeat' split
  · exact .refl s
  · exact ((raiseKnown_act _ s).trans (passOther_act _ _)).captureKept
  · exact .refl s

theorem takeFloorFree_captureKept (a : Station) (m : Msg) (s : State) : CaptureKept s (takeFloorFree a m s) := by
  unfold takeFloorFree; split
  · exact (raiseKnown_act _ s).captureKept.trans (floorFreed_act _ _).captureKept
  · exact .refl s

theorem takeRecord_captureKept (a : Station) (m : Msg) (s : State) : CaptureKept s (takeRecord a m s) := by
  unfold takeRecord; split
  · exact (setRecord_act _ a s).captureKept
  · exact .refl s

theorem takeClear_captureKept (a : Station) (m : Msg) (s : State) : CaptureKept s (takeClear a m s) := by
  unfold takeClear; split
  · exact (clearFlags_act _ s).captureKept
  · exact .refl s

theorem takeText_captureKept (a : Station) (m : Msg) (s : State) : CaptureKept s (takeText a m s) := by
  unfold takeText; split
  · exact ((raiseKnown_act _ s).trans (holdingHeard_act _ _)).captureKept
  · exact .refl s

theorem setPeer_captureKept (a : Station) (p : Peer) (s : State) : CaptureKept s (setPeer a p s) := .of_eq rfl rfl

theorem defineArrived_captureKept (a : Station) (payload : List Byte) (s : State) :
    CaptureKept s (defineArrived a payload s) := by
  unfold defineArrived; repeat' split
  · exact .refl s
  · exact (setPeer_captureKept a _ s).trans (setFlag_act _ _).captureKept
  · exact (setFlag_act _ s).captureKept
  · exact .of_eq rfl rfl
  · exact (setFlag_act _ s).captureKept
  · exact (applyPeer_act _ s).captureKept

theorem takeDefine_captureKept (a : Station) (m : Msg) (s : State) : CaptureKept s (takeDefine a m s) := by
  unfold takeDefine; split
  · exact defineArrived_captureKept a _ s
  · exact .refl s

theorem takePresence_captureKept (tr : Word) (a : Station) (m : Msg) (s : State) :
    CaptureKept s (takePresence tr a m s) := by
  unfold takePresence; split
  · have hheard := fun p k => (setPeer_captureKept a p s).trans (raiseKnown_act k _).captureKept
    dsimp only; split
    · exact (hheard _ _).trans (holdingHeard_act _ _).captureKept
    · exact hheard _ _
  · exact .refl s

/-! ### Timers of peers, floor and status -/

theorem absenceCheck_captureKept (s : State) : CaptureKept s (absenceCheck s) := by
  unfold absenceCheck
  refine .fold _ _ (fun s i => ?_) s
  dsimp only; split
  · exact (setPeer_captureKept _ _ s).trans (absenceReported_act _ _).captureKept
  · exact .refl s

theorem enterRun_captureKept (s : State) : CaptureKept s (enterRun s) := by
  unfold enterRun; dsimp only
  have hsent : CaptureKept s (handFrame ⟨.presence, none, false⟩
      (settle (setPhase .run { s with release := { s.release with active := true } }))) :=
    ((settle_act _).captureKept.trans (handFrame_act _ _).captureKept).after rfl rfl
  exact hsent.trans (((restartVacancy_act _).trans (vacancyFound_act _)).captureKept.after rfl rfl)

theorem presenceExpired_captureKept (s : State) : CaptureKept s (presenceExpired s) := by
  have hcheck : ∀ p, CaptureKept s (absenceCheck { s with peers := p }) :=
    fun _ => (absenceCheck_captureKept _).after rfl rfl
  have hcount : ∀ t q, CaptureKept t { t with seq := q } := fun _ _ => .of_eq rfl rfl
  unfold presenceExpired; dsimp only; split
  · exact (hcheck _).trans (handFrame_act _ _).captureKept
  · split
    · exact (hcheck _).trans ((hcount _ _).trans (enterRun_captureKept _))
    · exact (hcheck _).trans (hcount _ _)
  all_goals exact hcheck _

theorem nextPattern_captureKept (s : State) : CaptureKept s (nextPattern s) := by
  unfold nextPattern; split <;> exact .of_eq rfl rfl

/-- Where a condition holds or the state stays as it is. -/
theorem CaptureKept.ite {c : Prop} [Decidable c] {s t : State} (h : CaptureKept s t) :
    CaptureKept s (if c then t else s) := by
  split
  · exact h
  · exact .refl s

end Sys2Proof.Machine
end

section
/-! PROOFS. The invariant of the chord former: in IDLE every key is up, an open chord holds a key, and no stroke is
empty (R6). -/

namespace Sys2Proof.Machine

/-! ### Every command but the resets and SCAN -/

/-- A command that is neither a reset nor a SCAN completes and keeps capture. -/
theorem exec_captureKept (i : Instr) (s : State) (hr : isReset i = false) (hs : ∀ image mark, i ≠ .scan image mark) :
    ∃ t, exec i s = .next t ∧ CaptureKept s t := by
  cases i with
  | powerOnReset straps flash ram => cases hr
  | pinReset straps => cases hr
  | scan image mark => exact absurd rfl (hs image mark)
  | flashRecoveryEnd ready => exact ⟨_, rfl, .ite (recoveryOver_captureKept ready s)⟩
  | configReadDone => exact ⟨_, rfl, .ite (configRead_captureKept s)⟩
  | dictHeaderReadDone => exact ⟨_, rfl, headerRead_captureKept s⟩
  | overlayHeaderReadDone => exact ⟨_, rfl, .ite (overlayRead_captureKept s)⟩
  | resumeScanEnd => exact ⟨_, rfl, .ite (resumeEnds_captureKept s)⟩
  | flushTimerExpiry => exact ⟨_, rfl, onExpiry_captureKept flushExpired_captureKept _ s⟩
  | burstStart => exact ⟨_, rfl, .ite (startBurst_captureKept s)⟩
  | flashReadDone => exact ⟨_, rfl, .ite (readEnds_captureKept s)⟩
  | programPollResult error =>
    refine ⟨_, rfl, .ite ?_⟩
    cases error with
    | true => exact operationFailed_captureKept s
    | false => exact operationDone_captureKept s
  | programTimeout => exact ⟨_, rfl, .ite (onExpiry_captureKept programExpired_captureKept _ s)⟩
  | recoveryEnd ready =>
    refine ⟨_, rfl, .ite ?_⟩
    cases ready with
    | true => exact operationFailed_captureKept s
    | false => exact (elapse_captureKept _ s).trans (operationFailed_captureKept _)
  | strokeEvent => exact ⟨_, rfl, .ite (takeStroke_captureKept s)⟩
  | timerEvent => exact ⟨_, rfl, .ite (onExpiry_captureKept (fun s => (beginEvent_act _ s).captureKept) _ s)⟩
  | lookupCompletion => exact ⟨_, rfl, lookupCompletes_captureKept s⟩
  | holdBackTimerExpiry => exact ⟨_, rfl, onExpiry_captureKept holdBackExpired_captureKept _ s⟩
  | frameSendStart => exact ⟨_, rfl, startFrame_captureKept s⟩
  | arbitrationLost => exact ⟨_, rfl, loseArbitration_captureKept s⟩
  | transmitError startBit => exact ⟨_, rfl, abandonFrame_captureKept startBit s⟩
  | frameSent => exact ⟨_, rfl, finishFrame_captureKept s⟩
  | busStuck dominantMs => exact ⟨_, rfl, lineStuck_captureKept dominantMs s⟩
  | busIdle => exact ⟨_, rfl, lineIdle_captureKept s⟩
  | frameDiscarded f => exact ⟨_, rfl, receive_captureKept takenByNone_captureKept f s⟩
  | claimReceived f => exact ⟨_, rfl, receive_captureKept takeClaim_captureKept f s⟩
  | reliefReqReceived f => exact ⟨_, rfl, receive_captureKept takeReliefReq_captureKept f s⟩
  | reliefBusyReceived f => exact ⟨_, rfl, receive_captureKept takeReliefBusy_captureKept f s⟩
  | passReceived f => exact ⟨_, rfl, receive_captureKept takePass_captureKept f s⟩
  | passOtherReceived f => exact ⟨_, rfl, receive_captureKept takePassOther_captureKept f s⟩
  | floorFreeReceived f => exact ⟨_, rfl, receive_captureKept takeFloorFree_captureKept f s⟩
  | recordReceived f => exact ⟨_, rfl, receive_captureKept takeRecord_captureKept f s⟩
  | clearReceived f => exact ⟨_, rfl, receive_captureKept takeClear_captureKept f s⟩
  | textReceived f => exact ⟨_, rfl, receive_captureKept takeText_captureKept f s⟩
  | defineReceived f => exact ⟨_, rfl, receive_captureKept takeDefine_captureKept f s⟩
  | presenceReceived f => exact ⟨_, rfl, receive_captureKept (takePresence_captureKept _) f s⟩
  | retractReceived f => exact ⟨_, rfl, receive_captureKept takenByNone_captureKept f s⟩
  | replaceReceived f => exact ⟨_, rfl, receive_captureKept takenByNone_captureKept f s⟩
  | shadowReceived f => exact ⟨_, rfl, receive_captureKept takenByNone_captureKept f s⟩
  | presenceTimerExpiry => exact ⟨_, rfl, onExpiry_captureKept presenceExpired_captureKept _ s⟩
  | vacancyTimerExpiry =>
    exact ⟨_, rfl, .ite (onExpiry_captureKept (fun s => (vacancyExpired_act s).captureKept) _ s)⟩
  | claimWaitEnd => exact ⟨_, rfl, .ite (onExpiry_captureKept (fun s => (claimWaitEnded_act s).captureKept) _ s)⟩
  | claimHoldOffEnd => exact ⟨_, rfl, .ite (onExpiry_captureKept (fun s => (holdOffEnded_act s).captureKept) _ s)⟩
  | claimWindowExpiry => exact ⟨_, rfl, .ite (onExpiry_captureKept (fun s => (claimWon_act s).captureKept) _ s)⟩
  | reliefTimerExpiry => exact ⟨_, rfl, .ite (onExpiry_captureKept (fun s => (reliefExpired_act s).captureKept) _ s)⟩
  | yieldTimerExpiry => exact ⟨_, rfl, .ite (onExpiry_captureKept (fun s => (makeCut_act s).captureKept) _ s)⟩
  | patternEnd => exact ⟨_, rfl, onExpiry_captureKept nextPattern_captureKept _ s⟩

/-! ### The invariant -/

theorem ChordGood.kept {s t : State} (h : ChordGood s) (k : CaptureKept s t) : ChordGood t := by
  obtain ⟨hacc, hidle, hkeys⟩ := h
  refine ⟨?_, ?_, fun q hq => hkeys q (k.strokes hq)⟩
  · rw [k.chord, k.accumulator]; exact hacc
  · unfold keyUp; rw [k.chord, k.cells]; exact hidle

/-- A part that has just started has every key up, no chord and no stroke (R3). -/
theorem started_chordGood (kind : ResetKind) (straps : Straps) (flash ram : Memory) (queue : List Instr) (free : Nat) :
    ChordGood (State.started kind straps flash ram queue free) := by
  refine ⟨nofun, fun _ p hp => ?_, nofun⟩
  have hcell : (List.replicate 24 (⟨false, 0⟩ : CellState))[p]? = some ⟨false, 0⟩ :=
    List.getElem?_replicate_of_lt (by omega)
  unfold keyUp State.started Scanner.initial; rw [hcell]; rfl

/-- The strokes of the queue after an offer are the offered one and those before it, with the same keys (R12, R13). -/
theorem offerStroke_keys {r : StrokeRecord} {s : State} (hr : r.keys ≠ 0) (hs : ∀ q ∈ s.strokes, q.stroke.keys ≠ 0) :
    ∀ q ∈ (offerStroke r s).strokes, q.stroke.keys ≠ 0 := by
  intro q hq
  unfold offerStroke at hq; split at hq
  · rcases List.mem_append.mp hq with hq | hq
    · exact hs q hq
    · rw [List.mem_singleton.mp hq]; exact hr
  · rw [setFlag_strokes] at hq
    obtain ⟨i, hi⟩ := List.mem_iff_getElem?.mp hq
    rw [List.getElem?_modify] at hi
    obtain ⟨x, hx, rfl⟩ := Option.map_eq_some_iff.mp hi
    have hkeys := hs x (List.mem_of_getElem? hx)
    split <;> exact hkeys

theorem completeChord_chordGood {s : State} {keys : KeySet} (hk : keys ≠ 0) (hs : ∀ q ∈ s.strokes, q.stroke.keys ≠ 0)
    (hup : ∀ p < 23, keyUp s p) (t : Word) : ChordGood (completeChord keys t s) := by
  refine ⟨?_, ?_, ?_⟩
  · rw [completeChord_scanner]; nofun
  · unfold keyUp; rw [completeChord_scanner]; exact fun _ => hup
  · refine offerStroke_keys hk ?_
    rw [handNote_eq]; exact hs

/-- The chord former keeps the invariant where in IDLE a key is held only after a key-down, and where every key is up
when none is held. -/
theorem chordStep_chordGood {s : State} {down held : KeySet}
    (hacc : s.scanner.chord = .chord → s.scanner.accumulator ≠ 0) (hs : ∀ q ∈ s.strokes, q.stroke.keys ≠ 0)
    (hidle : s.scanner.chord = .idle → down = 0 → held = 0) (hup : held = 0 → ∀ p < 23, keyUp s p) (t : Word) :
    ChordGood (chordStep down held t s) := by
  cases hc : s.scanner.chord with
  | idle =>
    rw [chordStep_idle hc]; split
    · rename_i hd; exact ⟨hacc, fun _ => hup (hidle hc hd), hs⟩
    · rename_i hd; exact ⟨fun _ => hd, nofun, hs⟩
  | chord =>
    have hkeys : s.scanner.accumulator ||| down ≠ 0 := fun h => hacc hc (BitVec.or_eq_zero_iff.mp h).1
    by_cases hh : held = 0
    · subst hh; rw [chordStep_complete hc]; exact completeChord_chordGood hkeys hs (hup rfl) t
    · rw [chordStep_open hc _ hh]; split
      · rw [setFlag_eq]; exact ⟨nofun, nofun, hs⟩
      · exact ⟨fun _ => hkeys, fun h => absurd (hc.symm.trans h) (by decide), hs⟩
  | drain =>
    rw [chordStep_drain hc]; split
    · rename_i hh; exact ⟨nofun, fun _ => hup hh, hs⟩
    · exact ⟨hacc, fun h => absurd (hc.symm.trans h) (by decide), hs⟩

/-- Where a scan finds no key held, every key is up after it. -/
theorem keyUp_of_keysHeld {s t : State} {image : BitVec 24} (ht : t.scanner.cells = (cellsAfter s image).map Prod.fst)
    (hh : keysHeld (cellsAfter s image) = 0) : ∀ p < 23, keyUp t p := by
  intro p hp
  have hp' := (keysWhere_eq_zero _).mp hh p hp
  unfold keyUp; rw [ht, List.getElem?_map, Option.map_map]; exact hp'

theorem keysScanned_chordGood {s : State} (h : ChordGood s) (n : Nat) (image : BitVec 24) :
    ChordGood (keysScanned n image s) := by
  obtain ⟨hacc, hidle, hs⟩ := h
  have hm := matrixRead_scanner n image s
  refine chordStep_chordGood ?_ ?_ ?_ (keyUp_of_keysHeld (by rw [hm])) _
  · rw [hm]; exact hacc
  · rw [(matrixRead_noStroke n image s).strokes]; exact hs
  · rw [hm]; exact fun hc => keysHeld_of_keysDown (hidle hc)

theorem MarkSampled.captureKept {s t : State} (h : MarkSampled s t) : CaptureKept s t := by
  obtain ⟨_, _, _, hs⟩ := h.scanner
  exact ⟨by rw [hs], by rw [hs], by rw [hs], by rw [h.strokes]; exact List.Subset.refl _⟩

theorem takeScan_chordGood {s : State} (h : ChordGood s) (image : BitVec 24) (mark : Bool) :
    ChordGood (takeScan image mark s) := by
  cases hp : s.scanner.period with
  | none => unfold takeScan; rw [hp]; exact h
  | some n =>
    refine ChordGood.kept ?_ (takeScan_sampled hp image mark).captureKept
    split
    · exact keysScanned_chordGood h n image
    · exact h.kept ⟨rfl, rfl, rfl, List.Subset.refl _⟩

/-- Every command completes and keeps the chord former's invariant. -/
theorem exec_chordGood (i : Instr) {s : State} (h : ChordGood s) : ∃ t, exec i s = .next t ∧ ChordGood t := by
  by_cases hr : isReset i = true
  · cases i with
    | powerOnReset straps flash ram => exact ⟨_, rfl, started_chordGood _ _ _ _ _ _⟩
    | pinReset straps => exact ⟨_, rfl, started_chordGood _ _ _ _ _ _⟩
    | _ => cases hr
  · by_cases hs : ∃ image mark, i = .scan image mark
    · obtain ⟨image, mark, rfl⟩ := hs
      exact ⟨_, rfl, takeScan_chordGood h image mark⟩
    · obtain ⟨t, ht, k⟩ := exec_captureKept i s (by simpa using hr) fun image mark e => hs ⟨image, mark, e⟩
      exact ⟨t, ht, h.kept k⟩

theorem step_chordGood {s t : State} (h : ChordGood s) (hstep : step s = .next t) : ChordGood t := by
  unfold step at hstep; split at hstep
  · cases hstep; exact h.kept (elapse_captureKept 1 s)
  · rename_i c rest _
    have hrest : ChordGood { s with pending := rest } := h.kept (.of_eq rfl rfl)
    obtain ⟨u, hu, hgood⟩ := exec_chordGood c hrest
    rw [hu] at hstep; cases hstep; exact hgood

/-- Settles O14: in IDLE the chord former opens a chord on the keys reported down, and every step keeps its invariant. -/
theorem chordOpensOnKeyDown : Obligations.ChordOpensOnKeyDown := by
  refine ⟨fun s n image mark h hchord => ?_, fun s t => step_chordGood⟩
  have hidle := chordStep_idle (s := matrixRead image (scanStart n s)) (by rwa [matrixRead_scanner])
    (keysDown (cellsAfter s image)) (keysHeld (cellsAfter s image)) (timeAfter s n)
  rw [← keysScanned] at hidle
  obtain ⟨hc, ha, hs⟩ := takeScan_former h image mark
  obtain ⟨hnext, hstrokes, hnotes⟩ := takeScan_noStroke (image := image) h (by simp [hchord]) mark
  refine ⟨_, keysDown (cellsAfter s image), rfl, fun p hp => keysDown_getLsbD_iff s image hp, fun hd => ?_, fun hd => ?_,
    hnext, hstrokes, hnotes, takeScan_kept h image mark⟩
  · rw [if_neg hd] at hidle
    rw [hc, ha, hs, hidle]; exact ⟨rfl, rfl, rfl⟩
  · rw [if_pos hd] at hidle
    rw [hc, ha, hs, hidle, matrixRead_scanner]; exact ⟨hchord, rfl, rfl⟩

end Sys2Proof.Machine
end

section
/-! PROOFS. The notes path apart from the notes themselves: what its state is, and that no block but the notes writer
and the start-up sequencer changes it (R18 to R25). -/

namespace Sys2Proof.Machine

/-- The state of the notes path: the notes writer without the notes that wait, the flush timer, the lost count and the
resume scan. -/
def NotesWriter.path (n : NotesWriter) : NotesWriter :=
  { n with fifo := [], heldNotes := [], flushTimer := none, lostCount := 0, resumeScan := none }

/-! ### Time, flags, arbiter, notes and frames -/

@[simp] theorem elapse_path (n : Nat) (s : State) : (elapse n s).notes.path = s.notes.path := rfl

@[simp] theorem requestPattern_path (p : Pattern) (s : State) : (requestPattern p s).notes.path = s.notes.path := by
  rw [requestPattern_notes]

@[simp] theorem setFlag_path (f : Flag) (s : State) : (setFlag f s).notes.path = s.notes.path := by rw [setFlag_notes]

@[simp] theorem setFlagIf_path (c : Bool) (f : Flag) (s : State) : (setFlagIf c f s).notes.path = s.notes.path := by
  rw [setFlagIf_eq]

@[simp] theorem arbitrate_path (s : State) : (arbitrate s).notes.path = s.notes.path := by rw [arbitrate_notes]

@[simp] theorem armFlush_path (s : State) : (armFlush s).notes.path = s.notes.path := by
  unfold armFlush; split <;> rfl

@[simp] theorem joinNote_path (n : Note) (s : State) : (joinNote n s).notes.path = s.notes.path := by
  unfold joinNote; repeat' split
  · rfl
  · rw [setFlag_path]; rfl
  · rw [armFlush_path]; rfl

/-- A handed note waits or is lost; the path stays in its state (R18, R19). -/
@[simp] theorem handNote_path (n : Note) (s : State) : (handNote n s).notes.path = s.notes.path := by
  unfold handNote; repeat' split
  · rw [arbitrate_path, joinNote_path]
  · rfl
  · rw [setFlag_path]; rfl

@[simp] theorem handFrame_path (f : TxFrame) (s : State) : (handFrame f s).notes.path = s.notes.path := by
  rw [handFrame_notes]

@[simp] theorem broadcast_path (m : Msg) (s : State) : (broadcast m s).notes.path = s.notes.path := handFrame_path _ s

@[simp] theorem sendTo_path (a : Station) (m : Msg) (s : State) : (sendTo a m s).notes.path = s.notes.path :=
  handFrame_path _ s

/-! ### Floor controller -/

@[simp] theorem enterOn_path (s : State) : (enterOn s).notes.path = s.notes.path := by
  simp [enterOn, floorNote]

@[simp] theorem enterOff_path (s : State) : (enterOff s).notes.path = s.notes.path := by
  simp [enterOff, floorNote]

@[simp] theorem enterYielding_path (p : Station) (s : State) : (enterYielding p s).notes.path = s.notes.path := by
  simp [enterYielding]

@[simp] theorem vacancyFound_path (s : State) : (vacancyFound s).notes.path = s.notes.path := by
  unfold vacancyFound; split <;> rfl

@[simp] theorem restartVacancy_path (s : State) : (restartVacancy s).notes.path = s.notes.path := by
  unfold restartVacancy; split <;> rfl

@[simp] theorem holderShown_path (a : Station) (s : State) : (holderShown a s).notes.path = s.notes.path := by
  simp [holderShown]

@[simp] theorem strokeReported_path (s : State) : (strokeReported s).notes.path = s.notes.path := by
  simp [strokeReported]

@[simp] theorem claimNow_path (s : State) : (claimNow s).notes.path = s.notes.path := by simp [claimNow]

@[simp] theorem heldReply_path (s : State) : (heldReply s).notes.path = s.notes.path := broadcast_path _ s

@[simp] theorem leaveFloor_path (s : State) : (leaveFloor s).notes.path = s.notes.path := by
  unfold leaveFloor; split <;> simp

@[simp] theorem drainCheck_path (s : State) : (drainCheck s).notes.path = s.notes.path := by
  unfold drainCheck; split
  · exact leaveFloor_path s
  · rfl

@[simp] theorem startDrain_path (s : State) : (startDrain s).notes.path = s.notes.path := by simp [startDrain]

@[simp] theorem makeCut_path (s : State) : (makeCut s).notes.path = s.notes.path := by
  unfold makeCut; split
  · exact startDrain_path s
  · rfl

@[simp] theorem speakerCreated_path (s : State) : (speakerCreated s).notes.path = s.notes.path := by
  unfold speakerCreated; split
  · exact makeCut_path s
  · rfl

@[simp] theorem freeCommand_path (s : State) : (freeCommand s).notes.path = s.notes.path := by
  unfold freeCommand; split <;> simp

@[simp] theorem yieldCommand_path (s : State) : (yieldCommand s).notes.path = s.notes.path := by
  unfold yieldCommand; split
  · exact makeCut_path s
  · rfl

@[simp] theorem reliefCommand_path (s : State) : (reliefCommand s).notes.path = s.notes.path := by
  unfold reliefCommand; repeat' split
  all_goals simp

/-! ### Release unit and history -/

@[simp] theorem restream_path (was : Stream) (now : TextUnit → Stream) (s : State) :
    (restream was now s).notes.path = s.notes.path := rfl

@[simp] theorem releaseUnit_path (i : Nat) (u : TextUnit) (s : State) :
    (releaseUnit i u s).notes.path = s.notes.path := by
  unfold releaseUnit; dsimp only; split <;> simp

@[simp] theorem releaseDue_path (n : Nat) (s : State) : (releaseDue n s).notes.path = s.notes.path := by
  induction n generalizing s with
  | zero => rfl
  | succ n ih =>
    unfold releaseDue; split
    · rfl
    · split
      · rw [ih, releaseUnit_path]
      · rfl

@[simp] theorem settle_path (s : State) : (settle s).notes.path = s.notes.path := releaseDue_path _ s

@[simp] theorem forceOldest_path (u : TextUnit) (s : State) : (forceOldest u s).notes.path = s.notes.path := by
  unfold forceOldest; split <;> simp

@[simp] theorem makeRoom_path (s : State) : (makeRoom s).notes.path = s.notes.path := by
  unfold makeRoom dropOldest; repeat' split
  all_goals simp

@[simp] theorem reportUnit_path (u : TextUnit) (s : State) : (reportUnit u s).notes.path = s.notes.path := by
  unfold reportUnit; dsimp only; repeat' split
  all_goals simp

@[simp] theorem createUnit_path (a : Assembled) (strokes : List Word) (start : Word) (gap : Option Nat) (s : State) :
    (createUnit a strokes start gap s).notes.path = s.notes.path := by
  have happend : ∀ u f t, (appendUnit u f t).notes = t.notes := fun _ _ _ => rfl
  unfold createUnit; dsimp only; split <;> simp [happend]

@[simp] theorem retract_path (u : TextUnit) (s : State) : (retract u s).notes.path = s.notes.path := by
  unfold retract; split
  · exact broadcast_path _ s
  · rfl

@[simp] theorem heldRemoved_path (s : State) : (heldRemoved s).notes.path = s.notes.path := by
  unfold heldRemoved stopHold; split <;> simp

@[simp] theorem undoHistory_path (s : State) : (undoHistory s).notes.path = s.notes.path := by
  unfold undoHistory dropNewest; repeat' split
  all_goals simp

@[simp] theorem setRecord_path (on : Bool) (a : Station) (s : State) :
    (setRecord on a s).notes.path = s.notes.path := by
  unfold setRecord; dsimp only; split <;> simp

@[simp] theorem urgent_path {hand : State → State} (h : ∀ t, (hand t).notes.path = t.notes.path) (s : State) :
    (urgent hand s).notes.path = s.notes.path := by
  unfold urgent; rw [drainCheck_path, h]

@[simp] theorem recordCommand_path (on : Bool) (s : State) : (recordCommand on s).notes.path = s.notes.path := by
  simp [recordCommand]

/-! ### Overlay manager -/

/-- A fold of acts that keep the path keeps it. -/
theorem foldl_path {α : Type} {f : State → α → State} (h : ∀ t a, (f t a).notes.path = t.notes.path)
    (l : List α) (s : State) : (l.foldl f s).notes.path = s.notes.path := by
  induction l generalizing s with
  | nil => rfl
  | cons a l ih => rw [List.foldl_cons, ih, h]

/-- The overlay manager's writes, with the counts carried along, touch no note. -/
theorem foldlCounts_notes {α : Type} {f : OverlayCounts × State → α → OverlayCounts × State}
    (h : ∀ x a, (f x a).2.notes = x.2.notes) (l : List α) (x : OverlayCounts × State) :
    (l.foldl f x).2.notes = x.2.notes := by
  induction l generalizing x with
  | nil => rfl
  | cons a l ih => rw [List.foldl_cons, ih, h]

theorem createPrefix_notes (x : OverlayCounts × State) (p : List KeySet × Found) :
    (createPrefix p x).2.notes = x.2.notes := by
  unfold createPrefix; split <;> rfl

theorem placeStored_notes (p : List KeySet × Found) (text : List Byte) (x : OverlayCounts × State) :
    (placeStored p text x).2.notes = x.2.notes := by
  unfold placeStored; split <;> rfl

theorem raisePrefixes_notes (offsets : List Nat) (s : State) :
    (offsets.foldl (fun s v => raisePrefix v s) s).notes = s.notes := by
  induction offsets generalizing s with
  | nil => rfl
  | cons v offsets ih => rw [List.foldl_cons, ih]; rfl

theorem writeStore_notes (plan : List (List KeySet × Found)) (text : List Byte) (s : State) :
    (writeStore plan text s).notes = s.notes := by
  have hheader : ∀ c good t, (writeHeader c good t).notes = t.notes := fun _ _ _ => rfl
  have hcreate := foldlCounts_notes createPrefix_notes plan.dropLast
  unfold writeStore; dsimp only; split
  · rfl
  · rw [hheader]; split
    · rw [placeStored_notes, hcreate, hheader]
    · rw [raisePrefixes_notes, placeStored_notes, hcreate, hheader]

theorem lowerPrefix_notes (x : OverlayCounts × State) (p : Found) : (lowerPrefix p x).2.notes = x.2.notes := by
  unfold lowerPrefix; split
  · dsimp only; split <;> rfl
  · rfl

theorem writeDelete_notes (outline : List KeySet) (slot v : Nat) (s : State) :
    (writeDelete outline slot v s).notes = s.notes := by
  have hheader : ∀ c good t, (writeHeader c good t).notes = t.notes := fun _ _ _ => rfl
  unfold writeDelete; dsimp only
  rw [hheader, foldlCounts_notes lowerPrefix_notes]
  split <;> rfl

@[simp] theorem retranslate_path (outline : List KeySet) (text : List Byte) (s : State) :
    (retranslate outline text s).notes.path = s.notes.path := by
  have hreplace : ∀ u text t, (replaceFrame u text t).notes.path = t.notes.path := fun u text t => by
    unfold replaceFrame; split
    · exact broadcast_path _ t
    · rfl
  unfold retranslate; dsimp only; repeat' split
  all_goals simp [foldl_path (fun t v => retract_path v t), hreplace]

theorem storeDefinition_path {outline : List KeySet} {text : List Byte} {source : Station} {s t : State}
    (h : storeDefinition outline text source s = some t) : t.notes.path = s.notes.path := by
  unfold storeDefinition at h; dsimp only at h; split at h
  · cases h
  · cases h; simp [writeStore_notes]

@[simp] theorem deleteDefinition_path (outline : List KeySet) (source : Station) (s : State) :
    (deleteDefinition outline source s).notes.path = s.notes.path := by
  unfold deleteDefinition; repeat' split
  · rfl
  · simp [writeDelete_notes]
  · rfl

@[simp] theorem applyPeer_path (d : PeerDefinition) (s : State) : (applyPeer d s).notes.path = s.notes.path := by
  unfold applyPeer; repeat' split
  · exact deleteDefinition_path _ _ s
  · rename_i h; exact storeDefinition_path h
  · exact setFlag_path _ s

@[simp] theorem applyInbox_path (s : State) : (applyInbox s).notes.path = s.notes.path :=
  foldl_path (fun t d => applyPeer_path d t) _ _

/-! ### Translator -/

@[simp] theorem refuseCapture_path (s : State) : (refuseCapture s).notes.path = s.notes.path := by
  simp [refuseCapture]

@[simp] theorem outlineStroke_path (t : Taken) (r : LookupResult) (s : State) :
    (outlineStroke t r s).notes.path = s.notes.path := by
  unfold outlineStroke; dsimp only; repeat' split
  all_goals simp

@[simp] theorem storeOwn_path (outline : List KeySet) (text : List Byte) (s : State) :
    (storeOwn outline text s).notes.path = s.notes.path := by
  unfold storeOwn sendDefine; repeat' split
  · exact setFlag_path _ s
  · simp
  · rename_i h; rw [broadcast_path]; exact storeDefinition_path h
  · exact setFlag_path _ s

@[simp] theorem closeCapture_path (s : State) : (closeCapture s).notes.path = s.notes.path := by simp [closeCapture]

@[simp] theorem undoStroke_path (s : State) : (undoStroke s).notes.path = s.notes.path := by
  unfold undoStroke undoCapture; dsimp only; repeat' split
  all_goals simp

@[simp] theorem runCommand_path (s : State) (c : Code) : (runCommand s c).notes.path = s.notes.path := by
  unfold runCommand openCapture; repeat' split
  all_goals simp [ackCommand]

@[simp] theorem assembleAndHand_path (text : List Byte) (strokes : List Word) (start : Word) (s : State) :
    (assembleAndHand text strokes start s).notes.path = s.notes.path := by
  unfold assembleAndHand; dsimp only; split <;> simp [foldl_path runCommand_path]

@[simp] theorem deliver_path (r : Resolution) (strokes : List Taken) (s : State) :
    (deliver r strokes s).notes.path = s.notes.path := by
  unfold deliver deliverPiece deliverUnit; dsimp only; repeat' split
  all_goals simp

@[simp] theorem resolveFront_path (s : State) : (resolveFront s).1.notes.path = s.notes.path := by
  unfold resolveFront; dsimp only; split <;> simp

@[simp] theorem overrunMarker_path (stroke : Word) (count : Nat) (start : Word) (s : State) :
    (overrunMarker stroke count start s).notes.path = s.notes.path := by
  unfold overrunMarker; dsimp only; split <;> simp

/-- The work of an event leaves the notes path in its state, item by item. -/
@[simp] theorem runWork_path (w : List Work) (s : State) : (runWork w s).notes.path = s.notes.path := by
  induction w generalizing s with
  | nil => rfl
  | cons x w ih =>
    cases x with
    | staleTest =>
      unfold runWork; dsimp only; repeat' split
      all_goals simp [ih]
    | recompute i => unfold runWork; split <;> simp [ih]
    | stroke t => unfold runWork; split <;> simp [ih]
    | reprocess ts =>
      cases ts with
      | nil => unfold runWork; exact ih s
      | cons t ts => rfl
    | markerMet => unfold runWork; rw [ih]; rfl
    | force =>
      unfold runWork; dsimp only; repeat' split
      all_goals simp [ih]
    | marker stroke count start => unfold runWork; rw [ih, overrunMarker_path]

@[simp] theorem strokeResult_path (t : Taken) (r : LookupResult) (w : List Work) (s : State) :
    (strokeResult t r w s).notes.path = s.notes.path := by
  unfold strokeResult; dsimp only; repeat' split
  all_goals simp

@[simp] theorem recomputeNext_path (i : Nat) (w : List Work) (s : State) :
    (recomputeNext i w s).notes.path = s.notes.path := by
  unfold recomputeNext; split <;> simp

@[simp] theorem continueEvent_path (r : LookupResult) (s : State) :
    (continueEvent r s).notes.path = s.notes.path := by
  unfold continueEvent; split <;> simp

/-! ### Lookup unit -/

@[simp] theorem searchStep_path (s : State) (q : Search) (p : ProbeStep) :
    (searchStep s q p).notes.path = s.notes.path := by
  unfold searchStep; split <;> simp

@[simp] theorem beginSearch_path (outline : List KeySet) (s : State) :
    (beginSearch outline s).notes.path = s.notes.path := by
  unfold beginSearch; dsimp only; split <;> simp

@[simp] theorem takeRequest_path (s : State) : (takeRequest s).notes.path = s.notes.path := by
  unfold takeRequest; repeat' split
  all_goals simp

@[simp] theorem beginEvent_path (w : List Work) (s : State) : (beginEvent w s).notes.path = s.notes.path := by
  simp [beginEvent]

end Sys2Proof.Machine
end

section
/-! PROOFS. The halted notes path: every command but the notes writer's own and the resets leaves the path in its state,
and no command but a reset ends a halt (R25). -/

namespace Sys2Proof.Machine

/-! ### Floor acts on frames and timers -/

@[simp] theorem pendingLost_path (s : State) : (pendingLost s).notes.path = s.notes.path := by simp [pendingLost]

@[simp] theorem requestEnded_path (f : Flag) (s : State) : (requestEnded f s).notes.path = s.notes.path := by
  simp [requestEnded]

@[simp] theorem conflict_path (a : Station) (s : State) : (conflict a s).notes.path = s.notes.path := by
  unfold conflict; dsimp only; repeat' split
  all_goals simp

@[simp] theorem holdingHeard_path (a : Station) (s : State) : (holdingHeard a s).notes.path = s.notes.path := by
  unfold holdingHeard; repeat' split
  all_goals simp

theorem claimHeard_path (a : Station) (held : Bool) (s : State) : (claimHeard a held s).notes.path = s.notes.path := by
  unfold claimHeard; dsimp only; repeat' split
  all_goals simp

theorem reliefAsked_path (a : Station) (s : State) : (reliefAsked a s).notes.path = s.notes.path := by
  unfold reliefAsked; repeat' split
  all_goals simp

theorem reliefRefused_path (a : Station) (notHolder : Bool) (s : State) :
    (reliefRefused a notHolder s).notes.path = s.notes.path := by
  unfold reliefRefused; dsimp only; repeat' split
  all_goals simp

@[simp] theorem passGained_path (a : Station) (known cut : Word) (s : State) :
    (passGained a known cut s).notes.path = s.notes.path := by
  simp [passGained]

theorem passTaken_path (a : Station) (known cut : Word) (s : State) :
    (passTaken a known cut s).notes.path = s.notes.path := by
  unfold passTaken; repeat' split
  all_goals simp

theorem passOther_path (t : Station) (s : State) : (passOther t s).notes.path = s.notes.path := by
  unfold passOther; dsimp only; repeat' split
  all_goals simp

@[simp] theorem dropHolder_path (a : Station) (s : State) : (dropHolder a s).notes.path = s.notes.path := by
  unfold dropHolder; split <;> rfl

@[simp] theorem claimFromRequest_path (s : State) : (claimFromRequest s).notes.path = s.notes.path := by
  simp [claimFromRequest]

theorem floorFreed_path (a : Station) (s : State) : (floorFreed a s).notes.path = s.notes.path := by
  unfold floorFreed; repeat' split
  all_goals simp

@[simp] theorem absenceReported_path (a : Station) (s : State) : (absenceReported a s).notes.path = s.notes.path := by
  unfold absenceReported; repeat' split
  all_goals simp

/-! ### Frames read from the line -/

/-- A frame read from the line leaves the path in its state where the block that takes it does. -/
theorem receive_path {take : Station → Msg → State → State} (h : ∀ a m t, (take a m t).notes.path = t.notes.path)
    (f : LineFrame) (s : State) : (receive f take s).notes.path = s.notes.path := by
  unfold receive; dsimp only; repeat' split
  · rfl
  · exact setFlag_path _ _
  · exact h _ _ _
  · rfl

theorem takeClaim_path (a : Station) (m : Msg) (s : State) : (takeClaim a m s).notes.path = s.notes.path := by
  unfold takeClaim; split
  · exact claimHeard_path _ _ _
  · rfl

theorem takeReliefReq_path (a : Station) (m : Msg) (s : State) : (takeReliefReq a m s).notes.path = s.notes.path := by
  unfold takeReliefReq; split
  · exact reliefAsked_path a s
  · rfl

theorem takeReliefBusy_path (a : Station) (m : Msg) (s : State) :
    (takeReliefBusy a m s).notes.path = s.notes.path := by
  unfold takeReliefBusy; split
  · exact reliefRefused_path a _ s
  · rfl

theorem takePass_path (a : Station) (m : Msg) (s : State) : (takePass a m s).notes.path = s.notes.path := by
  unfold takePass; repeat' split
  · exact passTaken_path _ _ _ s
  all_goals rfl

theorem takePassOther_path (a : Station) (m : Msg) (s : State) : (takePassOther a m s).notes.path = s.notes.path := by
  unfold takePassOther; repeat' split
  · rfl
  · exact passOther_path _ _
  · rfl

theorem takeFloorFree_path (a : Station) (m : Msg) (s : State) : (takeFloorFree a m s).notes.path = s.notes.path := by
  unfold takeFloorFree; split
  · exact floorFreed_path a _
  · rfl

theorem takeRecord_path (a : Station) (m : Msg) (s : State) : (takeRecord a m s).notes.path = s.notes.path := by
  unfold takeRecord; split
  · exact setRecord_path _ a s
  · rfl

theorem takeClear_path (a : Station) (m : Msg) (s : State) : (takeClear a m s).notes.path = s.notes.path := by
  unfold takeClear; split <;> rfl

theorem takeText_path (a : Station) (m : Msg) (s : State) : (takeText a m s).notes.path = s.notes.path := by
  unfold takeText; split
  · exact holdingHeard_path a _
  · rfl

theorem takeDefine_path (a : Station) (m : Msg) (s : State) : (takeDefine a m s).notes.path = s.notes.path := by
  unfold takeDefine defineArrived disableDefinitions; repeat' split
  all_goals simp

theorem takePresence_path (time : Word) (a : Station) (m : Msg) (s : State) :
    (takePresence time a m s).notes.path = s.notes.path := by
  unfold takePresence; dsimp only; repeat' split
  all_goals simp

/-! ### Capture -/

theorem chordStep_path (down held : KeySet) (time : Word) (s : State) :
    (chordStep down held time s).notes.path = s.notes.path := by
  have hoffer : ∀ r t, (offerStroke r t).notes.path = t.notes.path := fun r t => by
    unfold offerStroke; split <;> simp
  unfold chordStep completeChord strokeDone; dsimp only; repeat' split
  all_goals simp [hoffer]

theorem sampleMark_path (high : Bool) (time : Word) (s : State) :
    (sampleMark high time s).notes.path = s.notes.path := by
  unfold sampleMark markEdge; dsimp only; repeat' split
  all_goals simp

theorem takeScan_path (image : BitVec 24) (mark : Bool) (s : State) :
    (takeScan image mark s).notes.path = s.notes.path := by
  have hkeys : ∀ time t, (scanKeys image time t).notes.path = t.notes.path := fun time t => by
    unfold scanKeys; rw [chordStep_path, setFlagIf_path]
  unfold takeScan; dsimp only; repeat' split
  all_goals simp only [hkeys, sampleMark_path, elapse_path]

/-! ### Events of the other blocks -/

theorem onExpiry_path {act : State → State} (h : ∀ t, (act t).notes.path = t.notes.path) (timer : Option Nat)
    (s : State) : (onExpiry timer act s).notes.path = s.notes.path := by
  cases timer with
  | none => rfl
  | some n => exact h _

theorem recoveryOver_path (ready : Bool) (s : State) : (recoveryOver ready s).notes.path = s.notes.path := by
  cases ready <;> rfl

@[simp] theorem afterMain_path (s : State) : (afterMain s).notes.path = s.notes.path := by
  unfold afterMain; split <;> rfl

@[simp] theorem afterJob_path (s : State) : (afterJob s).notes.path = s.notes.path := by
  unfold afterJob; split
  · rfl
  · exact afterMain_path s

theorem configRead_path (s : State) : (configRead s).notes.path = s.notes.path := by
  have hfault : ∀ t, (enterFault t).notes = t.notes := fun _ => rfl
  have haccept : ∀ blk set t, (accept blk set t).notes = t.notes := fun _ _ _ => rfl
  unfold configRead readHeaders; dsimp only; repeat' split
  all_goals simp [hfault, haccept]

theorem headerRead_path (s : State) : (headerRead s).notes.path = s.notes.path := by
  unfold headerRead jobRead mainRead; dsimp only; repeat' split
  all_goals simp

theorem overlayRead_path (s : State) : (overlayRead s).notes.path = s.notes.path := by
  unfold overlayRead; dsimp only; split <;> rfl

theorem readEnds_path (s : State) : (readEnds s).notes.path = s.notes.path := by
  have hread : (flashReadEnds s).notes.path = s.notes.path := by
    unfold flashReadEnds; dsimp only; repeat' split
    all_goals simp
  unfold readEnds; split
  · exact hread
  · exact hread
  · unfold scanReadEnds; rw [setFlagIf_path]; rfl
  all_goals rfl

theorem takeStroke_path (s : State) : (takeStroke s).notes.path = s.notes.path := by
  unfold takeStroke; split <;> simp

theorem lookupCompletes_path (s : State) : (lookupCompletes s).notes.path = s.notes.path := by
  unfold lookupCompletes setResult; dsimp only; repeat' split
  all_goals simp

theorem holdBackExpired_path (s : State) : (holdBackExpired s).notes.path = s.notes.path := settle_path _

theorem startFrame_path (s : State) : (startFrame s).notes.path = s.notes.path := by
  unfold startFrame; repeat' split
  all_goals rfl

theorem loseArbitration_path (s : State) : (loseArbitration s).notes.path = s.notes.path := by
  unfold loseArbitration; split <;> rfl

@[simp] theorem leaveQueue_path (s : State) : (leaveQueue s).notes.path = s.notes.path := by
  unfold leaveQueue; dsimp only; split
  · exact drainCheck_path _
  · rfl

theorem abandonFrame_path (startBit : Bool) (s : State) : (abandonFrame startBit s).notes.path = s.notes.path := by
  unfold abandonFrame; split <;> simp

theorem finishFrame_path (s : State) : (finishFrame s).notes.path = s.notes.path := by
  unfold finishFrame; split <;> simp

theorem lineStuck_path (ms : Nat) (s : State) : (lineStuck ms s).notes.path = s.notes.path := by
  unfold lineStuck; dsimp only; repeat' split
  all_goals simp

theorem lineIdle_path (s : State) : (lineIdle s).notes.path = s.notes.path := by
  unfold lineIdle; split <;> rfl

theorem presenceExpired_path (s : State) : (presenceExpired s).notes.path = s.notes.path := by
  have hcheck : ∀ t, (absenceCheck t).notes.path = t.notes.path := fun t =>
    foldl_path (fun u i => by dsimp only; split <;> simp) _ t
  have hrun : ∀ t, (enterRun t).notes.path = t.notes.path := fun t => by simp [enterRun]
  unfold presenceExpired; dsimp only; repeat' split
  all_goals simp [hcheck, hrun]

theorem vacancyExpired_path (s : State) : (vacancyExpired s).notes.path = s.notes.path := by
  unfold vacancyExpired; dsimp only; split <;> simp

theorem claimWaitEnded_path (s : State) : (claimWaitEnded s).notes.path = s.notes.path := by
  unfold claimWaitEnded; dsimp only; split <;> simp

theorem holdOffEnded_path (s : State) : (holdOffEnded s).notes.path = s.notes.path := by simp [holdOffEnded]

theorem claimWon_path (s : State) : (claimWon s).notes.path = s.notes.path := by simp [claimWon]

theorem reliefExpired_path (s : State) : (reliefExpired s).notes.path = s.notes.path := by simp [reliefExpired]

theorem nextPattern_path (s : State) : (nextPattern s).notes.path = s.notes.path := by
  unfold nextPattern; split <;> rfl

/-! ### Commands -/

/-- A command of the notes writer: the end of the resume scan, the flush, the burst and its reports. -/
def isNotesCommand : Instr → Bool
  | .resumeScanEnd | .flushTimerExpiry | .burstStart | .programPollResult _ | .recoveryEnd _ => true
  | _ => false

/-- Where an event's condition does not hold the state stays as it is. -/
theorem path_ite {c : Prop} [Decidable c] {s t : State} (h : t.notes.path = s.notes.path) :
    (if c then t else s).notes.path = s.notes.path := by
  split
  · exact h
  · rfl

/-- A command that is neither a reset nor the notes writer's own completes and leaves the path in its state. -/
theorem exec_path (i : Instr) (s : State) (hr : isReset i = false) (hn : isNotesCommand i = false) :
    ∃ t, exec i s = .next t ∧ t.notes.path = s.notes.path := by
  cases i with
  | powerOnReset straps flash ram => cases hr
  | pinReset straps => cases hr
  | resumeScanEnd => cases hn
  | flushTimerExpiry => cases hn
  | burstStart => cases hn
  | programPollResult error => cases hn
  | recoveryEnd ready => cases hn
  | scan image mark => exact ⟨_, rfl, takeScan_path image mark s⟩
  | flashRecoveryEnd ready => exact ⟨_, rfl, path_ite (recoveryOver_path ready s)⟩
  | configReadDone => exact ⟨_, rfl, path_ite (configRead_path s)⟩
  | dictHeaderReadDone => exact ⟨_, rfl, headerRead_path s⟩
  | overlayHeaderReadDone => exact ⟨_, rfl, path_ite (overlayRead_path s)⟩
  | flashReadDone => exact ⟨_, rfl, path_ite (readEnds_path s)⟩
  | programTimeout => exact ⟨_, rfl, path_ite (onExpiry_path (act := programExpired) (fun _ => rfl) _ s)⟩
  | strokeEvent => exact ⟨_, rfl, path_ite (takeStroke_path s)⟩
  | timerEvent => exact ⟨_, rfl, path_ite (onExpiry_path (beginEvent_path _) _ s)⟩
  | lookupCompletion => exact ⟨_, rfl, lookupCompletes_path s⟩
  | holdBackTimerExpiry => exact ⟨_, rfl, onExpiry_path holdBackExpired_path _ s⟩
  | frameSendStart => exact ⟨_, rfl, startFrame_path s⟩
  | arbitrationLost => exact ⟨_, rfl, loseArbitration_path s⟩
  | transmitError startBit => exact ⟨_, rfl, abandonFrame_path startBit s⟩
  | frameSent => exact ⟨_, rfl, finishFrame_path s⟩
  | busStuck dominantMs => exact ⟨_, rfl, lineStuck_path dominantMs s⟩
  | busIdle => exact ⟨_, rfl, lineIdle_path s⟩
  | frameDiscarded f => exact ⟨_, rfl, receive_path (fun _ _ _ => rfl) f s⟩
  | retractReceived f => exact ⟨_, rfl, receive_path (fun _ _ _ => rfl) f s⟩
  | replaceReceived f => exact ⟨_, rfl, receive_path (fun _ _ _ => rfl) f s⟩
  | shadowReceived f => exact ⟨_, rfl, receive_path (fun _ _ _ => rfl) f s⟩
  | claimReceived f => exact ⟨_, rfl, receive_path takeClaim_path f s⟩
  | reliefReqReceived f => exact ⟨_, rfl, receive_path takeReliefReq_path f s⟩
  | reliefBusyReceived f => exact ⟨_, rfl, receive_path takeReliefBusy_path f s⟩
  | passReceived f => exact ⟨_, rfl, receive_path takePass_path f s⟩
  | passOtherReceived f => exact ⟨_, rfl, receive_path takePassOther_path f s⟩
  | floorFreeReceived f => exact ⟨_, rfl, receive_path takeFloorFree_path f s⟩
  | recordReceived f => exact ⟨_, rfl, receive_path takeRecord_path f s⟩
  | clearReceived f => exact ⟨_, rfl, receive_path takeClear_path f s⟩
  | textReceived f => exact ⟨_, rfl, receive_path takeText_path f s⟩
  | defineReceived f => exact ⟨_, rfl, receive_path takeDefine_path f s⟩
  | presenceReceived f => exact ⟨_, rfl, receive_path (takePresence_path _) f s⟩
  | presenceTimerExpiry => exact ⟨_, rfl, onExpiry_path presenceExpired_path _ s⟩
  | vacancyTimerExpiry => exact ⟨_, rfl, path_ite (onExpiry_path vacancyExpired_path _ s)⟩
  | claimWaitEnd => exact ⟨_, rfl, path_ite (onExpiry_path claimWaitEnded_path _ s)⟩
  | claimHoldOffEnd => exact ⟨_, rfl, path_ite (onExpiry_path holdOffEnded_path _ s)⟩
  | claimWindowExpiry => exact ⟨_, rfl, path_ite (onExpiry_path claimWon_path _ s)⟩
  | reliefTimerExpiry => exact ⟨_, rfl, path_ite (onExpiry_path reliefExpired_path _ s)⟩
  | yieldTimerExpiry => exact ⟨_, rfl, path_ite (onExpiry_path makeCut_path _ s)⟩
  | patternEnd => exact ⟨_, rfl, onExpiry_path nextPattern_path _ s⟩

/-! ### The halt (R25) -/

/-- The notes path is halted, with no burst in flight. -/
structure NotesWriter.Stopped (n : NotesWriter) : Prop where
  halted : n.halted = true
  burst : n.burst = none

/-- Whether the path is stopped is a matter of its state. -/
theorem NotesWriter.Stopped.of_path {m n : NotesWriter} (h : n.Stopped) (k : m.path = n.path) : m.Stopped := by
  have hhalted : m.path.halted = n.path.halted := by rw [k]
  have hburst : m.path.burst = n.path.burst := by rw [k]
  exact ⟨hhalted.trans h.halted, hburst.trans h.burst⟩

/-- A halted path requests no burst (R21, R25). -/
theorem NotesWriter.wantsBurst_of_halted {n : NotesWriter} (h : n.halted = true) : n.wantsBurst = false := by
  simp [NotesWriter.wantsBurst, NotesWriter.pathOpen, h]

@[simp] theorem releaseFlash_notes (s : State) : (releaseFlash s).notes = s.notes := by
  rw [releaseFlash, arbitrate_notes, endProgram_notes]

/-- With no burst in flight a program reported done or failed ends, and nothing else (R37, R40). -/
theorem operationDone_of_idle {s : State} (h : s.notes.burst = none) : operationDone s = releaseFlash s := by
  unfold operationDone; rw [h]

theorem operationFailed_of_idle {s : State} (h : s.notes.burst = none) :
    operationFailed s = releaseFlash (endProgram s) := by
  unfold operationFailed leaveResidue; rw [h]

theorem enterResume_stopped (count : Nat) {s : State} (h : s.notes.Stopped) : (enterResume count s).notes.Stopped := by
  have hfifo : ∀ l, ({ s.notes with fifo := l } : NotesWriter).Stopped := fun _ => ⟨h.halted, h.burst⟩
  unfold enterResume becomeFull; split
  · rw [loseNote_notes, setFlag_notes]; exact ⟨h.halted, h.burst⟩
  · exact (hfifo _).of_path (armFlush_path _)

theorem resumeNotes_stopped {s : State} (h : s.notes.Stopped) : (resumeNotes s).notes.Stopped := by
  unfold resumeNotes; dsimp only
  refine (enterResume_stopped _ ?_).of_path (foldl_path (fun t n => joinNote_path n t) _ _)
  rw [setFlagIf_eq, setFlagIf_eq]; exact ⟨h.halted, h.burst⟩

theorem resumeEnds_stopped {s : State} (h : s.notes.Stopped) : (resumeEnds s).notes.Stopped := by
  have hmark : ∀ t, (deliverMark t).notes.path = t.notes.path := fun t => by
    unfold deliverMark; split <;> simp
  refine (resumeNotes_stopped h).of_path ?_
  rw [resumeEnds, arbitrate_path, hmark]; rfl

/-- No command but a reset ends a halt or starts a burst on a halted path (R25). -/
theorem exec_stopped (i : Instr) {s : State} (hr : isReset i = false) (h : s.notes.Stopped) :
    ∃ t, exec i s = .next t ∧ t.notes.Stopped := by
  by_cases hn : isNotesCommand i = true
  · cases i with
    | resumeScanEnd =>
      refine ⟨_, rfl, ?_⟩
      split
      · exact resumeEnds_stopped h
      · exact h
    | flushTimerExpiry =>
      refine ⟨_, rfl, ?_⟩
      unfold onExpiry flushExpired; split
      · exact h
      · rw [arbitrate_notes]; exact ⟨h.halted, h.burst⟩
    | burstStart =>
      exact ⟨s, by simp [exec, execBurstStart, NotesWriter.wantsBurst_of_halted h.halted], h⟩
    | programPollResult error =>
      refine ⟨_, rfl, ?_⟩
      rw [operationFailed_of_idle h.burst, operationDone_of_idle h.burst]
      repeat' split
      all_goals simpa using h
    | recoveryEnd ready => exact ⟨s, by simp [exec, execRecoveryEnd, h.burst], h⟩
    | _ => cases hn
  · obtain ⟨t, ht, hpath⟩ := exec_path i s hr (by simpa using hn)
    exact ⟨t, ht, h.of_path hpath⟩

/-- On a halted path that has opened a handed note is lost (R19, R25). -/
theorem handNote_of_halted {s : State} (hh : s.notes.halted = true) (ho : s.notes.opened = true) (n : Note) :
    (handNote n s).notes = { s.notes with lostCount := addLost s.notes.lostCount 1 } := by
  simp [handNote, joinNote, hh, ho, arbitrate_notes]

/-! ### The second failure (R24, R25) -/

/-- What the halt does to the notes writer (R25). -/
theorem haltPath_notes (s : State) :
    (haltPath s).notes =
      { s.notes with
        halted := true, lostCount := addLost s.notes.lostCount (handedCount s.notes.fifo), fifo := []
        flushTimer := none, flushDue := false } := by
  rw [haltPath, setFlag_notes]

/-- What the check of the region does to the notes writer: nothing, or in a full region the FIFO is lost (R27). -/
theorem checkRegion_notes (before : Nat) (s : State) :
    (checkRegion before s).notes =
      if freeSlots s = 0 then
        { s.notes with
          full := true, lostCount := addLost s.notes.lostCount (handedCount s.notes.fifo), fifo := []
          flushTimer := none }
      else s.notes := by
  have hfree : ∀ c f, freeSlots (setFlagIf c f s) = freeSlots s := fun c f => by rw [setFlagIf_eq]; rfl
  unfold checkRegion; dsimp only; rw [hfree]; split
  · rw [becomeFull, setFlag_notes, setFlagIf_eq]
  · rw [setFlagIf_eq]

theorem leaveResidue_notes (s : State) : (leaveResidue s).notes = s.notes := by
  unfold leaveResidue; split <;> rfl

theorem leaveResidue_lookup (s : State) : (leaveResidue s).lookup = s.lookup := by
  unfold leaveResidue; split <;> rfl

theorem checkRegion_lookup (before : Nat) (s : State) : (checkRegion before s).lookup = s.lookup := by
  unfold checkRegion becomeFull; dsimp only; split
  · rw [setFlag_eq, setFlagIf_eq]
  · rw [setFlagIf_eq]

/-- A poll or the end of a recovery that reports the operation in flight failed (R37). -/
theorem exec_reportsFailure {s : State} {c : Instr} (hb : s.notes.burst.isSome = true) (h : ReportsFailure s c) :
    exec c s = .next (operationFailed s) := by
  rcases h with ⟨rfl, hflash⟩ | ⟨rfl, hflash⟩ <;> simp [exec, execProgramPollResult, execRecoveryEnd, hflash, hb]

/-- The state as the halt meets it: the burst is over, and an overwrite has passed its span (R25). -/
def beforeHalt (b : Burst) (s : State) : State :=
  let u := setBurst none (endProgram (leaveResidue s))
  if b.stage = .overwrite then checkRegion (freeSlots (endProgram (leaveResidue s))) (advanceWrite b.span.2 u) else u

/-- A second consecutive failure halts the path (R25). -/
theorem operationFailed_halts {s : State} {b : Burst} (hb : s.notes.burst = some b) (hs : b.stage ≠ .first) :
    operationFailed s = releaseFlash (haltPath (beforeHalt b s)) := by
  unfold operationFailed beforeHalt; rw [hb]; dsimp only
  cases hstage : b.stage with
  | first => exact absurd hstage hs
  | overwrite => rfl
  | second => rfl

theorem beforeHalt_lookup (b : Burst) (s : State) : (beforeHalt b s).lookup = s.lookup := by
  unfold beforeHalt; dsimp only; split
  · rw [checkRegion_lookup]; exact leaveResidue_lookup s
  · exact leaveResidue_lookup s

/-- Before the halt of a second attempt the notes writer has only given up its burst. -/
theorem beforeHalt_notes_second {b : Burst} (hs : b.stage ≠ .overwrite) (s : State) :
    (beforeHalt b s).notes = { s.notes with burst := none } := by
  unfold beforeHalt; rw [if_neg hs, setBurst_notes, endProgram_notes, leaveResidue_notes]

/-- Before the halt of an overwrite the write position has passed the span, and a region then full has lost its
records (R25, R27, log entry 17). -/
theorem beforeHalt_notes_overwrite {b : Burst} (hs : b.stage = .overwrite) (s : State) :
    ∃ full lost fifo timer,
      (beforeHalt b s).notes =
        { s.notes with
          burst := none, writePos := some (s.notes.writePos.getD 0 + 16 * b.span.2)
          full := full, lostCount := lost, fifo := fifo, flushTimer := timer } ∧
      addLost lost (handedCount fifo) = addLost s.notes.lostCount (handedCount s.notes.fifo) := by
  unfold beforeHalt; rw [if_pos hs, checkRegion_notes]
  simp only [advanceWrite_notes, setBurst_notes, endProgram_notes, leaveResidue_notes]
  split
  · exact ⟨_, _, _, _, rfl, by simp [addLost, handedCount]⟩
  · exact ⟨_, _, _, _, rfl, rfl⟩

/-- With no lookup claiming the flash the arbiter grants no read (R39). -/
theorem arbitrate_flash {s : State} (h : s.lookup.claims = false) : (arbitrate s).port.flash = s.port.flash := by
  unfold arbitrate; rw [h, Bool.false_and]; split
  · rw [if_neg Bool.false_ne_true]; split <;> rfl
  · rfl

/-- The halt sets NOTES_FAULT, and leaves the flash free where no lookup claims it (R25, R40). -/
theorem haltPath_released (u : State) :
    (releaseFlash (haltPath u)).status.isSet .notesFault = true ∧
      (u.lookup.claims = false → (releaseFlash (haltPath u)).port.flash = .free) := by
  have hlookup : (haltPath u).lookup = u.lookup := by rw [haltPath, setFlag_eq]
  refine ⟨?_, fun h => ?_⟩
  · rw [releaseFlash, arbitrate_eq]; exact (isSet_setFlag _ _ _).trans (by simp)
  · rw [releaseFlash, arbitrate_flash (by rw [endProgram_lookup, hlookup, h])]; rfl

/-- Settles O24: a failure behind the first one takes the halting branch, and no command but a reset leaves a halt. -/
theorem secondFailureHaltsNotes : Obligations.SecondFailureHaltsNotes := by
  refine ⟨fun s b r w c hin hstage hfail _ => ?_,
    fun s hhalted hburst => ⟨?_, fun c t hr hexec => ?_, fun n ho => ?_⟩⟩
  · obtain ⟨hb, -, hpos, -⟩ := hin
    have hexec := exec_reportsFailure (by rw [hb]; rfl) hfail
    rw [operationFailed_halts hb hstage] at hexec
    obtain ⟨hfault, hflash⟩ := haltPath_released (beforeHalt b s)
    rw [beforeHalt_lookup] at hflash
    refine ⟨_, hexec, ?_⟩
    rw [releaseFlash_notes, haltPath_notes]
    by_cases hover : b.stage = .overwrite
    · obtain ⟨full, lost, fifo, timer, hnotes, hlost⟩ := beforeHalt_notes_overwrite hover s
      rw [hnotes, if_pos hover, hpos]
      exact ⟨rfl, hfault, rfl, rfl, rfl, rfl, hlost, congrArg some (by simp; omega), hflash⟩
    · rw [beforeHalt_notes_second hover, if_neg hover]
      exact ⟨rfl, hfault, rfl, rfl, rfl, rfl, rfl, hpos, hflash⟩
  · exact NotesWriter.wantsBurst_of_halted hhalted
  · obtain ⟨u, hu, hstopped⟩ := exec_stopped c hr ⟨hhalted, hburst⟩
    cases hexec.symm.trans hu
    exact ⟨hstopped.halted, hstopped.burst⟩
  · rw [handNote_of_halted hhalted ho]; exact ⟨rfl, rfl⟩

end Sys2Proof.Machine
end

section
/-! PROOFS. The resume scan and its end: the reads, the notes that enter the FIFO, LISTEN (R18, R28 to R30, R36,
R175). -/

namespace Sys2Proof.Machine

/-! ### The slots of an installed notes region (R28, R33) -/

theorem NotesRegion.notesSlots {s : State} {r : Region} (h : NotesRegion s r) : notesSlots s = r.size / 16 := by
  unfold Machine.notesSlots; rw [h.1]; rfl

/-- The read of a slot inside the region is allowed and gives the bytes that stand there. -/
theorem NotesRegion.slotBytes {s : State} {r : Region} (h : NotesRegion s r) {i : Nat} (hi : i < r.size / 16) :
    slotBytes s i = Memory.readBytes s.port.flashMem (r.base + 16 * i) 16 := by
  obtain ⟨hr, hdev, hops, -⟩ := h
  have hallow : s.port.allows .notes .flashRead (16 * i) 16 = true := by
    unfold MemoryPort.allows; rw [hr]; simp [hops, PortOp.isProgram]; omega
  simp [Machine.slotBytes, MemoryPort.dataAt, MemoryPort.readAt, hallow, MemoryPort.bytesAt, hr, hdev,
    MemoryPort.contents]

/-- The forward scan ends at the first erased slot, and has passed a damaged slot where one stands before it. -/
theorem forwardScan_end {s : State} {k : Nat} : ∀ {n j : Nat}, j ≤ k → k ≤ j + n →
    (∀ i < k, j ≤ i → slotErased (slotBytes s i) = false) → (k < j + n → slotErased (slotBytes s k) = true) →
    (forwardScan s n j false).1 = k ∧
      ((forwardScan s n j false).2 = true ↔ ∃ i < k, j ≤ i ∧ slotGood (slotBytes s i) = false) := by
  intro n
  induction n with
  | zero =>
    intro j hj hk _ _
    obtain rfl : j = k := by omega
    exact ⟨rfl, nofun, fun ⟨i, h1, h2, _⟩ => absurd h1 (by omega)⟩
  | succ n ih =>
    intro j hj hk hwritten herased
    unfold forwardScan; dsimp only
    rcases Nat.eq_or_lt_of_le hj with rfl | hlt
    · rw [if_pos (herased (by omega))]
      exact ⟨rfl, nofun, fun ⟨i, h1, h2, _⟩ => absurd h1 (by omega)⟩
    · obtain ⟨hend, hdamaged⟩ := ih (j := j + 1) hlt (by omega) (fun i hi h => hwritten i hi (by omega))
        fun h => herased (by omega)
      rw [if_neg (by rw [hwritten j hlt (Nat.le_refl j)]; exact Bool.false_ne_true), forwardScan_damaged]
      refine ⟨hend, ?_⟩
      rw [Bool.false_or, Bool.or_eq_true, hdamaged, Bool.not_eq_true']
      constructor
      · rintro (hbad | ⟨i, h1, h2, hbad⟩)
        · exact ⟨j, hlt, Nat.le_refl j, hbad⟩
        · exact ⟨i, h1, by omega, hbad⟩
      · rintro ⟨i, h1, h2, hbad⟩
        rcases Nat.eq_or_lt_of_le h2 with rfl | h2
        · exact .inl hbad
        · exact .inr ⟨i, h1, h2, hbad⟩

/-- The write slot and the damage that the reads left of a forward scan find. -/
theorem WrittenUpTo.scanResult {s : State} {r : Region} {j k : Nat} (h : WrittenUpTo s r k) (hj : j ≤ k) :
    (scanResult s (.forward j)).write = k ∧
      ((scanResult s (.forward j)).damaged = true ↔
        ∃ i < k, j ≤ i ∧ slotGood (Memory.readBytes s.port.flashMem (r.base + 16 * i) 16) = false) := by
  obtain ⟨hr, hk, hwritten, herased⟩ := h
  have hslot : ∀ i < k, Machine.slotBytes s i = Memory.readBytes s.port.flashMem (r.base + 16 * i) 16 :=
    fun i hi => hr.slotBytes (by omega)
  obtain ⟨hend, hdamaged⟩ := forwardScan_end (s := s) (n := r.size / 16 - j) hj (by omega)
    (fun i hi _ => by rw [hslot i hi]; exact hwritten i hi)
    fun hlt => by rw [hr.slotBytes (by omega)]; exact herased (by omega)
  rw [scanResult_forward, hr.notesSlots]
  refine ⟨hend, hdamaged.trans (exists_congr fun i => and_congr_right fun hi => ?_)⟩
  rw [hslot i hi]

/-! ### Notes that join the FIFO one behind another (R19, R27) -/

/-- The notes that the FIFO of an opened path has room for. -/
def notesRoom (s : State) : Nat := if s.notes.full then 0 else 8 - s.notes.fifo.length

/-- The lost count after n notes have been handed to an opened path. -/
def lostAfter (s : State) (n : Nat) : Nat :=
  if n ≤ notesRoom s then s.notes.lostCount else addLost s.notes.lostCount (n - notesRoom s)

theorem lostAfter_of_le {s : State} {n : Nat} (h : n ≤ notesRoom s) : lostAfter s n = s.notes.lostCount := if_pos h

theorem lostAfter_succ {s : State} {n : Nat} (h : notesRoom s ≤ n) :
    lostAfter s (n + 1) = addLost (lostAfter s n) 1 := by
  unfold lostAfter addLost; split_ifs <;> omega

/-- From u to t these notes have been handed to an opened path: as many as there is room for have joined the FIFO, the
others are counted as lost, with NOTE_LOST where the path is not full (R19, R27). -/
structure NotesTaken (u t : State) (l : List Note) : Prop where
  notes : t.notes =
    { u.notes with
      fifo := u.notes.fifo ++ l.take (notesRoom u), lostCount := lostAfter u l.length }
  isSet : ∀ f, t.status.isSet f =
    (u.status.isSet f || (decide (f = .noteLost) && (!u.notes.full && decide (notesRoom u < l.length))))

theorem NotesTaken.refl (u : State) : NotesTaken u u [] := ⟨by simp [lostAfter_of_le], by simp⟩

/-- Only the notes writer and the status unit count. -/
theorem NotesTaken.congr {u t t' : State} {l : List Note} (h : NotesTaken u t l) (hn : t'.notes = t.notes)
    (hs : t'.status = t.status) : NotesTaken u t' l :=
  ⟨hn.trans h.notes, by rw [hs]; exact h.isSet⟩

/-- On a path that is not halted, a note that finds no room is lost (R19, R27). -/
theorem joinNote_lost {s : State} (hh : s.notes.halted = false) (h : s.notes.full = true ∨ 8 ≤ s.notes.fifo.length)
    (n : Note) : joinNote n s = setFlagIf (!s.notes.full) .noteLost (loseNote s) := by
  unfold joinNote setFlagIf; rw [hh, Bool.false_or]
  cases hf : s.notes.full with
  | true => rfl
  | false => rw [if_neg Bool.false_ne_true, if_pos (h.resolve_left (by simp [hf]))]; rfl

/-- On an open path with room, and the flush timer running, a note joins the FIFO (R19, R20). -/
theorem joinNote_room {s : State} (hh : s.notes.halted = false) (hf : s.notes.full = false)
    (hl : s.notes.fifo.length < 8) (ht : s.notes.flushTimer.isSome = true) (n : Note) :
    joinNote n s = { s with notes := { s.notes with fifo := s.notes.fifo ++ [n] } } := by
  have htimer : s.notes.flushTimer.isNone = false := by simpa using ht
  unfold joinNote armFlush; rw [hh, hf, if_neg (by simp), if_neg (by omega)]; dsimp only
  rw [htimer]; rfl

/-- One more note, on a path that is not halted, with the flush timer running where the path is not full. -/
theorem NotesTaken.join {u t : State} {l : List Note} (h : NotesTaken u t l) (hh : u.notes.halted = false)
    (ht : u.notes.full = false → u.notes.flushTimer.isSome = true) (n : Note) :
    NotesTaken u (joinNote n t) (l ++ [n]) := by
  obtain ⟨hnotes, hset⟩ := h
  have hlen : (l ++ [n]).length = l.length + 1 := by simp
  have hhalted : t.notes.halted = false := by rw [hnotes]; exact hh
  have hfull : t.notes.full = u.notes.full := by rw [hnotes]
  have hfifo : t.notes.fifo.length = u.notes.fifo.length + min (notesRoom u) l.length := by rw [hnotes]; simp
  rcases Nat.lt_or_ge l.length (notesRoom u) with hroom | hroom
  · obtain ⟨hopen, hshort⟩ : u.notes.full = false ∧ notesRoom u = 8 - u.notes.fifo.length := by
      unfold notesRoom at hroom ⊢; split at hroom <;> simp_all
    have htimer : t.notes.flushTimer.isSome = true := by rw [hnotes]; exact ht hopen
    rw [joinNote_room hhalted (hfull.trans hopen) (by omega) htimer]
    refine ⟨?_, fun f => ?_⟩
    · dsimp only
      rw [hnotes, List.take_of_length_le (by omega), List.take_of_length_le (by omega), hlen,
        lostAfter_of_le (by omega), lostAfter_of_le (by omega), List.append_assoc]
    · refine (hset f).trans ?_
      rw [hlen, decide_eq_false (p := notesRoom u < l.length) (by omega),
        decide_eq_false (p := notesRoom u < l.length + 1) (by omega)]
  · have hno : t.notes.full = true ∨ 8 ≤ t.notes.fifo.length := by
      rw [hfull]; unfold notesRoom at hroom hfifo; split at hroom
      · exact .inl ‹_›
      · right; rw [if_neg ‹_›] at hfifo; omega
    rw [joinNote_lost hhalted hno, hfull]
    refine ⟨?_, fun f => ?_⟩
    · rw [setFlagIf_eq, loseNote_notes, hnotes, List.take_append_of_le_length hroom, hlen, lostAfter_succ hroom]
    · rw [isSet_setFlagIf, show (loseNote t).status = t.status from rfl, hset, hlen,
        decide_eq_true (show notesRoom u < l.length + 1 by omega), Bool.or_assoc]
      cases u.notes.full with
      | true => simp
      | false => cases decide (f = .noteLost) <;> simp

/-- Notes one behind another. -/
theorem NotesTaken.foldl {u t : State} {l : List Note} (h : NotesTaken u t l) (hh : u.notes.halted = false)
    (ht : u.notes.full = false → u.notes.flushTimer.isSome = true) (l' : List Note) :
    NotesTaken u (l'.foldl (fun s n => joinNote n s) t) (l ++ l') := by
  induction l' generalizing t l with
  | nil => simpa using h
  | cons n l' ih => simpa using ih (h.join hh ht n)

/-! ### The end of the scan, act by act (R18, R28 to R30, R175) -/

/-- The three quantities of the scan's outcome are fixed, and the path opens. -/
def scanFixed (x : ScanResult) (s : State) : State :=
  { s with
    notes :=
      { s.notes with
        writePos := some (16 * x.write), restartCount := some x.restart, opened := true, heldNotes := []
        resumeScan := none }
    scanner := { s.scanner with nextStroke := some x.stroke } }

/-- The flags of the outcome: damage among the slots still to be read, and a region nearly full. -/
def scanFlagged (x : ScanResult) (s : State) : State :=
  let u := setFlagIf x.damaged .notesDamaged (scanFixed x s)
  setFlagIf (decide (freeSlots u < 2 ^ u.settings.nearFull)) .notesNearFull u

/-- The outcome of the resume scan, with the reads that are left taken to their end. -/
def scanOutcome (s : State) : ScanResult := scanResult s (s.notes.resumeScan.getD (.forward 0))

/-- The RESUME record has entered, or is lost in a full region; the notes held in SCAN are still to come. -/
def resumeEntered (s : State) : State := enterResume (scanOutcome s).restart (scanFlagged (scanOutcome s) s)

theorem resumeNotes_eq (s : State) :
    resumeNotes s = s.notes.heldNotes.foldl (fun s n => joinNote n s) (resumeEntered s) := rfl

/-- The MARK note of an edge held in SCAN (R15). -/
def heldMarks (s : State) : List Note := s.scanner.heldMark.toList.map Note.mark

/-- The scanner gives up a held edge, and the mark-next latch takes it (R15). -/
def markReleased (s : State) : State :=
  { s with
    scanner := { s.scanner with heldMark := none }
    translator := { s.translator with markNext := s.translator.markNext || s.scanner.heldMark.isSome } }

theorem arbitrate_arbitrate (s : State) : arbitrate (arbitrate s) = arbitrate s := by
  have hbusy : ∀ t : State, ¬ (t.port.flash = .free ∧ t.port.burstGranted = false) → arbitrate t = t :=
    fun t ht => if_neg ht
  by_cases h : s.port.flash = .free ∧ s.port.burstGranted = false
  · by_cases hread : (s.lookup.claims && !(s.notes.wantsBurst && decide (8 ≤ s.notes.fifo.length))) = true
    · refine hbusy _ ?_
      rw [arbitrate, if_pos h, if_pos hread]; simp
    · by_cases hburst : s.notes.wantsBurst = true
      · refine hbusy _ ?_
        rw [arbitrate, if_pos h, if_neg hread, if_pos hburst]; simp
      · have hself : arbitrate s = s := by rw [arbitrate, if_pos h, if_neg hread, if_neg hburst]
        rw [hself, hself]
  · rw [hbusy s h, hbusy s h]

/-- With the flash free, and neither a lookup's claim nor a grant standing, the arbiter grants a wanted burst (R39). -/
theorem arbitrate_unclaimed {s : State} (hf : s.port.flash = .free) (hc : s.lookup.claims = false)
    (hg : s.port.burstGranted = false) :
    arbitrate s = { s with port := { s.port with burstGranted := s.notes.wantsBurst } } := by
  unfold arbitrate; rw [if_pos ⟨hf, hg⟩, hc, Bool.false_and, if_neg Bool.false_ne_true]
  cases h : s.notes.wantsBurst with
  | true => rfl
  | false => rw [if_neg Bool.false_ne_true, ← hg]

theorem markReleased_none {s : State} (h : s.scanner.heldMark = none) : markReleased s = s := by
  unfold markReleased; rw [h, Option.isSome_none, Bool.or_false, ← h]

/-- On an opened path a held mark is handed like any note (R15, R18). -/
theorem arbitrate_deliverMark {s : State} (h : s.notes.opened = true) :
    arbitrate (deliverMark s) = arbitrate ((heldMarks s).foldl (fun s n => joinNote n s) (markReleased s)) := by
  cases hm : s.scanner.heldMark with
  | none => rw [markReleased_none hm, heldMarks, deliverMark, hm]; rfl
  | some c => simp [deliverMark, heldMarks, markReleased, hm, handNote, h, arbitrate_arbitrate]

/-- The state before the arbiter's decision that ends the event: every note is handed, and LISTEN has begun. -/
def listenEntered (s : State) : State :=
  (heldMarks s).foldl (fun s n => joinNote n s) (markReleased (enterListen (resumeNotes s)))

theorem enterResume_frame (count : Nat) (s : State) :
    enterResume count s =
      { s with notes := (enterResume count s).notes, status := (enterResume count s).status } := by
  unfold enterResume becomeFull armFlush; repeat' split
  · rw [setFlag_eq]; rfl
  · rfl
  · rfl

/-- Joining notes changes the notes writer and the status unit only. -/
theorem foldl_joinNote_frame (l : List Note) (s : State) :
    l.foldl (fun s n => joinNote n s) s =
      { s with
        notes := (l.foldl (fun s n => joinNote n s) s).notes
        status := (l.foldl (fun s n => joinNote n s) s).status } := by
  induction l generalizing s with
  | nil => rfl
  | cons n l ih => rw [List.foldl_cons, ih, joinNote_eq]

theorem scanFlagged_frame (x : ScanResult) (s : State) :
    scanFlagged x s = { scanFixed x s with status := (scanFlagged x s).status } := by
  unfold scanFlagged; dsimp only; rw [setFlagIf_eq, setFlagIf_eq]

/-- The end of the scan changes the notes writer, the status unit and the next stroke number only. -/
theorem resumeNotes_frame (s : State) :
    resumeNotes s =
      { s with
        notes := (resumeNotes s).notes, status := (resumeNotes s).status
        scanner := { s.scanner with nextStroke := some (scanOutcome s).stroke } } := by
  rw [resumeNotes_eq, foldl_joinNote_frame, resumeEntered, enterResume_frame, scanFlagged_frame]; rfl

/-- The whole event but the arbiter's decision changes these blocks only (R15, R175). -/
theorem listenEntered_frame (s : State) :
    listenEntered s =
      { s with
        notes := (listenEntered s).notes, status := (listenEntered s).status
        seq := { s.seq with phase := .listen, listenExpiries := 0 }
        port := { s.port with flash := .free }
        scanner :=
          { s.scanner with active := true, heldMark := none, nextStroke := some (scanOutcome s).stroke }
        translator :=
          { s.translator with active := true, markNext := s.translator.markNext || s.scanner.heldMark.isSome }
        peers := { s.peers with timer := some s.settings.presence } } := by
  rw [listenEntered, foldl_joinNote_frame, resumeNotes_frame]; rfl

theorem resumeNotes_opened (s : State) : (resumeNotes s).notes.opened = true := by
  have hpath : (resumeNotes s).notes.path = (resumeEntered s).notes.path := by
    rw [resumeNotes_eq, foldl_path fun t n => joinNote_path n t]
  have hentered : (resumeEntered s).notes.opened = true := by
    unfold resumeEntered enterResume becomeFull armFlush; repeat' split
    · rw [loseNote_notes, setFlag_notes, scanFlagged_frame]; rfl
    all_goals rw [scanFlagged_frame]; rfl
  exact (congrArg NotesWriter.opened hpath).trans hentered

theorem resumeEnds_eq (s : State) : resumeEnds s = arbitrate (listenEntered s) := by
  have hopened : (enterListen (resumeNotes s)).notes.opened = true := resumeNotes_opened s
  have hmarks : heldMarks (enterListen (resumeNotes s)) = heldMarks s := by rw [resumeNotes_frame]; rfl
  rw [resumeEnds, arbitrate_deliverMark hopened, hmarks]; rfl

/-! ### The RESUME record (R18, R30) -/

theorem freeSlots_scanFlagged (x : ScanResult) (s : State) : freeSlots (scanFlagged x s) = notesSlots s - x.write := by
  have hfixed : freeSlots (scanFixed x s) = notesSlots s - 16 * x.write / 16 := rfl
  rw [Nat.mul_div_cancel_left _ (by norm_num)] at hfixed
  rw [scanFlagged_frame]; exact hfixed

theorem isSet_scanFlagged (x : ScanResult) (s : State) (f : Flag) :
    (scanFlagged x s).status.isSet f =
      (s.status.isSet f || (x.damaged && decide (f = .notesDamaged)) ||
        (decide (notesSlots s - x.write < 2 ^ s.settings.nearFull) && decide (f = .notesNearFull))) := by
  have hfree : freeSlots (setFlagIf x.damaged .notesDamaged (scanFixed x s)) = notesSlots s - x.write := by
    rw [← freeSlots_scanFlagged, scanFlagged_frame, setFlagIf_eq]; rfl
  have hset : (setFlagIf x.damaged .notesDamaged (scanFixed x s)).settings = s.settings := by rw [setFlagIf_eq]; rfl
  unfold scanFlagged; dsimp only; rw [hfree, hset, isSet_setFlagIf, isSet_setFlagIf]; rfl

/-- With a slot free the RESUME record is the first record of the FIFO, and the flush timer starts (R18, R20). -/
theorem resumeEntered_room {s : State} (h : NotesUnopened s) (hfree : 0 < notesSlots s - (scanOutcome s).write) :
    resumeEntered s =
      { scanFlagged (scanOutcome s) s with
        notes :=
          { (scanFixed (scanOutcome s) s).notes with
            fifo := [.resume (scanOutcome s).restart s.seq.resetKind]
            flushTimer := some (s.settings.flush * 100) } } := by
  obtain ⟨-, -, hburst, htimer, hdue, hhalted, hfull, -, -⟩ := h
  unfold resumeEntered enterResume armFlush
  rw [freeSlots_scanFlagged, if_neg (by omega), scanFlagged_frame]; dsimp only
  simp [scanFixed, NotesWriter.pathOpen, NotesWriter.waiting, flushPeriod, hburst, htimer, hdue, hhalted, hfull]

/-- In a full region the RESUME record is the first of the notes lost, and the path is full (R27, R30). -/
theorem resumeEntered_full {s : State} (h : NotesUnopened s) (hfree : notesSlots s - (scanOutcome s).write = 0) :
    (resumeEntered s).notes =
        { (scanFixed (scanOutcome s) s).notes with
          fifo := [], flushTimer := none, full := true, lostCount := addLost s.notes.lostCount 1 } ∧
      ∀ f, (resumeEntered s).status.isSet f =
        ((scanFlagged (scanOutcome s) s).status.isSet f || decide (f = .notesFull)) := by
  obtain ⟨-, hfifo, -⟩ := h
  unfold resumeEntered enterResume; rw [freeSlots_scanFlagged, if_pos hfree]
  refine ⟨?_, fun f => isSet_setFlag _ _ _⟩
  rw [loseNote_notes, becomeFull, setFlag_notes, scanFlagged_frame]
  simp [scanFixed, hfifo, handedCount, addLost]; omega

/-! ### The notes held in SCAN (R18) -/

/-- Behind the RESUME record come the notes held in SCAN, then the held mark (R18, R30). -/
theorem listenEntered_taken {s : State} (hh : (resumeEntered s).notes.halted = false)
    (ht : (resumeEntered s).notes.full = false → (resumeEntered s).notes.flushTimer.isSome = true) :
    NotesTaken (resumeEntered s) (listenEntered s) (s.notes.heldNotes ++ heldMarks s) := by
  have hheld : NotesTaken (resumeEntered s) (resumeNotes s) s.notes.heldNotes :=
    (NotesTaken.refl _).foldl hh ht s.notes.heldNotes
  exact (hheld.congr (t' := markReleased (enterListen (resumeNotes s))) rfl rfl).foldl hh ht (heldMarks s)

/-! ### One read of the scan (R28, R36) -/

/-- What the scan finds is a matter of what its reads give. -/
theorem scanResult_congr {s t : State} (h : slotBytes t = slotBytes s) (hn : notesSlots t = notesSlots s)
    (x : ResumeScan) : scanResult t x = scanResult s x := by
  have hforward : ∀ n i d, forwardScan t n i d = forwardScan s n i d := by
    intro n
    induction n with
    | zero => exact fun _ _ => rfl
    | succ n ih => intro i d; simp only [forwardScan, h, ih]
  have hbackward : ∀ pick i, backwardScan t pick i = backwardScan s pick i := by
    intro pick i
    induction i with
    | zero => rfl
    | succ i ih => simp only [backwardScan, h, ih]
  cases x <;> simp [hforward, hbackward, hn]

/-! The state of the flash counts for no act of the end of the scan. -/

theorem setFlagIf_setFlash (c : Bool) (g : Flag) (f : FlashState) (s : State) :
    setFlagIf c g (setFlash f s) = setFlash f (setFlagIf c g s) := by
  cases c with
  | true =>
    show setFlag g (setFlash f s) = setFlash f (setFlag g s)
    rw [setFlag_eq g (setFlash f s), setFlag_status (s := s) (t := setFlash f s) g rfl rfl, setFlag_eq g s]; rfl
  | false => rfl

theorem armFlush_setFlash (f : FlashState) (s : State) : armFlush (setFlash f s) = setFlash f (armFlush s) := by
  unfold armFlush flushPeriod; rw [setFlash_notes, setFlash_settings]; split <;> rfl

theorem joinNote_setFlash (n : Note) (f : FlashState) (s : State) :
    joinNote n (setFlash f s) = setFlash f (joinNote n s) := by
  have hflag : setFlag .noteLost (loseNote (setFlash f s)) = setFlash f (setFlag .noteLost (loseNote s)) :=
    setFlagIf_setFlash true _ f (loseNote s)
  unfold joinNote; rw [hflag, setFlash_notes]; repeat' split
  · rfl
  · rfl
  · exact armFlush_setFlash f { s with notes := { s.notes with fifo := s.notes.fifo ++ [n] } }

theorem foldl_joinNote_setFlash (l : List Note) (f : FlashState) (s : State) :
    l.foldl (fun s n => joinNote n s) (setFlash f s) = setFlash f (l.foldl (fun s n => joinNote n s) s) := by
  induction l generalizing s with
  | nil => rfl
  | cons n l ih => rw [List.foldl_cons, List.foldl_cons, joinNote_setFlash, ih]

theorem enterResume_setFlash (count : Nat) (f : FlashState) (s : State) :
    enterResume count (setFlash f s) = setFlash f (enterResume count s) := by
  have hfull : becomeFull (setFlash f s) = setFlash f (becomeFull s) := setFlagIf_setFlash true .notesFull f
    { s with
      notes :=
        { s.notes with
          full := true, lostCount := addLost s.notes.lostCount (handedCount s.notes.fifo), fifo := []
          flushTimer := none } }
  unfold enterResume; rw [hfull, show freeSlots (setFlash f s) = freeSlots s from rfl]; split
  · rfl
  · exact armFlush_setFlash f { s with notes := { s.notes with fifo := [.resume count s.seq.resetKind] } }

/-! Damage that a read reports, and damage that the reads after it find, give one flag. -/

theorem setFlagIf_setFlagIf (c d : Bool) (f : Flag) (s : State) :
    setFlagIf c f (setFlagIf d f s) = setFlagIf (d || c) f s := by
  cases c with
  | false => rw [Bool.or_false]; rfl
  | true =>
    cases d with
    | false => rfl
    | true =>
      have hset : (setFlag f s).status.isSet f = true := by rw [isSet_setFlag]; simp
      have hflags : (setFlag f s).status.flags ||| f.mask = (setFlag f s).status.flags := by
        rw [setFlag_flags, BitVec.or_assoc, BitVec.or_self]
      show setFlag f (setFlag f s) = setFlag f s
      rw [setFlag, hset, hflags]; rfl

theorem scanFixed_setFlagIf (x : ScanResult) (c : Bool) (f : Flag) (s : State) :
    scanFixed x (setFlagIf c f s) = setFlagIf c f (scanFixed x s) := by
  cases c with
  | true =>
    show scanFixed x (setFlag f s) = setFlag f (scanFixed x s)
    rw [setFlag_eq f (scanFixed x s), setFlag_status (s := s) (t := scanFixed x s) f rfl rfl, setFlag_eq f s]; rfl
  | false => rfl

/-- The state after a read, but for the flag of a damaged slot. -/
def scanAdvanced (y : ResumeScan) (s : State) : State :=
  setFlash (if y.isOver then .free else .reading) { s with notes := { s.notes with resumeScan := some y } }

theorem scanReadEnds_eq (x : ResumeScan) (s : State) :
    scanReadEnds x s = setFlagIf (scanRead s x).2 .notesDamaged (scanAdvanced (scanRead s x).1 s) := rfl

/-- A read that ends leaves the outcome of the scan as it is, but for the damage that it has reported itself. -/
theorem scanOutcome_scanReadEnds {s : State} {x : ResumeScan} (h : s.notes.resumeScan = some x) :
    scanOutcome s = { scanOutcome (scanReadEnds x s) with
      damaged := (scanRead s x).2 || (scanOutcome (scanReadEnds x s)).damaged } := by
  have hnext : scanOutcome (scanReadEnds x s) = scanResult s (scanRead s x).1 := by
    unfold scanOutcome; rw [scanReadEnds_eq, setFlagIf_eq]
    refine scanResult_congr (s := s) ?_ ?_ _ <;> rfl
  rw [hnext, ← scanResult_scanRead]; unfold scanOutcome; rw [h]; rfl

theorem scanFlagged_scanReadEnds {s : State} {x : ResumeScan} (h : s.notes.resumeScan = some x) :
    scanFlagged (scanOutcome (scanReadEnds x s)) (scanReadEnds x s) =
      setFlash (if (scanRead s x).1.isOver then .free else .reading) (scanFlagged (scanOutcome s) s) := by
  have hout := scanOutcome_scanReadEnds h
  generalize scanOutcome (scanReadEnds x s) = z at hout ⊢
  have hdamage : setFlagIf z.damaged .notesDamaged (scanFixed z (scanReadEnds x s)) =
      setFlash (if (scanRead s x).1.isOver then .free else .reading)
        (setFlagIf (scanOutcome s).damaged .notesDamaged (scanFixed (scanOutcome s) s)) := by
    rw [scanReadEnds_eq, scanFixed_setFlagIf, setFlagIf_setFlagIf, hout, ← setFlagIf_setFlash]; rfl
  unfold scanFlagged; rw [hdamage]; exact setFlagIf_setFlash _ _ _ _

/-- A read that ends before the end of the scan changes nothing of that end. -/
theorem resumeEnds_scanReadEnds {s : State} {x : ResumeScan} (h : s.notes.resumeScan = some x) :
    resumeEnds (scanReadEnds x s) = resumeEnds s := by
  have hheld : (scanReadEnds x s).notes.heldNotes = s.notes.heldNotes := by
    rw [scanReadEnds_eq, setFlagIf_eq]; rfl
  have hnotes : resumeNotes (scanReadEnds x s) =
      setFlash (if (scanRead s x).1.isOver then .free else .reading) (resumeNotes s) := by
    have hcount : (scanOutcome (scanReadEnds x s)).restart = (scanOutcome s).restart := by
      rw [scanOutcome_scanReadEnds h]
    rw [resumeNotes_eq, resumeNotes_eq, resumeEntered, resumeEntered, scanFlagged_scanReadEnds h,
      hcount, enterResume_setFlash, hheld, foldl_joinNote_setFlash]
  unfold resumeEnds; rw [hnotes]; rfl

/-! ### The forward scan, read by read (R28) -/

theorem strokesBelow_ne_forward (i w k : Nat) : strokesBelow i w ≠ .forward k := by
  unfold strokesBelow resumesBelow; repeat' split
  all_goals nofun

/-- An erased slot ends the forward scan. -/
theorem scanRead_erased {s : State} {j : Nat} (h : slotErased (slotBytes s j) = true) :
    scanRead s (.forward j) = (strokesBelow j j, false) := by
  simp [scanRead, h]

/-- A slot that is not erased is judged at once, and the scan goes on. -/
theorem scanRead_written {s : State} {j : Nat} (hj : j < notesSlots s) (h : slotErased (slotBytes s j) = false) :
    scanRead s (.forward j) =
      (if j + 1 < notesSlots s then .forward (j + 1) else strokesBelow (j + 1) (j + 1),
        !slotGood (slotBytes s j)) := by
  simp [scanRead, hj, h]

theorem exec_flashReadDone_scan {s : State} {x : ResumeScan} (hp : s.seq.phase = .scan)
    (hx : s.notes.resumeScan = some x) (hf : s.port.flash = .reading) :
    exec .flashReadDone s = .next (scanReadEnds x s) := by
  simp [exec, execFlashReadDone, hf, readEnds, hp, hx]

/-- A read moves the scan on, takes the flash again where a read is left, and changes the status unit at most. -/
theorem scanReadEnds_frame (x : ResumeScan) (s : State) :
    scanReadEnds x s = { scanAdvanced (scanRead s x).1 s with status := (scanReadEnds x s).status } := by
  rw [scanReadEnds_eq, setFlagIf_eq]

/-- A read of the forward scan sets NOTES_DAMAGED for a slot that is neither erased nor good, and no other flag. -/
theorem scanReadEnds_status_forward {s : State} {j : Nat} (hj : j < notesSlots s) :
    (scanReadEnds (.forward j) s).status =
      if slotErased (slotBytes s j) = false ∧ slotGood (slotBytes s j) = false then (setFlag .notesDamaged s).status
      else s.status := by
  rw [scanReadEnds_eq]
  cases he : slotErased (slotBytes s j) with
  | true => rw [scanRead_erased he]; rfl
  | false =>
    rw [scanRead_written hj he]
    cases slotGood (slotBytes s j) with
    | true => rfl
    | false => exact setFlag_status _ rfl rfl

/-! ### The event as a whole -/

/-- The notes that stand behind the RESUME record, in the order in which they are handed (R18). -/
def notesBehind (s : State) : List Note := s.notes.heldNotes ++ heldMarks s

/-- With a slot free, seven notes find room behind the RESUME record (R18, R19). -/
theorem listenEntered_room {s : State} (h : NotesUnopened s) (hfree : 0 < notesSlots s - (scanOutcome s).write) :
    (listenEntered s).notes =
        { (scanFixed (scanOutcome s) s).notes with
          fifo := .resume (scanOutcome s).restart s.seq.resetKind :: (notesBehind s).take 7
          flushTimer := some (s.settings.flush * 100)
          lostCount :=
            if (notesBehind s).length ≤ 7 then s.notes.lostCount
            else addLost s.notes.lostCount ((notesBehind s).length - 7) } ∧
      ∀ f, (listenEntered s).status.isSet f =
        ((scanFlagged (scanOutcome s) s).status.isSet f ||
          (decide (f = .noteLost) && decide (7 < (notesBehind s).length))) := by
  have hentered := resumeEntered_room h hfree
  obtain ⟨-, -, -, -, -, hhalted, hfull, -, -⟩ := h
  have hroom : notesRoom (resumeEntered s) = 7 := by rw [hentered]; simp [notesRoom, scanFixed, hfull]
  obtain ⟨hnotes, hset⟩ := listenEntered_taken (s := s) (by rw [hentered]; exact hhalted)
    (by rw [hentered]; exact fun _ => rfl)
  rw [← notesBehind, lostAfter, hroom] at hnotes
  rw [← notesBehind, hroom] at hset
  rw [hentered] at hnotes hset
  refine ⟨hnotes, fun f => (hset f).trans ?_⟩
  simp [scanFixed, hfull]

/-- In a full region every note is lost, the RESUME record first (R27, R30). -/
theorem listenEntered_full {s : State} (h : NotesUnopened s) (hfree : notesSlots s - (scanOutcome s).write = 0) :
    (listenEntered s).notes =
        { (scanFixed (scanOutcome s) s).notes with
          fifo := [], flushTimer := none, full := true
          lostCount := addLost s.notes.lostCount (1 + (notesBehind s).length) } ∧
      ∀ f, (listenEntered s).status.isSet f =
        ((scanFlagged (scanOutcome s) s).status.isSet f || decide (f = .notesFull)) := by
  obtain ⟨hentered, hflags⟩ := resumeEntered_full h hfree
  obtain ⟨-, -, -, -, -, hhalted, -, -, -⟩ := h
  have hroom : notesRoom (resumeEntered s) = 0 := by rw [notesRoom, hentered]; rfl
  obtain ⟨hnotes, hset⟩ := listenEntered_taken (s := s) (by rw [hentered]; exact hhalted) (by rw [hentered]; nofun)
  rw [← notesBehind, lostAfter, hroom, hentered] at hnotes
  rw [← notesBehind, hentered] at hset
  refine ⟨hnotes.trans ?_, fun f => (hset f).trans ?_⟩
  · have hlost (c n : Nat) : (if n ≤ 0 then addLost c 1 else addLost (addLost c 1) (n - 0)) = addLost c (1 + n) := by
      unfold addLost; split <;> omega
    dsimp only; rw [hlost, List.take_zero, List.append_nil]
  · simp [hflags]

/-- The flags that the event sets before the notes are handed, in the terms of a written region (R28, R30). -/
theorem WrittenUpTo.isSet_scanFlagged {s : State} {r : Region} {j k : Nat} (h : WrittenUpTo s r k) (hj : j ≤ k)
    (hx : s.notes.resumeScan = some (.forward j)) (f : Flag) :
    (scanFlagged (scanOutcome s) s).status.isSet f = true ↔
      s.status.isSet f = true ∨
      (f = .notesDamaged ∧
        ∃ i < k, j ≤ i ∧ slotGood (Memory.readBytes s.port.flashMem (r.base + 16 * i) 16) = false) ∨
      (f = .notesNearFull ∧ r.size / 16 - k < 2 ^ s.settings.nearFull) := by
  have hout : scanOutcome s = Machine.scanResult s (.forward j) := by rw [scanOutcome, hx]; rfl
  obtain ⟨hwrite, hdamaged⟩ := h.scanResult hj
  rw [Machine.isSet_scanFlagged, hout, hwrite, h.1.notesSlots]
  simp only [Bool.or_eq_true, Bool.and_eq_true, decide_eq_true_eq, or_assoc, hdamaged]
  exact or_congr Iff.rfl (or_congr and_comm and_comm)

/-- The end of the scan begins LISTEN, with a burst granted where the FIFO asks for one; beside this it changes the
notes writer, the status unit and the next stroke number only (R39, R175). -/
theorem resumeEnds_frame {s : State} (h : NotesUnopened s) :
    resumeEnds s =
      { s with
        notes := (listenEntered s).notes, status := (listenEntered s).status
        seq := { s.seq with phase := .listen, listenExpiries := 0 }
        port := { s.port with flash := .free, burstGranted := (listenEntered s).notes.wantsBurst }
        scanner :=
          { s.scanner with active := true, heldMark := none, nextStroke := some (scanOutcome s).stroke }
        translator :=
          { s.translator with active := true, markNext := s.translator.markNext || s.scanner.heldMark.isSome }
        peers := { s.peers with timer := some s.settings.presence } } := by
  obtain ⟨-, -, -, -, -, -, -, hsearch, hgrant⟩ := h
  have hclaims : s.lookup.claims = false := by unfold LookupUnit.claims; rw [hsearch]
  have hframe := listenEntered_frame s
  rw [resumeEnds_eq, arbitrate_unclaimed (by rw [hframe]) (by rw [hframe]; exact hclaims)
    (by rw [hframe]; exact hgrant), hframe]

theorem exec_resumeScanEnd {s : State} (h : s.seq.phase = .scan) : exec .resumeScanEnd s = .next (resumeEnds s) :=
  congrArg Host.Outcome.next (if_pos h)

/-! ### The statement -/

/-- Settles O11: the end of the scan opens the FIFO behind its outcome, and a read before it leaves that outcome. -/
theorem resumeScanOpensTheNotes : Obligations.ResumeScanOpensTheNotes := by
  refine ⟨fun s r j k hp hun hwritten hx hj => ?_, fun s x hp hx hf => ?_, fun s hf => ?_⟩
  · intro marks handed free slot
    have hout : scanOutcome s = scanResult s (.forward j) := by rw [scanOutcome, hx]; rfl
    have hwrite : (scanOutcome s).write = k := by rw [hout]; exact (hwritten.scanResult hj).1
    have hleft : notesSlots s - (scanOutcome s).write = free := by rw [hwrite, hwritten.1.notesSlots]
    have hpos : some (16 * (scanOutcome s).write) = some (16 * k) := by rw [hwrite]
    have hflags := hwritten.isSet_scanFlagged hj hx
    refine ⟨resumeEnds s, exec_resumeScanEnd hp, ?_⟩
    rw [resumeEnds_frame hun]; dsimp only
    rcases Nat.eq_zero_or_pos free with hzero | hfree
    · obtain ⟨hnotes, hset⟩ := listenEntered_full hun (hleft.trans hzero)
      obtain ⟨-, -, hburst, -, -, hhalted, -, -, -⟩ := hun
      rw [hnotes]
      refine ⟨hpos, rfl, rfl, rfl, hhalted, hburst, by rw [hzero]; rfl, fun f => ?_, fun h => absurd h (by omega),
        fun _ => ⟨rfl, rfl, ?_, fun _ => ?_⟩, rfl, rfl, rfl, rfl, rfl, rfl⟩
      · rw [hset, Bool.or_eq_true, hflags, decide_eq_true_eq, or_assoc, or_assoc]
        refine or_congr Iff.rfl (or_congr Iff.rfl (or_congr Iff.rfl ?_))
        simp [hzero]
      · simp [NotesWriter.wantsBurst, NotesWriter.pathOpen]
      · unfold addLost; rw [← Nat.add_assoc]; rfl
    · obtain ⟨hnotes, hset⟩ := listenEntered_room hun (by omega)
      obtain ⟨-, -, hburst, -, hdue, hhalted, hfull, -, -⟩ := hun
      rw [show notesBehind s = handed from rfl] at hnotes hset
      rw [hnotes]
      refine ⟨hpos, rfl, rfl, rfl, hhalted, hburst, ?_, fun f => ?_,
        fun _ => ⟨_, rfl, rfl, fun h => ?_, fun h _ => ?_, rfl, ?_⟩, fun h => absurd h (by omega),
        rfl, rfl, rfl, rfl, rfl, rfl⟩
      · rw [decide_eq_false hfree.ne']; exact hfull
      · rw [hset, Bool.or_eq_true, Bool.and_eq_true, hflags, decide_eq_true_eq, decide_eq_true_eq, or_assoc, or_assoc]
        refine or_congr Iff.rfl (or_congr Iff.rfl (or_congr Iff.rfl ?_))
        simp [hfree, hfree.ne']
      · exact if_pos h
      · exact if_neg (by omega)
      · simp [NotesWriter.wantsBurst, NotesWriter.pathOpen, NotesWriter.waiting, scanFixed, hburst, hdue, hhalted,
          hfull]
  · have hframe := scanReadEnds_frame x s
    have hphase : (scanReadEnds x s).seq.phase = .scan := by rw [hframe]; exact hp
    refine ⟨_, (scanRead s x).1, exec_flashReadDone_scan hp hx hf, ?_, ?_, ?_, hframe⟩
    · rw [exec_resumeScanEnd hphase, exec_resumeScanEnd hp, resumeEnds_scanReadEnds hx]
    · rintro r j hr rfl hj
      rw [← hr.notesSlots] at hj ⊢
      dsimp only; rw [← hr.slotBytes (by rwa [hr.notesSlots] at hj), scanReadEnds_status_forward hj]
      refine ⟨fun he => ?_, fun he hbad => if_pos ⟨he, hbad⟩, fun he hgood => ?_, fun he hnext => ?_⟩
      · rw [scanRead_erased he, he]; exact ⟨rfl, strokesBelow_ne_forward j j⟩
      · rw [hgood]; simp
      · rw [scanRead_written hj he, if_pos hnext]
    · rw [hframe]
      show (if (scanRead s x).1.isOver then FlashState.free else .reading) = .free ↔ _
      cases (scanRead s x).1.isOver <;> simp
  · exact congrArg Host.Outcome.next (if_neg hf)

end Sys2Proof.Machine
end

section
/-! PROOFS. A burst reported done: the records it has programmed, the next operation, the write position behind the
last one (R22, R23, R27, R35, R37). -/

namespace Sys2Proof.Machine

/-- Inside the span programmed, each byte keeps the bits that the data keeps (R35). -/
theorem Memory.read_program_inside {m : Memory} (hm : Memory.wf m) (a : Nat) (bs : List Byte) {i : Nat}
    (hi : i < bs.length) : Memory.read (Memory.program m a bs) (a + i) = Memory.read m (a + i) &&& bs[i] := by
  induction bs generalizing m a i with
  | nil => simp at hi
  | cons b bs ih =>
    cases i with
    | zero =>
      rw [Memory.program, Memory.read_program_outside _ _ _ (by omega), Nat.add_zero, Memory.read_write_same hm]
      rfl
    | succ i =>
      rw [Memory.program, show a + (i + 1) = a + 1 + i by omega,
        ih (Memory.wf_write hm a _) (a + 1) (by simpa using hi), Memory.read_write_ne _ _ (by omega)]
      rfl

/-- An operation of the burst in flight is done in the device, and the flash is free (R35, R37). -/
def operationProgrammed (b : Burst) (s : State) : State :=
  endProgram
    { s with
      port := { s.port with flashMem := Memory.program s.port.flashMem (opData s b).1 (opData s b).2 } }

theorem operationDone_next {s : State} {b : Burst} {op op' : Nat × Nat} {ops : List (Nat × Nat)}
    (hb : s.notes.burst = some b) (ho : b.ops = op :: op' :: ops) :
    operationDone s =
      startProgram (setBurst (some { b with ops := op' :: ops }) (operationProgrammed b s)) := by
  unfold operationDone; rw [hb]; dsimp only; rw [ho]; rfl

theorem operationDone_last {s : State} {b : Burst} {op : Nat × Nat} (hb : s.notes.burst = some b)
    (ho : b.ops = [op]) (hs : b.stage ≠ .overwrite) :
    operationDone s = burstSuccess b (operationProgrammed b s) := by
  unfold operationDone; rw [hb]; dsimp only; rw [ho]
  cases hst : b.stage with
  | overwrite => exact absurd hst hs
  | first => rfl
  | second => rfl

/-- A program of whole record slots that stays in one page of the notes region is allowed (R22, R34). -/
theorem programAllowed_of_fits {s : State} {b : Burst} {r : Region} {slot n : Nat} {ops : List (Nat × Nat)}
    (hb : s.notes.burst = some b) (hr : NotesRegion s r) (ho : b.ops = (slot, n) :: ops) (hf : OpsFit r b.ops) :
    programAllowed s = true := by
  obtain ⟨hreg, -, hops, c, hbase⟩ := hr
  obtain ⟨h1, hpage, hsize⟩ := hf (slot, n) (by rw [ho]; exact List.mem_cons_self)
  dsimp only at h1 hpage hsize
  have hspan : (256 * c + 16 * slot) / 256 = (256 * c + 16 * slot + 16 * n - 1) / 256 := by omega
  simp only [programAllowed, hb, Option.map_some, ho, MemoryPort.allows, hreg, hops, hbase, hspan]
  simp [PortOp.isProgram]
  omega

section
variable {s : State} {b : Burst} {r : Region} {w slot m : Nat} {rest : List (Nat × Nat)}

theorem InBurst.writeSlot (h : InBurst s b r w) : writeSlot s = w := by
  obtain ⟨-, -, hpos, -⟩ := h
  simp [Machine.writeSlot, hpos]

theorem InBurst.notesSlots (h : InBurst s b r w) : notesSlots s = r.size / 16 := h.2.1.notesSlots

/-- Outside the overwrite an operation programs the records of its place in the burst (R22). -/
theorem InBurst.opData_records (h : InBurst s b r w) (hs : b.stage ≠ .overwrite) (ho : b.ops = (slot, m) :: rest)
    (hcount : slot - w + m ≤ b.count) (hfifo : b.count ≤ s.notes.fifo.length) :
    opData s b = (r.base + 16 * slot, ((s.notes.fifo.drop (slot - w)).take m).flatMap Note.bytes) := by
  have hbase : notesBase s = r.base := by unfold notesBase; rw [h.2.1.1]; rfl
  have hstage : stageBase s b = w := by
    unfold stageBase
    cases hst : b.stage with
    | overwrite => exact absurd hst hs
    | first => exact h.writeSlot
    | second => exact h.writeSlot
  have hrecord : ∀ i, recordFor s.notes b i = (s.notes.fifo.take b.count).getD i .void := fun i => by
    unfold recordFor burstRecords
    cases hst : b.stage with
    | overwrite => exact absurd hst hs
    | first => rfl
    | second => rfl
  have hrecords : (List.range m).map (fun i => recordFor s.notes b (slot - w + i)) =
      (s.notes.fifo.drop (slot - w)).take m := by
    apply List.ext_getElem
    · simp; omega
    · intro i h1 h2
      simp at h1 h2
      simp [hrecord, List.getD_eq_getElem?_getD, List.getElem?_take, show slot - w + i < b.count by omega,
        List.getElem?_eq_getElem (show slot - w + i < s.notes.fifo.length by omega)]
  unfold opData; rw [ho, hbase, hstage, ← hrecords, List.flatMap_map]

end

/-- The check of the region changes the notes writer and the status unit only (R27). -/
theorem checkRegion_frame (before : Nat) (s : State) :
    checkRegion before s =
      { s with notes := (checkRegion before s).notes, status := (checkRegion before s).status } := by
  unfold checkRegion becomeFull; dsimp only; split
  · rw [setFlag_eq, setFlagIf_eq]
  · rw [setFlagIf_eq]

theorem isSet_checkRegion (before : Nat) (s : State) (f : Flag) :
    (checkRegion before s).status.isSet f =
      (s.status.isSet f ||
        (decide (2 ^ s.settings.nearFull ≤ before) && decide (freeSlots s < 2 ^ s.settings.nearFull)) &&
          decide (f = .notesNearFull) ||
        decide (freeSlots s = 0) && decide (f = .notesFull)) := by
  have hfree : ∀ c f, freeSlots (setFlagIf c f s) = freeSlots s := fun c f => by rw [setFlagIf_eq]; rfl
  unfold checkRegion becomeFull; dsimp only; rw [hfree]; split
  · rename_i h
    rw [isSet_setFlag]; simp only [isSet_setFlagIf, h, decide_true, Bool.true_and]
  · rename_i h
    rw [isSet_setFlagIf]; simp only [h, decide_false, Bool.false_and, Bool.or_false]

/-- The records are stored: they leave the FIFO with the counts of the LOST ones, and the write position has passed
them; the region is still to be checked (R23). -/
def recordsStored (b : Burst) (s : State) : State :=
  advanceWrite b.count
    { s with
      notes :=
        { s.notes with
          fifo := s.notes.fifo.drop b.count, burst := none
          lostCount := s.notes.lostCount - lostCarried (burstRecords s.notes b) } }

/-- The records are stored, and the region is checked for its threshold and for its end (R23, R27). -/
def storedAndChecked (b : Burst) (s : State) : State := checkRegion (freeSlots s) (recordsStored b s)

theorem burstSuccess_eq (b : Burst) (s : State) : burstSuccess b s = releaseFlash (storedAndChecked b s) := rfl

/-- Beside the notes writer and the status unit the check leaves everything as the operation has left it. -/
theorem storedAndChecked_frame (b : Burst) (s : State) :
    storedAndChecked b s =
      { s with notes := (storedAndChecked b s).notes, status := (storedAndChecked b s).status } :=
  checkRegion_frame _ _

section
variable {s : State} {b : Burst} {r : Region} {w : Nat}

theorem InBurst.freeSlots (h : InBurst s b r w) : freeSlots s = r.size / 16 - w := by
  unfold Machine.freeSlots; rw [h.notesSlots, h.writeSlot]

theorem InBurst.writePos_eq (h : InBurst s b r w) : s.notes.writePos = some (16 * w) := by
  obtain ⟨-, -, hpos, -⟩ := h; exact hpos

theorem InBurst.freeSlots_stored (h : InBurst s b r w) :
    Machine.freeSlots (recordsStored b s) = r.size / 16 - (w + b.count) := by
  show Machine.notesSlots s - (s.notes.writePos.getD 0 + 16 * b.count) / 16 = _
  rw [h.notesSlots, h.writePos_eq, Option.getD_some]; omega

theorem InBurst.recordsStored_notes (h : InBurst s b r w) :
    (recordsStored b s).notes =
      { s.notes with
        fifo := s.notes.fifo.drop b.count, burst := none, writePos := some (16 * (w + b.count))
        lostCount := s.notes.lostCount - lostCarried (s.notes.fifo.take b.count) } := by
  simp [recordsStored, h.writePos_eq, burstRecords, Nat.mul_add]

/-- The write position has passed the records, which have left the FIFO; a region then full loses the rest (R23,
R27). -/
theorem InBurst.storedAndChecked_notes (h : InBurst s b r w) :
    (storedAndChecked b s).notes =
      let stored :=
        { s.notes with
          fifo := s.notes.fifo.drop b.count, burst := none, writePos := some (16 * (w + b.count))
          lostCount := s.notes.lostCount - lostCarried (s.notes.fifo.take b.count) }
      if r.size / 16 - (w + b.count) = 0 then
        { stored with
          full := true, lostCount := addLost stored.lostCount (handedCount stored.fifo), fifo := []
          flushTimer := none }
      else stored := by
  rw [storedAndChecked, checkRegion_notes, h.freeSlots_stored, h.recordsStored_notes]

/-- The stored records set no flag but that of the threshold crossed and that of the region full (R27). -/
theorem InBurst.isSet_storedAndChecked (h : InBurst s b r w) (f : Flag) :
    (storedAndChecked b s).status.isSet f = true ↔
      s.status.isSet f = true ∨
      (f = .notesNearFull ∧ 2 ^ s.settings.nearFull ≤ r.size / 16 - w ∧
        r.size / 16 - (w + b.count) < 2 ^ s.settings.nearFull) ∨
      (f = .notesFull ∧ r.size / 16 ≤ w + b.count) := by
  have hstatus : (recordsStored b s).status = s.status := rfl
  have hsettings : (recordsStored b s).settings = s.settings := rfl
  rw [storedAndChecked, isSet_checkRegion, h.freeSlots, h.freeSlots_stored, hstatus, hsettings]
  simp only [Bool.or_eq_true, Bool.and_eq_true, decide_eq_true_eq, Nat.sub_eq_zero_iff_le]
  tauto

end

/-- The arbiter's decision at the end of a program moves the flash state, its timer and the grant only. -/
theorem releaseFlash_eq (s : State) :
    releaseFlash s =
      { s with
        port :=
          { s.port with
            flash := (releaseFlash s).port.flash, timer := none
            burstGranted := (releaseFlash s).port.burstGranted } } := by
  unfold releaseFlash; rw [arbitrate_eq]; rfl

/-- After the last operation the flash is free where neither a lookup nor the notes writer claims it (R40). -/
theorem releaseFlash_free {s : State} (h : s.lookup.claims = false) : (releaseFlash s).port.flash = .free := by
  rw [releaseFlash, arbitrate_flash (by rw [endProgram_lookup, h])]; rfl

/-- Settles O22: the operation reported done is followed by the next one, or the burst succeeds and its region is
checked. -/
theorem burstSuccessAdvancesWritePosition : Obligations.BurstSuccessAdvancesWritePosition := by
  intro s b r w slot m rest hin hflash hstage hops _ hcount hfifo hwf data
  have hexec : exec (.programPollResult false) s = .next (operationDone s) := by
    simp [exec, execProgramPollResult, hflash]
  have hmem : (operationProgrammed b s).port.flashMem =
      Memory.program s.port.flashMem (r.base + 16 * slot) data := by
    unfold operationProgrammed; rw [hin.opData_records hstage hops hcount hfifo]; rfl
  have hprogrammed : ∀ t : State, t.port.flashMem = (operationProgrammed b s).port.flashMem →
      ProgrammedAt s t (r.base + 16 * slot) data := by
    intro t ht
    unfold ProgrammedAt; rw [ht, hmem]
    exact ⟨fun i hi => Memory.read_program_inside hwf _ _ hi, fun x hx => Memory.read_program_outside _ _ _ hx⟩
  obtain ⟨hburst, hregion, -, -, -, -, hfull, hfits, -⟩ := id hin
  cases rest with
  | cons op ops =>
    have hallowed : programAllowed (setBurst (some { b with ops := op :: ops }) (operationProgrammed b s)) = true :=
      programAllowed_of_fits (b := { b with ops := op :: ops }) rfl hregion rfl
        fun o ho => hfits o (by rw [hops]; exact List.mem_cons_of_mem _ ho)
    rw [operationDone_next hburst hops, startProgram_of_allowed hallowed] at hexec
    exact ⟨_, hexec, hprogrammed _ rfl, rfl, fun _ => ⟨rfl, rfl, rfl, rfl⟩, nofun, rfl, rfl⟩
  | nil =>
    have hdone : InBurst (operationProgrammed b s) b r w := hin
    have hnotes := hdone.storedAndChecked_notes
    rw [operationDone_last hburst hops hstage, burstSuccess_eq, releaseFlash_eq, storedAndChecked_frame] at hexec
    refine ⟨_, hexec, hprogrammed _ rfl, rfl, fun h => absurd rfl h, fun _ => ?_, rfl, rfl⟩
    refine ⟨?_, ?_, fun hroom => ?_, fun hnone => ?_, hdone.isSet_storedAndChecked,
      fun hclaims _ => releaseFlash_free hclaims⟩
    · rw [hnotes]; split <;> rfl
    · rw [hnotes]; split <;> rfl
    · rw [hnotes, if_neg (by omega)]; exact ⟨rfl, hfull, rfl, rfl⟩
    · rw [hnotes, if_pos (by omega)]
      exact ⟨rfl, rfl, (hdone.isSet_storedAndChecked _).2 (.inr (.inr ⟨rfl, hnone⟩)), rfl, rfl⟩

end Sys2Proof.Machine
end

section
/-! PROOFS. The probe of a window read by read: what a read of a sub-span answers, what stands in an entry, what each
read of a probe leads to, and how the windows' results combine (R34, R36, R44, R45, R47, R48). -/

namespace Sys2Proof.Machine

/-! ### Reads inside a span that has been read (R32, R34) -/

theorem Memory.readBytes_drop_take (m : Memory) (a len : Nat) {i k : Nat} (h : i + k ≤ len) :
    ((Memory.readBytes m a len).drop i).take k = Memory.readBytes m (a + i) k := by
  apply List.ext_getElem
  · simp [Memory.readBytes]; omega
  · intro j _ _; simp [Memory.readBytes, Nat.add_assoc]

/-- Where a span is read, so is any part of it, with the bytes of its place. -/
theorem MemoryPort.readAt_part {p : MemoryPort} {n : RegionName} {off len : Nat} {bs : List Byte}
    (h : p.readAt n off len = some bs) {i k : Nat} (hk : 1 ≤ k) (hik : i + k ≤ len) :
    p.readAt n (off + i) k = some ((bs.drop i).take k) := by
  have hop : ∀ op : PortOp, op.isProgram = false →
      (if p.allows n op off len then some (p.bytesAt n off len) else none) =
      some bs → (if p.allows n op (off + i) k then some (p.bytesAt n (off + i) k) else none) =
        some ((bs.drop i).take k) := by
    intro op hop h
    split at h
    · rename_i hallow
      obtain ⟨r, hr, -⟩ := MemoryPort.allows_inside hallow
      rw [MemoryPort.allows_eq hr hop] at hallow ⊢
      simp only [Bool.and_eq_true, decide_eq_true_eq] at hallow ⊢
      rw [if_pos ⟨⟨hallow.1.1, hk⟩, by omega⟩, ← Option.some.inj h]
      simp only [MemoryPort.bytesAt, hr, Memory.readBytes_drop_take _ _ _ hik, Nat.add_assoc]
    · cases h
  unfold MemoryPort.readAt at h ⊢
  cases n <;> exact hop _ rfl h

/-- A read that is not refused answers the bytes that stand there. -/
theorem MemoryPort.readAt_of_ne_none {p : MemoryPort} {n : RegionName} {off len : Nat}
    (h : p.readAt n off len ≠ none) : p.readAt n off len = some (p.bytesAt n off len) := by
  cases hread : p.readAt n off len with
  | none => exact absurd hread h
  | some bs => exact (Option.ite_none_right_eq_some.1 hread).2.symm

/-! ### What stands in an entry (R44, R45) -/

theorem flatMap_beBytes_length (n : Nat) (outline : List KeySet) :
    (outline.flatMap fun o => beBytes n o.toNat).length = n * outline.length := by
  induction outline with
  | nil => rfl
  | cons o os ih => rw [List.flatMap_cons, List.length_append, ih]; simp [beBytes]; ring

/-- A key set reads back from the three bytes that it is stored in. -/
theorem beNat_beBytes_keys (k : KeySet) : beNat (beBytes 3 k.toNat) = k.toNat := by
  have hk : k.toNat < 2 ^ 23 := k.isLt
  simp [beBytes, beNat, List.range_succ]
  omega

theorem fieldAt_append {pre bs rest : List Byte} : fieldAt (pre ++ bs ++ rest) pre.length bs.length = beNat bs := by
  unfold fieldAt; rw [List.append_assoc, List.drop_left, List.take_left]

/-- The key sets stored behind some bytes read back. -/
theorem rawKeys_stored (pre : List Byte) (outline : List KeySet) :
    rawKeys (pre ++ outline.flatMap fun o => beBytes 3 o.toNat) pre.length outline.length =
      outline.map BitVec.toNat := by
  induction outline generalizing pre with
  | nil => rfl
  | cons o os ih =>
    have hfirst : fieldAt (pre ++ beBytes 3 o.toNat ++ os.flatMap fun o => beBytes 3 o.toNat) pre.length 3 = o.toNat :=
      fieldAt_append.trans (beNat_beBytes_keys o)
    have hrest := ih (pre ++ beBytes 3 o.toNat)
    have hlength : (pre ++ beBytes 3 o.toNat).length = pre.length + 3 := by simp [beBytes]
    rw [hlength] at hrest
    unfold rawKeys at hrest ⊢
    rw [List.flatMap_cons, ← List.append_assoc, List.length_cons, List.range_succ_eq_map, List.map_cons, List.map_cons,
      List.map_map, ← hrest, Nat.mul_zero, Nat.add_zero, hfirst]
    congr 2; funext i; simp only [Function.comp_apply]; congr 1; omega

theorem EntryKind.ofCode_code (k : EntryKind) : EntryKind.ofCode k.code = some k := by cases k <;> rfl

/-- A kind code outside 1 to 3 has no kind. -/
theorem EntryKind.ofCode_eq_none {c : Nat} (h : c < 1 ∨ 3 < c) : EntryKind.ofCode c = none := by
  unfold EntryKind.ofCode; split <;> first | omega | rfl

section
variable {port : MemoryPort} {r : RegionName} {g : Geometry} {v : Nat} {k : EntryKind} {outline : List KeySet}
  {text : List Byte}

/-- The kind, the stroke count and the key sets of an entry. -/
def entryHead (k : EntryKind) (outline : List KeySet) : List Byte :=
  [BitVec.ofNat 8 k.code, BitVec.ofNat 8 outline.length] ++ outline.flatMap fun o => beBytes 3 o.toNat

theorem entryHead_length (k : EntryKind) (outline : List KeySet) :
    (entryHead k outline).length = 2 + 3 * outline.length := by
  rw [entryHead, List.length_append, flatMap_beBytes_length]; rfl

theorem EntryAt.readAt_whole (h : EntryAt port r g v k outline text) :
    port.readAt r (g.heapBase + v) (3 + 3 * outline.length + text.length) =
      some (entryHead k outline ++ (BitVec.ofNat 8 text.length :: text)) := by
  obtain ⟨-, -, -, -, hwhole⟩ := h
  rw [hwhole]; simp [entryHead]

theorem EntryAt.readAt_counts (h : EntryAt port r g v k outline text) :
    port.readAt r (g.heapBase + v) 2 = some [BitVec.ofNat 8 k.code, BitVec.ofNat 8 outline.length] :=
  MemoryPort.readAt_part h.readAt_whole (i := 0) (by omega) (by omega)

theorem EntryAt.readAt_head (h : EntryAt port r g v k outline text) :
    port.readAt r (g.heapBase + v) (2 + 3 * outline.length) = some (entryHead k outline) := by
  refine (MemoryPort.readAt_part h.readAt_whole (i := 0) (by omega) (by omega)).trans ?_
  rw [List.drop_zero, ← entryHead_length k, List.take_left]

/-- The text length and the text of an entry are read behind its key sets. -/
theorem EntryAt.readAt_text (h : EntryAt port r g v k outline text) {n : Nat} (h1 : 1 ≤ n) (hn : n ≤ 1 + text.length) :
    port.readAt r (g.heapBase + v + 2 + 3 * outline.length) n =
      some ((BitVec.ofNat 8 text.length :: text).take n) := by
  rw [Nat.add_assoc (g.heapBase + v)]
  refine (MemoryPort.readAt_part h.readAt_whole h1 (by omega)).trans ?_
  rw [← entryHead_length k, List.drop_left]

theorem EntryAt.rawKeys_head (_h : EntryAt port r g v k outline text) :
    rawKeys (entryHead k outline) 2 outline.length = outline.map BitVec.toNat :=
  rawKeys_stored [BitVec.ofNat 8 k.code, BitVec.ofNat 8 outline.length] outline

end

/-! ### What each read of a probe leads to (R44, R45) -/

section
variable {port : MemoryPort} {r : RegionName} {g : Geometry} {wanted : List KeySet} {p : Probe} {v : Nat}
  {k : EntryKind} {outline : List KeySet} {text : List Byte}

theorem probeStep_slot (h : p.read = .slot) : probeStep port r g wanted p = onSlot port r g p := by
  unfold probeStep; rw [h]

theorem probeStep_entry (h : p.read = .entry v) : probeStep port r g wanted p = onEntry port r g wanted p v := by
  unfold probeStep; rw [h]

theorem probeStep_text (h : p.read = .text v k) : probeStep port r g wanted p = onText port r g wanted v k := by
  unfold probeStep; rw [h]

theorem onSlot_refused (h : port.readAt r (g.slotBase + 4 * p.slot) 4 = none) : onSlot port r g p = .bad := by
  unfold onSlot; rw [h]

/-- A slot that is read: empty and deleted slots, an offset outside the heap or refused, and the entry's read. -/
theorem onSlot_read (h : port.readAt r (g.slotBase + 4 * p.slot) 4 ≠ none) :
    onSlot port r g p =
      let v := slotAt port r g p.slot
      if v = 0xFFFFFFFF then .miss
      else if v = 0xFFFFFFFE then probeOn g p
      else if g.heapSize ≤ v then .bad
      else requestRead port r (g.heapBase + v) 2 { p with read := .entry v } := by
  unfold onSlot; rw [MemoryPort.readAt_of_ne_none h]; rfl

theorem requestRead_refused {off least : Nat} (h : port.readAt r off least = none) :
    requestRead port r off least p = .bad := by
  unfold requestRead; rw [h]; rfl

theorem requestRead_granted {off least : Nat} (h : port.readAt r off least ≠ none) :
    requestRead port r off least p = .more p := by
  unfold requestRead; rw [if_pos (Option.isSome_iff_ne_none.2 h)]

/-- An entry that stands whole in the heap is a hit where it is of the outline, and else the probe goes on. -/
theorem onEntry_entryAt (h : EntryAt port r g v k outline text) :
    onEntry port r g wanted p v =
      if outline = wanted then
        if k = .cont then .ended none true false else .more { p with read := .text v k }
      else probeOn g p := by
  obtain ⟨hn1, hn8, -, -, -⟩ := id h
  have hcount : fieldAt [BitVec.ofNat 8 k.code, BitVec.ofNat 8 outline.length] 1 1 = outline.length := by
    simp [fieldAt, beNat]; omega
  have hkind : fieldAt [BitVec.ofNat 8 k.code, BitVec.ofNat 8 outline.length] 0 1 = k.code := by
    cases k <;> rfl
  have hkeys : (outline.map BitVec.toNat = wanted.map BitVec.toNat) = (outline = wanted) :=
    propext (List.map_injective_iff.2 fun _ _ => BitVec.eq_of_toNat_eq).eq_iff
  unfold onEntry
  simp only [h.readAt_counts, hcount, hkind, EntryKind.ofCode_code, h.readAt_head, h.rawKeys_head, hkeys]
  rw [if_neg (by omega)]
  refine if_congr Iff.rfl ?_ rfl
  have htext : port.readAt r (g.heapBase + v + 2 + 3 * outline.length) 1 ≠ none := by
    rw [h.readAt_text (by omega) (by omega)]; nofun
  cases k with
  | cont => rfl
  | word => exact requestRead_granted htext
  | wordCont => exact requestRead_granted htext

/-- A stroke count or a kind out of range, or key sets that are refused, make the entry bad (R44). -/
theorem onEntry_bad {head : List Byte} (h : port.readAt r (g.heapBase + v) 2 = some head)
    (hbad : fieldAt head 1 1 < 1 ∨ 8 < fieldAt head 1 1 ∨ fieldAt head 0 1 < 1 ∨ 3 < fieldAt head 0 1 ∨
      port.readAt r (g.heapBase + v) (2 + 3 * fieldAt head 1 1) = none) :
    onEntry port r g wanted p v = .bad := by
  unfold onEntry; rw [h]; dsimp only
  split
  · rfl
  · rename_i hn
    rcases hbad with hn' | hn' | hk | hk | hread
    · exact absurd (.inl hn') hn
    · exact absurd (.inr hn') hn
    · rw [EntryKind.ofCode_eq_none (.inl hk)]
    · rw [EntryKind.ofCode_eq_none (.inr hk)]
    · rw [hread]; cases EntryKind.ofCode (fieldAt head 0 1) <;> rfl

theorem onText_entryAt (h : EntryAt port r g v k outline text) :
    onText port r g outline v k = .ended (some (k, text)) (k == .wordCont) false := by
  obtain ⟨-, -, h120, hheap, -⟩ := id h
  have hlen : fieldAt ((BitVec.ofNat 8 text.length :: text).take 1) 0 1 = text.length := by
    simp [fieldAt, beNat]; omega
  unfold onText
  simp only [h.readAt_text (n := 1) (by omega) (by omega), hlen]
  rw [if_neg (by omega)]
  simp only [h.readAt_text (n := 1 + text.length) (by omega) le_rfl]
  rw [List.take_of_length_le (by simp [Nat.add_comm])]; rfl

/-- A text that is too long, or does not lie in the heap, is bad (R45). -/
theorem onText_bad {length : Byte} (h : port.readAt r (g.heapBase + v + 2 + 3 * outline.length) 1 = some [length])
    (hbad : 120 < length.toNat ∨ g.heapSize < v + 3 + 3 * outline.length + length.toNat) :
    onText port r g outline v k = .bad := by
  have hlen : fieldAt [length] 0 1 = length.toNat := by simp [fieldAt, beNat]
  unfold onText; dsimp only; rw [h]; dsimp only; rw [hlen, if_pos hbad]

end

/-! ### The end of a window's probe (R47, R48) -/

/-- The windows of a list with what the lookup unit holds of each. -/
def LookupUnit.windows (l : LookupUnit) (ws : List Window) : List (Window × Option Geometry) :=
  ws.map fun w => (w, l.geometry w)

/-- Going on to the next window changes the window and the probe only. -/
theorem nextWindow_kept (l : LookupUnit) (q : Search) (ws : List Window) :
    nextWindow l q ws = { q with window := (nextWindow l q ws).window, probe := (nextWindow l q ws).probe } := by
  induction ws with
  | nil => rfl
  | cons w ws ih =>
    unfold nextWindow
    cases l.geometry w with
    | none => exact ih
    | some g => rfl

theorem nextWindow_none (l : LookupUnit) (q : Search) {ws : List Window}
    (h : (l.windows ws).all (fun w => w.2.isNone) = true) : (nextWindow l q ws).probe = none := by
  induction ws with
  | nil => rfl
  | cons w ws ih =>
    simp only [LookupUnit.windows, List.map_cons, List.all_cons, Bool.and_eq_true, Option.isNone_iff_eq_none] at h ih
    unfold nextWindow; rw [h.1]; exact ih h.2

/-- The first enabled window of the list is searched from the home slot on. -/
theorem nextWindow_enabled (l : LookupUnit) (q : Search) {ws : List Window} {skipped : List (Window × Option Geometry)}
    {w : Window} {g : Geometry} {rest : List (Window × Option Geometry)}
    (h : l.windows ws = skipped ++ (w, some g) :: rest) (hs : skipped.all (fun x => x.2.isNone) = true) :
    (nextWindow l q ws).window = w ∧ (nextWindow l q ws).probe = some ⟨q.hash.toNat % g.slots, 0, .slot⟩ := by
  induction ws generalizing skipped with
  | nil => cases skipped <;> cases h
  | cons a ws ih =>
    cases skipped with
    | nil =>
      simp only [LookupUnit.windows, List.map_cons, List.nil_append, List.cons.injEq, Prod.mk.injEq] at h
      obtain ⟨⟨rfl, hg⟩, -⟩ := h
      unfold nextWindow; rw [hg]; exact ⟨rfl, rfl⟩
    | cons x xs =>
      simp only [LookupUnit.windows, List.map_cons, List.cons_append, List.cons.injEq] at h
      simp only [List.all_cons, Bool.and_eq_true, Option.isNone_iff_eq_none] at hs
      obtain ⟨hx, hxs⟩ := hs
      obtain ⟨rfl, hrest⟩ := h
      unfold nextWindow; rw [show l.geometry a = none from hx]; exact ih hrest hxs

/-- The result of a search with a window's result added (R48). -/
def withResult (q : Search) (text : Option (EntryKind × List Byte)) (cont : Bool) : Search :=
  { q with result := q.result.add q.window text cont }

/-- The end of a window's probe: the search is over where neither part of the result can change, and else the next
enabled window is searched (R47, R48). -/
theorem windowEnded_eq (l : LookupUnit) (q : Search) (text : Option (EntryKind × List Byte)) (cont : Bool) :
    windowEnded l q text cont =
      if (withResult q text cont).result.settled then { withResult q text cont with probe := none }
      else nextWindow l (withResult q text cont) q.window.later := rfl

theorem windowEnded_kept (l : LookupUnit) (q : Search) (text : Option (EntryKind × List Byte)) (cont : Bool) :
    windowEnded l q text cont =
      { withResult q text cont with
        window := (windowEnded l q text cont).window, probe := (windowEnded l q text cont).probe } := by
  rw [windowEnded_eq]; split
  · rfl
  · exact nextWindow_kept l _ _

/-- W0 is not searched behind another window. -/
theorem windowEnded_window (l : LookupUnit) {q : Search} (text : Option (EntryKind × List Byte)) (cont : Bool)
    (h : q.window ≠ .w0) : (windowEnded l q text cont).window ≠ .w0 := by
  have hnext : ∀ (ws : List Window) (x : Search), .w0 ∉ ws → x.window ≠ .w0 → (nextWindow l x ws).window ≠ .w0 := by
    intro ws
    induction ws with
    | nil => exact fun x _ hx => hx
    | cons w ws ih =>
      intro x hws hx
      unfold nextWindow
      cases l.geometry w with
      | none => exact ih x (fun hw => hws (List.mem_cons_of_mem _ hw)) hx
      | some g => exact fun hw => hws (hw ▸ List.mem_cons_self)
  rw [windowEnded_eq]; split
  · exact h
  · exact hnext _ _ (by cases q.window <;> simp [Window.later]) h

/-! ### FLASH_READ_DONE (R36) -/

theorem setFlagIf_status {s t : State} (c : Bool) (f : Flag) (h1 : t.seq = s.seq) (h2 : t.status = s.status) :
    (setFlagIf c f t).status = (setFlagIf c f s).status := by
  cases c with
  | false => exact h2
  | true => exact setFlag_status f h1 h2

/-- What a completed read makes of the search, and whether it sets DICT_BAD. -/
def readOutcome (l : LookupUnit) (q : Search) : ProbeStep → Search × Bool
  | .more p => ({ q with probe := some p }, false)
  | .ended text cont bad => (windowEnded l q text cont, bad)

theorem searchStep_eq (s : State) (q : Search) (step : ProbeStep) :
    searchStep s q step =
      setFlagIf (readOutcome s.lookup q step).2 .dictBad (setSearch (some (readOutcome s.lookup q step).1) s) := by
  cases step <;> rfl

theorem readOutcome_window (l : LookupUnit) {q : Search} (h : q.window ≠ .w0) (step : ProbeStep) :
    (readOutcome l q step).1.window ≠ .w0 := by
  cases step with
  | more p => exact h
  | ended text cont bad => exact windowEnded_window l text cont h

/-- Going on to the next slot, up to the probe limit. -/
theorem readOutcome_probeOn (l : LookupUnit) (q : Search) (g : Geometry) (p : Probe) :
    readOutcome l q (probeOn g p) =
      (if p.visited + 1 < g.probe then { q with probe := some ⟨(p.slot + 1) % g.slots, p.visited + 1, .slot⟩ }
        else windowEnded l q none false, false) := by
  unfold probeOn; split <;> rfl

/-- The state of a lookup whose read has ended, before the arbiter decides again. -/
def readTaken (s : State) (q : Search) (step : ProbeStep) : State :=
  searchStep { s with port := { s.port with flash := .free } } q step

theorem readTaken_eq (s : State) (q : Search) (step : ProbeStep) :
    readTaken s q step =
      { s with
        lookup := { s.lookup with search := some (readOutcome s.lookup q step).1 }
        status := (setFlagIf (readOutcome s.lookup q step).2 .dictBad s).status
        port := { s.port with flash := .free } } := by
  unfold readTaken
  rw [searchStep_eq, setFlagIf_eq,
    setFlagIf_status (s := s) (t := setSearch _ { s with port := { s.port with flash := .free } }) _ _ rfl rfl]
  rfl

/-- With no burst granted and fewer than 8 records in the FIFO, a lookup that claims a free flash has its read. -/
theorem arbitrate_reading {s : State} (hf : s.port.flash = .free) (hg : s.port.burstGranted = false)
    (hc : s.lookup.claims = true) (hl : s.notes.fifo.length < 8) : (arbitrate s).port.flash = .reading := by
  unfold arbitrate; rw [if_pos ⟨hf, hg⟩, if_pos (by simp [hc]; omega)]

theorem exec_flashReadDone_lookup {s : State} {q : Search} {p : Probe} {g : Geometry}
    (hphase : s.seq.phase = .run ∨ s.seq.phase = .listen) (hflash : s.port.flash = .reading)
    (hsearch : s.lookup.search = some q) (hprobe : q.probe = some p) (hg : s.lookup.geometry q.window = some g) :
    exec .flashReadDone s =
      .next (arbitrate (readTaken s q (probeStep s.port q.window.region g q.outline p))) := by
  have hends : readEnds s = flashReadEnds s := by
    unfold readEnds; rcases hphase with h | h <;> rw [h]
  simp only [exec, execFlashReadDone, hflash, if_true, hends]
  unfold flashReadEnds; simp only [hsearch, hprobe, hg]; rfl

/-- Settles O25: each read of a probe has its outcome, and the end of a window goes on to the next enabled one. -/
theorem flashReadMovesProbe : Obligations.FlashReadMovesProbe := by
  refine ⟨fun s q p g hphase hflash hsearch hwindow hprobe hg => ?_, fun l q text cont => ?_⟩
  · have hexec := exec_flashReadDone_lookup hphase hflash hsearch hprobe hg
    intro readAt missed next
    refine ⟨_, (readOutcome s.lookup q (probeStep s.port q.window.region g q.outline p)).1,
      (readOutcome s.lookup q (probeStep s.port q.window.region g q.outline p)).2, hexec, ?_, ?_, ?_, ?_, ?_, ?_, ?_,
      ?_, ?_, ?_⟩
    · intro hread hnone
      rw [(probeStep_slot hread).trans (onSlot_refused hnone)]
      exact ⟨rfl, rfl⟩
    · intro hread hsome v
      rw [(probeStep_slot hread).trans (onSlot_read hsome)]
      dsimp only
      refine ⟨fun hv => ?_, fun hv => ?_, fun hv hbad => ?_, fun hv hheap hentry => ?_⟩
      · rw [if_pos hv]; exact ⟨rfl, rfl⟩
      · rw [if_neg (by omega), if_pos hv, readOutcome_probeOn]; exact ⟨rfl, rfl⟩
      · rw [if_neg (by omega), if_neg (by omega)]
        split
        · exact ⟨rfl, rfl⟩
        · rw [requestRead_refused (hbad.resolve_left ‹_›)]; exact ⟨rfl, rfl⟩
      · rw [if_neg (by omega), if_neg (by omega), if_neg (by omega), requestRead_granted hentry]; exact ⟨rfl, rfl⟩
    · intro v k outline text hread hentry
      rw [(probeStep_entry hread).trans (onEntry_entryAt hentry)]
      refine ⟨fun ho => ?_, fun ho hk => ?_, fun ho hk => ?_⟩
      · rw [if_neg ho, readOutcome_probeOn]; exact ⟨rfl, rfl⟩
      · rw [if_pos ho, if_pos hk]; exact ⟨rfl, rfl⟩
      · rw [if_pos ho, if_neg hk]; exact ⟨rfl, rfl⟩
    · intro v head hread hhead hbad
      rw [(probeStep_entry hread).trans (onEntry_bad hhead hbad)]
      exact ⟨rfl, rfl⟩
    · intro v k text hread hentry
      rw [(probeStep_text hread).trans (onText_entryAt hentry)]
      exact ⟨rfl, rfl⟩
    · intro v k length hread hlength hbad
      rw [(probeStep_text hread).trans (onText_bad hlength hbad)]
      exact ⟨rfl, rfl⟩
    all_goals
      have hwindow' := readOutcome_window s.lookup hwindow (probeStep s.port q.window.region g q.outline p)
      rw [readTaken_eq]
      generalize readOutcome s.lookup q (probeStep s.port q.window.region g q.outline p) = x at hwindow' ⊢
    · intro hmore hgranted hfifo
      exact arbitrate_reading rfl hgranted
        (by simp [LookupUnit.claims, Option.isSome_iff_ne_none.2 hmore, hwindow']) hfifo
    · intro hover _
      rw [arbitrate_flash (by simp [LookupUnit.claims, hover])]
    · rw [arbitrate_eq]; cases x.2 <;> rfl
    · rw [arbitrate_eq]
  · intro q' later
    have hlater : later = l.windows q.window.later := by
      show (match q.window with | .w0 => _ | .w1 => _ | .w2 => _) = _
      cases q.window <;> rfl
    have hkept : q' = _ := windowEnded_kept l q text cont
    have hresult : q'.result = q.result.add q.window text cont := by rw [hkept]; rfl
    have hgoes : q'.result.text = none ∨ q'.result.cont = false →
        q' = nextWindow l (withResult q text cont) q.window.later := by
      intro h
      rw [hresult] at h
      refine if_neg ?_
      show ¬ ((q.result.add q.window text cont).text.isSome && (q.result.add q.window text cont).cont) = true
      rcases h with h | h <;> simp [h]
    refine ⟨fun h => ?_, fun h => ?_, ?_, ?_, ?_, fun htext hcont => ?_, fun h => ⟨fun hnone => ?_, ?_⟩⟩
    · rw [hresult]
      obtain ⟨e, he⟩ := Option.ne_none_iff_exists'.1 h
      simp [LookupResult.add, he]
    · rw [hresult]; simp [LookupResult.add, h]
    · rw [hresult]; rfl
    · rw [hkept]; rfl
    · rw [hkept]; rfl
    · rw [hresult] at htext hcont
      refine congrArg Search.probe (if_pos ?_)
      show ((q.result.add q.window text cont).text.isSome && (q.result.add q.window text cont).cont) = true
      rw [Option.isSome_iff_ne_none.2 htext, hcont]; rfl
    · rw [hgoes h]; exact nextWindow_none l _ (hlater ▸ hnone)
    · intro skipped w g rest hsplit hskipped
      rw [hgoes h]; exact nextWindow_enabled l (withResult q text cont) (hlater ▸ hsplit) hskipped

end Sys2Proof.Machine
end

section
/-! PROOFS. The translator's own record, that is the work of its event, its resolve timer and its capture: no act of the
other blocks reads it, so each act can be moved behind a change of it. What a store finds in the overlay depends on the
memory port and the settings only. -/

namespace Sys2Proof.Machine

/-! ### What a store finds depends on the memory port and the settings only -/

section
variable {s t : State} (hp : t.port = s.port) (hs : t.settings = s.settings)
include hp hs

theorem findFrom_congr (outline : List KeySet) (taken : List Nat) (n i : Nat) (free : Option Nat) :
    findFrom t outline taken n i free = findFrom s outline taken n i free := by
  have hslots : overlaySlots t = overlaySlots s := by unfold overlaySlots; rw [hs]
  have hvalue : ∀ i, slotValue t i = slotValue s i := fun i => by
    cases s; cases t; cases hp; cases hs; rfl
  have hentry : ∀ v, entryIs t outline v = entryIs s outline v := fun v => by
    cases s; cases t; cases hp; cases hs; rfl
  induction n generalizing i free with
  | zero => rfl
  | succ n ih => unfold findFrom; simp only [ih, hslots, hvalue, hentry]

theorem findOutline_congr (outline : List KeySet) (taken : List Nat) :
    findOutline t outline taken = findOutline s outline taken := by
  unfold findOutline overlaySlots; rw [hs]; exact findFrom_congr hp hs outline taken _ _ _

theorem findAll_congr (outlines : List (List KeySet)) (taken : List Nat) :
    findAll t outlines taken = findAll s outlines taken := by
  induction outlines generalizing taken with
  | nil => rfl
  | cons o os ih => unfold findAll; simp only [ih, findOutline_congr hp hs]

theorem storePlan_congr (outline : List KeySet) : storePlan t outline = storePlan s outline := by
  unfold storePlan; rw [findAll_congr hp hs]

end

/-- The translator's own record replaced: work left, resolve timer and capture. -/
def withOwn (w : List Work) (r : Option Nat) (c : Capture) (s : State) : State :=
  { s with translator := { s.translator with work := w, resolveTimer := r, capture := c } }

section
variable (w : List Work) (r : Option Nat) (c : Capture)

theorem requestPattern_withOwn (p : Pattern) (s : State) :
    requestPattern p (withOwn w r c s) = withOwn w r c (requestPattern p s) := by
  unfold requestPattern; rw [apply_ite (withOwn w r c)]; rfl

theorem setFlag_withOwn (f : Flag) (s : State) : setFlag f (withOwn w r c s) = withOwn w r c (setFlag f s) := by
  unfold setFlag; dsimp only
  rw [apply_ite (withOwn w r c), ← requestPattern_withOwn]; rfl

theorem arbitrate_withOwn (s : State) : arbitrate (withOwn w r c s) = withOwn w r c (arbitrate s) := by
  unfold arbitrate; simp only [apply_ite (withOwn w r c)]; rfl

theorem armFlush_withOwn (s : State) : armFlush (withOwn w r c s) = withOwn w r c (armFlush s) := by
  unfold armFlush; rw [apply_ite (withOwn w r c)]; rfl

theorem joinNote_withOwn (n : Note) (s : State) : joinNote n (withOwn w r c s) = withOwn w r c (joinNote n s) := by
  unfold joinNote; simp only [apply_ite (withOwn w r c), ← setFlag_withOwn, ← armFlush_withOwn]; rfl

theorem handNote_withOwn (n : Note) (s : State) : handNote n (withOwn w r c s) = withOwn w r c (handNote n s) := by
  unfold handNote
  simp only [apply_ite (withOwn w r c), ← setFlag_withOwn, ← arbitrate_withOwn, ← joinNote_withOwn]; rfl

theorem displace_withOwn (f : TxFrame) (s : State) : displace f (withOwn w r c s) = withOwn w r c (displace f s) := by
  unfold displace setFlagIf
  rw [show (withOwn w r c s).bus = s.bus from rfl]
  cases victimPlace s.bus.queue with
  | none => exact setFlag_withOwn w r c _ s
  | some i =>
    dsimp only; rw [setFlag_withOwn]; split <;> rfl

theorem handFrame_withOwn (f : TxFrame) (s : State) :
    handFrame f (withOwn w r c s) = withOwn w r c (handFrame f s) := by
  unfold handFrame
  simp only [apply_ite (withOwn w r c), ← setFlag_withOwn, ← displace_withOwn]; rfl

theorem broadcast_withOwn (m : Msg) (s : State) : broadcast m (withOwn w r c s) = withOwn w r c (broadcast m s) :=
  handFrame_withOwn w r c _ s

theorem enterOff_withOwn (s : State) : enterOff (withOwn w r c s) = withOwn w r c (enterOff s) := by
  unfold enterOff floorNote; rw [← handNote_withOwn]; rfl

theorem leaveFloor_withOwn (s : State) : leaveFloor (withOwn w r c s) = withOwn w r c (leaveFloor s) := by
  unfold leaveFloor
  rw [show (withOwn w r c s).floor = s.floor from rfl]
  cases s.floor.partner with
  | some p => dsimp only; rw [broadcast_withOwn, ← enterOff_withOwn]; rfl
  | none => dsimp only; rw [broadcast_withOwn, ← enterOff_withOwn]; rfl

theorem drainCheck_withOwn (s : State) : drainCheck (withOwn w r c s) = withOwn w r c (drainCheck s) := by
  unfold drainCheck; rw [apply_ite (withOwn w r c), ← leaveFloor_withOwn]; rfl

theorem releaseUnit_withOwn (i : Nat) (u : TextUnit) (s : State) :
    releaseUnit i u (withOwn w r c s) = withOwn w r c (releaseUnit i u s) := by
  unfold releaseUnit; dsimp only; split
  all_goals simp only [← drainCheck_withOwn, ← broadcast_withOwn]; rfl

theorem releaseDue_withOwn (n : Nat) (s : State) : releaseDue n (withOwn w r c s) = withOwn w r c (releaseDue n s) := by
  induction n generalizing s with
  | zero => rfl
  | succ n ih =>
    unfold releaseDue
    rw [show (withOwn w r c s).translator.history = s.translator.history from rfl]
    cases oldestHeld s.translator.history with
    | none => rfl
    | some p => dsimp only; rw [releaseUnit_withOwn, ih, apply_ite (withOwn w r c)]; rfl

theorem settle_withOwn (s : State) : settle (withOwn w r c s) = withOwn w r c (settle s) := by
  unfold settle
  rw [show (withOwn w r c s).translator.history = s.translator.history from rfl, releaseDue_withOwn]; rfl

theorem forceOldest_withOwn (u : TextUnit) (s : State) :
    forceOldest u (withOwn w r c s) = withOwn w r c (forceOldest u s) := by
  unfold forceOldest; rw [apply_ite (withOwn w r c), ← releaseUnit_withOwn]; rfl

theorem makeRoom_withOwn (s : State) : makeRoom (withOwn w r c s) = withOwn w r c (makeRoom s) := by
  unfold makeRoom
  rw [show (withOwn w r c s).translator.history = s.translator.history from rfl]
  cases s.translator.history with
  | nil => rfl
  | cons u us =>
    have hroom : settle (drainCheck (dropOldest (forceOldest u (withOwn w r c s)))) =
        withOwn w r c (settle (drainCheck (dropOldest (forceOldest u s)))) := by
      rw [forceOldest_withOwn, ← settle_withOwn, ← drainCheck_withOwn]; rfl
    dsimp only; rw [hroom]; simp only [apply_ite (withOwn w r c)]; rfl

theorem speakerCreated_withOwn (s : State) : speakerCreated (withOwn w r c s) = withOwn w r c (speakerCreated s) := by
  unfold speakerCreated makeCut startDrain; simp only [apply_ite (withOwn w r c), ← drainCheck_withOwn]; rfl

theorem reportUnit_withOwn (u : TextUnit) (s : State) :
    reportUnit u (withOwn w r c s) = withOwn w r c (reportUnit u s) := by
  unfold reportUnit; dsimp only
  rw [requestPattern_withOwn, ← apply_ite (withOwn w r c), speakerCreated_withOwn, ← apply_ite (withOwn w r c)]

/-- A unit is created in the same way whatever the translator's own record holds. -/
theorem createUnit_withOwn (a : Assembled) (strokes : List Word) (start : Word) (gap : Option Nat) (s : State) :
    createUnit a strokes start gap (withOwn w r c s) = withOwn w r c (createUnit a strokes start gap s) := by
  unfold createUnit
  rw [makeRoom_withOwn, apply_ite (withOwn w r c), ← settle_withOwn, ← reportUnit_withOwn]; rfl

/-! ### Overlay -/

theorem findOutline_withOwn (outline : List KeySet) (taken : List Nat) (s : State) :
    findOutline (withOwn w r c s) outline taken = findOutline s outline taken :=
  findOutline_congr (s := s) (t := withOwn w r c s) rfl rfl outline taken

theorem storePlan_withOwn (outline : List KeySet) (s : State) :
    storePlan (withOwn w r c s) outline = storePlan s outline :=
  storePlan_congr (s := s) (t := withOwn w r c s) rfl rfl outline

theorem storeRefused_withOwn (plan : List (List KeySet × Found)) (outline : List KeySet) (len : Nat) (s : State) :
    storeRefused (withOwn w r c s) plan outline len = storeRefused s plan outline len := rfl

theorem readCounts_withOwn (s : State) : readCounts (withOwn w r c s) = readCounts s := rfl

theorem writeHeader_withOwn (k : OverlayCounts) (good : Bool) (s : State) :
    writeHeader k good (withOwn w r c s) = withOwn w r c (writeHeader k good s) := rfl

/-- The counts of a change under way, with the translator's own record replaced in its state. -/
def countsWithOwn (x : OverlayCounts × State) : OverlayCounts × State := (x.1, withOwn w r c x.2)

theorem createPrefix_withOwn (p : List KeySet × Found) (x : OverlayCounts × State) :
    createPrefix p (countsWithOwn w r c x) = countsWithOwn w r c (createPrefix p x) := by
  unfold createPrefix; split <;> rfl

theorem placeStored_withOwn (p : List KeySet × Found) (text : List Byte) (x : OverlayCounts × State) :
    placeStored p text (countsWithOwn w r c x) = countsWithOwn w r c (placeStored p text x) := by
  unfold placeStored; split <;> rfl

theorem writeStore_withOwn (plan : List (List KeySet × Found)) (text : List Byte) (s : State) :
    writeStore plan text (withOwn w r c s) = withOwn w r c (writeStore plan text s) := by
  have hcreate : ∀ (l : List (List KeySet × Found)) (k : OverlayCounts) (s : State),
      l.foldl (fun x p => createPrefix p x) (k, withOwn w r c s) =
        countsWithOwn w r c (l.foldl (fun x p => createPrefix p x) (k, s)) := fun l k s =>
    List.foldl_hom (countsWithOwn w r c) (init := (k, s)) fun x p => createPrefix_withOwn w r c p x
  have hraise : ∀ (l : List Nat) (s : State),
      l.foldl (fun s v => raisePrefix v s) (withOwn w r c s) = withOwn w r c (l.foldl (fun s v => raisePrefix v s) s) :=
    fun l s => List.foldl_hom (withOwn w r c) fun _ _ => rfl
  unfold writeStore
  cases plan.getLast? with
  | none => rfl
  | some o =>
    have htext : ∀ s, hasText (withOwn w r c s) o.2 = hasText s o.2 := fun _ => rfl
    dsimp only
    rw [readCounts_withOwn, writeHeader_withOwn, htext, hcreate, placeStored_withOwn]
    generalize placeStored o text _ = x
    dsimp only [countsWithOwn]
    rw [hraise, ← apply_ite (withOwn w r c), writeHeader_withOwn]

theorem lowerPrefix_withOwn (p : Found) (x : OverlayCounts × State) :
    lowerPrefix p (countsWithOwn w r c x) = countsWithOwn w r c (lowerPrefix p x) := by
  unfold lowerPrefix
  cases p with
  | absent free => rfl
  | entry i v => dsimp only; rw [apply_ite (countsWithOwn w r c)]; rfl

theorem writeDelete_withOwn (outline : List KeySet) (slot v : Nat) (s : State) :
    writeDelete outline slot v (withOwn w r c s) = withOwn w r c (writeDelete outline slot v s) := by
  have hlower : ∀ (l : List Found) (x : OverlayCounts × State),
      l.foldl (fun x p => lowerPrefix p x) (countsWithOwn w r c x) =
        countsWithOwn w r c (l.foldl (fun x p => lowerPrefix p x) x) := fun l x =>
    List.foldl_hom (countsWithOwn w r c) fun x p => lowerPrefix_withOwn w r c p x
  have hfirst : ∀ k s,
      (if prefixCount (withOwn w r c s) v = 0 then freeSlot slot (k, withOwn w r c s)
        else
          (k, overlayWrite (overlayHeapBase (withOwn w r c s) + v) (beBytes 1 EntryKind.cont.code)
            (withOwn w r c s))) =
      countsWithOwn w r c
        (if prefixCount s v = 0 then freeSlot slot (k, s)
          else (k, overlayWrite (overlayHeapBase s + v) (beBytes 1 EntryKind.cont.code) s)) := fun k s => by
    rw [apply_ite (countsWithOwn w r c)]; rfl
  unfold writeDelete; dsimp only
  simp only [findOutline_withOwn]
  rw [readCounts_withOwn, writeHeader_withOwn, hfirst, hlower]; rfl

theorem retract_withOwn (u : TextUnit) (s : State) : retract u (withOwn w r c s) = withOwn w r c (retract u s) := by
  unfold retract; split
  · exact broadcast_withOwn w r c _ s
  · rfl

theorem replaceFrame_withOwn (u : TextUnit) (text : List Byte) (s : State) :
    replaceFrame u text (withOwn w r c s) = withOwn w r c (replaceFrame u text s) := by
  unfold replaceFrame; split
  · exact broadcast_withOwn w r c _ s
  · rfl

theorem retranslate_withOwn (outline : List KeySet) (text : List Byte) (s : State) :
    retranslate outline text (withOwn w r c s) = withOwn w r c (retranslate outline text s) := by
  unfold retranslate
  rw [show (withOwn w r c s).translator.history = s.translator.history from rfl]
  dsimp only
  cases newestRun s.translator.history (outline.map untranslate) with
  | none => rfl
  | some i =>
    dsimp only
    cases (s.translator.history.drop i).take (outline.map untranslate).length with
    | nil => rfl
    | cons u us =>
      have hhistory : ∀ h : List TextUnit, setHistory h (withOwn w r c s) = withOwn w r c (setHistory h s) :=
        fun _ => rfl
      have hretract : ∀ s : State, us.foldl (fun s v => retract v s) (withOwn w r c s) =
          withOwn w r c (us.foldl (fun s v => retract v s) s) := fun s =>
        List.foldl_hom (withOwn w r c) fun s v => retract_withOwn w r c v s
      dsimp only
      simp only [hhistory, replaceFrame_withOwn, hretract, drainCheck_withOwn, settle_withOwn,
        ← apply_ite (withOwn w r c)]

theorem storeDefinition_withOwn (outline : List KeySet) (text : List Byte) (a : Station) (s : State) :
    storeDefinition outline text a (withOwn w r c s) = (storeDefinition outline text a s).map (withOwn w r c) := by
  have hstale : ∀ s : State, setStale (withOwn w r c s) = withOwn w r c (setStale s) := fun _ => rfl
  unfold storeDefinition
  dsimp only; rw [storePlan_withOwn, storeRefused_withOwn]; split
  · rfl
  · rw [writeStore_withOwn, handNote_withOwn, hstale, retranslate_withOwn]; rfl

theorem deleteDefinition_withOwn (outline : List KeySet) (a : Station) (s : State) :
    deleteDefinition outline a (withOwn w r c s) = withOwn w r c (deleteDefinition outline a s) := by
  unfold deleteDefinition
  rw [findOutline_withOwn]
  cases findOutline s outline [] with
  | absent free => rfl
  | entry i v =>
    dsimp only; rw [writeDelete_withOwn, handNote_withOwn, apply_ite (withOwn w r c)]; rfl

theorem storeOwn_withOwn (outline : List KeySet) (text : List Byte) (s : State) :
    storeOwn outline text (withOwn w r c s) = withOwn w r c (storeOwn outline text s) := by
  unfold storeOwn sendDefine
  rw [storeDefinition_withOwn, deleteDefinition_withOwn, setFlag_withOwn, broadcast_withOwn,
    show (withOwn w r c s).seq = s.seq from rfl]
  cases storeDefinition outline text s.seq.addr s with
  | none => rw [apply_ite (withOwn w r c), apply_ite (withOwn w r c)]; rfl
  | some t =>
    dsimp only [Option.map_some]
    rw [broadcast_withOwn, apply_ite (withOwn w r c), apply_ite (withOwn w r c)]

end

end Sys2Proof.Machine
end

section
/-! PROOFS. Entry text byte by byte: the tokens of characters and codes, the case walk through them, and what text
assembly makes of a text of characters alone (R72 to R74, R77, R78, R83). -/

namespace Sys2Proof.Machine

/-! ### Tokens of characters and codes (R72) -/

/-- The token of a byte that is a character or a code. -/
def tokenOf (b : Byte) : Token :=
  if isLiteral b then .lit b else .code ((Code.ofByte b.toNat).getD .ack)

/-- A format code or command code is no character and no SPEAKER code, and has a name. -/
theorem isCodeByte_ofByte : ∀ b : Byte, isCodeByte b = true →
    isLiteral b = false ∧ b ≠ 0x05 ∧ (Code.ofByte b.toNat).isSome = true := by
  decide

theorem isLiteral_ne_speaker : ∀ b : Byte, isLiteral b = true → b ≠ 0x05 := by decide

theorem isLetter_isLiteral : ∀ b : Byte, isLetter b = true → isLiteral b = true := by decide

/-- A text of characters and codes has a token for each byte. -/
theorem tokens_eq {text : List Byte} (h : ∀ b ∈ text, definable b = true ∨ isCodeByte b = true) :
    tokens text = text.map tokenOf := by
  induction text with
  | nil => rfl
  | cons b text ih =>
    obtain ⟨hb, htext⟩ := List.forall_mem_cons.1 h
    unfold tokens tokenOf
    rcases hb with hb | hb
    · have hlit : isLiteral b = true := hb
      rw [if_neg (isLiteral_ne_speaker b hlit), if_pos hlit, ih htext, List.map_cons, if_pos hlit]; rfl
    · obtain ⟨hlit, h5, hcode⟩ := isCodeByte_ofByte b hb
      obtain ⟨c, hc⟩ := Option.isSome_iff_exists.1 hcode
      rw [if_neg h5, if_neg (by simp [hlit]), ih htext, List.map_cons, if_neg (by simp [hlit]), hc]; rfl

theorem isLit_tokenOf (b : Byte) : (tokenOf b).isLit = isLiteral b := by
  unfold tokenOf; split
  · rename_i h; rw [h]; rfl
  · rename_i h; simpa using (Bool.not_eq_true _ ▸ h).symm

theorem tokenOf_eq_attach : ∀ b : Byte, tokenOf b = .code .attach ↔ b = 0x01 := by decide

theorem tokenOf_eq_glue : ∀ b : Byte, tokenOf b = .code .glue ↔ b = 0x06 := by decide

theorem tokenOf_eq_defClose : ∀ b : Byte, tokenOf b = .code .defClose ↔ b = 0x0A := by decide

/-- A code stands among the tokens where its byte stands in the text. -/
theorem holds_map_tokenOf {c : Code} {k : Byte} (hc : ∀ b, tokenOf b = .code c ↔ b = k) (text : List Byte) :
    holds c (text.map tokenOf) = decide (k ∈ text) := by
  unfold holds
  rw [Bool.eq_iff_iff, List.contains_iff_mem, List.mem_map, decide_eq_true_eq]
  simp only [hc, exists_eq_right]

/-- With codes alone before a character, or codes alone, the leading place is that of those codes (R73). -/
theorem leading_map_tokenOf {lead behind : List Byte} (hlead : ∀ b ∈ lead, isLiteral b = false)
    (hbehind : ∀ b, behind.head? = some b → isLiteral b = true) :
    leading ((lead ++ behind).map tokenOf) = lead.map tokenOf := by
  unfold leading
  rw [List.takeWhile_map]; congr 1
  rw [List.takeWhile_append_of_pos (by simpa [isLit_tokenOf] using hlead)]
  cases behind with
  | nil => rw [List.takeWhile_nil, List.append_nil]
  | cons b bs => rw [List.takeWhile_cons_of_neg (by simp [isLit_tokenOf, hbehind b rfl]), List.append_nil]

/-- With codes alone behind the last character, the trailing place is that of those codes (R73). -/
theorem trailing_map_tokenOf {before trail : List Byte} {b : Byte} (hb : isLiteral b = true)
    (htrail : ∀ x ∈ trail, isLiteral x = false) :
    trailing ((before ++ b :: trail).map tokenOf) = trail.map tokenOf := by
  unfold trailing
  rw [if_pos (by simp [isLit_tokenOf, hb]), ← List.map_reverse, List.takeWhile_map, ← List.map_reverse]; congr 1
  rw [List.reverse_append, List.reverse_cons, List.append_assoc,
    List.takeWhile_append_of_pos (by simpa [isLit_tokenOf] using htrail), List.singleton_append,
    List.takeWhile_cons_of_neg (by simp [isLit_tokenOf, hb]), List.append_nil, List.reverse_reverse]

/-! ### The case walk (R78) -/

/-- The cap mode behind one byte that is no letter to act on. -/
def caseAfter (m : CapMode) (b : Byte) : CapMode :=
  if b = 0x02 then .capNext else if b = 0x03 then .lowerNext else m

theorem lastCase_cons (m : CapMode) (b : Byte) (text : List Byte) :
    (lastCase (b :: text)).getD m = (lastCase text).getD (caseAfter m b) := by
  unfold lastCase caseAfter
  rw [List.filter_cons]
  split
  · rename_i h
    rw [List.getLast?_cons]
    cases (text.filter fun b => decide (b = 0x02 ∨ b = 0x03)).getLast? with
    | some x => rfl
    | none =>
      rcases of_decide_eq_true h with rfl | rfl <;> rfl
  · rename_i h
    have hb : ¬ (b = 0x02 ∨ b = 0x03) := by simpa using h
    rw [if_neg fun h => hb (.inl h), if_neg fun h => hb (.inr h)]

/-- A byte that is no letter, or stands behind the first one, is kept as it is. -/
theorem step_tokenOf {w : CaseWalk} {b : Byte} (h : w.passed = true ∨ isLetter b = false) :
    (w.step (tokenOf b)).mode = caseAfter w.mode b ∧ (w.step (tokenOf b)).passed = w.passed ∧
      (w.step (tokenOf b)).chars = w.chars ++ literalBytes [b] := by
  unfold tokenOf literalBytes
  cases hlit : isLiteral b with
  | true =>
    have hcase : caseAfter w.mode b = w.mode := by
      unfold caseAfter
      rw [if_neg (by rintro rfl; cases hlit), if_neg (by rintro rfl; cases hlit)]
    have hact : ¬ (isLetter b && !w.passed) = true := by rcases h with h | h <;> simp [h]
    rw [if_pos rfl, hcase, List.filter_cons_of_pos (p := definable) hlit]
    unfold CaseWalk.step; dsimp only; rw [if_neg hact]; exact ⟨rfl, rfl, rfl⟩
  | false =>
    rw [if_neg (by simp), List.filter_cons_of_neg (by rw [show definable b = false from hlit]; simp), List.filter_nil,
      List.append_nil]
    have hcap : ∀ b : Byte, isLiteral b = false → ((Code.ofByte b.toNat).getD .ack = .cap ↔ b = 0x02) := by decide
    have hlower : ∀ b : Byte, isLiteral b = false → ((Code.ofByte b.toNat).getD .ack = .lower ↔ b = 0x03) := by decide
    unfold caseAfter
    by_cases h2 : b = 0x02
    · rw [(hcap b hlit).2 h2, if_pos h2]; exact ⟨rfl, rfl, rfl⟩
    · by_cases h3 : b = 0x03
      · rw [(hlower b hlit).2 h3, if_neg h2, if_pos h3]; exact ⟨rfl, rfl, rfl⟩
      · rw [if_neg h2, if_neg h3]
        have hc2 := mt (hcap b hlit).1 h2
        have hc3 := mt (hlower b hlit).1 h3
        generalize (Code.ofByte b.toNat).getD .ack = c at hc2 hc3
        cases c with
        | cap => exact absurd rfl hc2
        | lower => exact absurd rfl hc3
        | _ => exact ⟨rfl, rfl, rfl⟩

/-- Through bytes that are no letters, or behind the first letter, the walk keeps the characters and takes the last
code. -/
theorem caseWalk_kept {text : List Byte} : ∀ {w : CaseWalk}, (w.passed = true ∨ ∀ x ∈ text, isLetter x = false) →
    let x := (text.map tokenOf).foldl CaseWalk.step w
    x.mode = (lastCase text).getD w.mode ∧ x.passed = w.passed ∧ x.chars = w.chars ++ literalBytes text := by
  induction text with
  | nil => intro w _; exact ⟨rfl, rfl, (List.append_nil _).symm⟩
  | cons b text ih =>
    intro w h
    obtain ⟨hmode, hpassed, hchars⟩ := step_tokenOf (w := w) (b := b) (h.imp id fun h => h b List.mem_cons_self)
    obtain ⟨imode, ipassed, ichars⟩ := ih (w := w.step (tokenOf b))
      (h.imp (fun h => hpassed.trans h) fun h x hx => h x (List.mem_cons_of_mem _ hx))
    rw [List.map_cons, List.foldl_cons]
    refine ⟨by rw [imode, hmode, lastCase_cons], by rw [ipassed, hpassed], ?_⟩
    rw [ichars, hchars, List.append_assoc]; congr 1
    unfold literalBytes; rw [← List.filter_append]; rfl

/-- The first letter of a text is acted on by the mode in force before it, and ends that mode (R78). -/
theorem caseWalk_letter {m : CapMode} {pre post : List Byte} {b : Byte} (hpre : ∀ x ∈ pre, isLetter x = false)
    (hb : isLetter b = true) :
    (caseWalk m ((pre ++ b :: post).map tokenOf)).mode = (lastCase post).getD .none ∧
      (caseWalk m ((pre ++ b :: post).map tokenOf)).chars =
        literalBytes pre ++ ((lastCase pre).getD m).act b :: literalBytes post := by
  obtain ⟨pmode, ppassed, pchars⟩ := caseWalk_kept (w := ⟨m, false, false, []⟩) (.inr hpre)
  have hstep : ∀ w : CaseWalk, w.passed = false →
      w.step (tokenOf b) = ⟨.none, false, true, w.chars ++ [w.mode.act b]⟩ := by
    intro w hw
    unfold tokenOf; rw [if_pos (isLetter_isLiteral b hb)]
    unfold CaseWalk.step; dsimp only; rw [if_pos (by simp [hb, hw])]
  unfold caseWalk
  rw [List.map_append, List.map_cons, List.foldl_append, List.foldl_cons, hstep _ ppassed]
  obtain ⟨qmode, -, qchars⟩ := caseWalk_kept (text := post)
    (w := ⟨.none, false, true,
      (List.foldl CaseWalk.step ⟨m, false, false, []⟩ (pre.map tokenOf)).chars ++ [CapMode.act
        (List.foldl CaseWalk.step ⟨m, false, false, []⟩ (pre.map tokenOf)).mode b]⟩) (.inl rfl)
  refine ⟨qmode, ?_⟩
  rw [qchars, pmode, pchars]; simp

theorem caseWalk_noLetter {m : CapMode} {text : List Byte} (h : ∀ x ∈ text, isLetter x = false) :
    (caseWalk m (text.map tokenOf)).mode = (lastCase text).getD m ∧
      (caseWalk m (text.map tokenOf)).chars = literalBytes text := by
  obtain ⟨hmode, -, hchars⟩ := caseWalk_kept (w := ⟨m, false, false, []⟩) (.inr h)
  exact ⟨hmode, hchars⟩

/-- The walk keeps every character. -/
theorem caseWalk_length (ts : List Token) : ∀ w : CaseWalk,
    (ts.foldl CaseWalk.step w).chars.length = w.chars.length + ts.countP Token.isLit := by
  induction ts with
  | nil => intro w; rfl
  | cons t ts ih =>
    intro w
    have hstep : (w.step t).chars.length = w.chars.length + if t.isLit then 1 else 0 := by
      cases t with
      | lit b => unfold CaseWalk.step; dsimp only; split <;> simp [Token.isLit]
      | code c => cases c <;> rfl
      | speaker n => rfl
    rw [List.foldl_cons, ih, hstep, List.countP_cons]; omega

/-! ### A text of characters alone (R72, R76, R77) -/

section
variable {text : List Byte}

theorem PlainText.tokens_eq (h : PlainText text) : tokens text = text.map tokenOf :=
  Machine.tokens_eq fun b hb => .inl (h.2.1 b hb)

theorem PlainText.leading_eq (h : PlainText text) : leading (tokens text) = [] := by
  rw [h.tokens_eq]
  exact leading_map_tokenOf (lead := []) nofun fun b hb => h.2.1 b (List.mem_of_mem_head? hb)

theorem PlainText.mem_tokens (h : PlainText text) {t : Token} (ht : t ∈ tokens text) : t.isLit = true := by
  rw [h.tokens_eq] at ht
  obtain ⟨b, hb, rfl⟩ := List.mem_map.1 ht
  rw [isLit_tokenOf]; exact h.2.1 b hb

theorem PlainText.holds_code (h : PlainText text) (c : Code) : holds c (tokens text) = false := by
  unfold holds
  rw [Bool.eq_false_iff, Ne, List.contains_iff_mem]
  exact fun hc => Bool.false_ne_true (h.mem_tokens hc)

/-- A text of characters hands no command. -/
theorem PlainText.commandsOf_eq (h : PlainText text) : commandsOf (tokens text) = [] := by
  unfold commandsOf
  rw [List.filterMap_eq_nil_iff]
  intro t ht
  cases t with
  | lit b => rfl
  | code c => exact absurd (h.mem_tokens ht) Bool.false_ne_true
  | speaker n => rfl

theorem PlainText.commandsBefore_eq (h : PlainText text) : commandsBefore (tokens text) = [] := by
  unfold commandsBefore; rw [h.leading_eq]; rfl

theorem PlainText.commandsAfter_eq (h : PlainText text) : commandsAfter (tokens text) = [] := by
  unfold commandsAfter; rw [h.leading_eq, List.length_nil, List.drop_zero, h.commandsOf_eq]; rfl

theorem PlainText.caseWalk_length (h : PlainText text) (m : CapMode) :
    (caseWalk m (tokens text)).chars.length = text.length := by
  have hcount : (tokens text).countP Token.isLit = (tokens text).length :=
    List.countP_eq_length.2 fun t ht => h.mem_tokens ht
  unfold caseWalk
  rw [Machine.caseWalk_length, hcount, h.tokens_eq, List.length_map]; exact Nat.zero_add _

/-- A text of 1 to 120 characters becomes a WORD unit, whole and spaced plainly (R76, R77, R81). -/
theorem PlainText.assembleEntry_eq (h : PlainText text) (labels : List (List Byte)) (f : Formatting) :
    ∃ a, assembleEntry labels f text = some a ∧ a.kind = .word ∧ a.speaker = none ∧ a.truncated = false ∧
      a.paragraph = f.paragraphStart ∧
      a.spaceBefore = (!f.paragraphStart && !f.attachNext) := by
  have hspeaker : leadingSpeaker (tokens text) = none := by unfold leadingSpeaker; rw [h.leading_eq]; rfl
  have hliterals : (literals (tokens text)).isEmpty = false := by
    obtain ⟨b, bs, hbs⟩ := List.exists_cons_of_ne_nil h.1
    have hb : isLiteral b = true := h.2.1 b (by rw [hbs]; exact List.mem_cons_self)
    rw [h.tokens_eq, hbs, List.map_cons]; unfold tokenOf literals
    rw [if_pos hb]; rfl
  have hlength := h.caseWalk_length f.cap
  have hshort : text.length ≤ 120 := h.2.2
  refine ⟨assembleWord f (tokens text) none [], ?_, rfl, rfl, ?_, ?_, ?_⟩
  · unfold assembleEntry; dsimp only; rw [hspeaker, hliterals]; rfl
  · unfold assembleWord; dsimp only
    rw [List.nil_append, hlength]; exact decide_eq_false (by unfold textLimit; omega)
  · unfold assembleWord; dsimp only; rw [h.leading_eq]; simp [holds]
  · unfold assembleWord takesSpace; dsimp only; rw [h.leading_eq, h.holds_code]; simp [holds]

end

/-! ### The piece of a definition's text (R73, R77, R83, R103) -/

/-- What a piece adds to the text buffer. -/
theorem Capture.addPiece_joins (c : Capture) (strokes : List Word) (characters : List Byte) (glue attached : Bool)
    (after : BufferState) :
    PieceJoins c (c.addPiece strokes characters glue attached after) strokes characters glue attached after := by
  have hspace :
      (!c.chars.isEmpty && !characters.isEmpty && !c.buffer.attachNext && !attached && !(glue && c.buffer.glueLast)) =
          true ↔
        ¬ (c.pieces.flatMap Piece.chars = [] ∨ characters = [] ∨ c.buffer.attachNext = true ∨ attached = true ∨
          (glue = true ∧ c.buffer.glueLast = true)) := by
    unfold Capture.chars
    simp only [Bool.and_eq_true, Bool.not_eq_true', List.isEmpty_eq_false_iff, Bool.and_eq_false_iff, ne_eq,
      not_or, not_and_or, Bool.not_eq_true, and_assoc]
  unfold PieceJoins Capture.addPiece; dsimp only
  split
  · rename_i h; rw [if_neg (hspace.1 h)]; rfl
  · rename_i h; rw [if_pos (not_not.1 (hspace.not.1 h))]; rfl

/-- The buffer state that an entry's piece leaves: one without characters changes only what its codes set (R83). -/
def entryBuffer (b : BufferState) (ts : List Token) : BufferState :=
  let w := caseWalk b.cap ts
  if w.chars.isEmpty then ⟨w.mode, b.attachNext || holds .attach ts, b.glueLast || holds .glue ts⟩
  else ⟨w.mode, holds .attach (trailing ts), holds .glue ts⟩

theorem entryBuffer_cap (b : BufferState) (ts : List Token) : (entryBuffer b ts).cap = (caseWalk b.cap ts).mode := by
  unfold entryBuffer; dsimp only; split <;> rfl

theorem Capture.entryPiece_eq (c : Capture) (strokes : List Word) (text : List Byte) :
    c.entryPiece strokes text =
      c.addPiece strokes (caseWalk c.buffer.cap (tokens text)).chars (holds .glue (tokens text))
        (holds .attach (leading (tokens text))) (entryBuffer c.buffer (tokens text)) := rfl

section
variable {c : Capture} {strokes : List Word} {lead body trail : List Byte}

/-- The piece of an entry text of characters and codes, its leading and trailing codes apart. -/
theorem Capture.entryPiece_entry (hcodes : ∀ b ∈ lead ++ trail, isCodeByte b = true)
    (hbody : ∀ b ∈ body, definable b = true ∨ isCodeByte b = true) (htrail : body = [] → trail = [])
    (hends : ∀ b, body.head? = some b ∨ body.getLast? = some b → definable b = true) :
    EntryPiece c (c.entryPiece strokes (lead ++ body ++ trail)) strokes lead body trail := by
  have htokens : tokens (lead ++ body ++ trail) = (lead ++ body ++ trail).map tokenOf := by
    refine tokens_eq fun b hb => ?_
    rcases List.mem_append.1 hb with hb | hb
    · rcases List.mem_append.1 hb with hb | hb
      · exact .inr (hcodes b (List.mem_append_left _ hb))
      · exact hbody b hb
    · exact .inr (hcodes b (List.mem_append_right _ hb))
  have hlead : ∀ b ∈ lead, isLiteral b = false := fun b hb =>
    (isCodeByte_ofByte b (hcodes b (List.mem_append_left _ hb))).1
  have hbehind : ∀ b ∈ trail, isLiteral b = false := fun b hb =>
    (isCodeByte_ofByte b (hcodes b (List.mem_append_right _ hb))).1
  have hleading : holds .attach (leading ((lead ++ body ++ trail).map tokenOf)) = decide (0x01 ∈ lead) := by
    rw [List.append_assoc, leading_map_tokenOf hlead, holds_map_tokenOf tokenOf_eq_attach]
    cases body with
    | nil => rw [htrail rfl]; nofun
    | cons b bs => rintro _ ⟨⟩; exact hends b (.inl rfl)
  have hglue : holds .glue ((lead ++ body ++ trail).map tokenOf) = decide (0x06 ∈ lead ++ body ++ trail) :=
    holds_map_tokenOf tokenOf_eq_glue _
  have hjoins := fun characters => Capture.addPiece_joins c strokes characters
    (decide (0x06 ∈ lead ++ body ++ trail)) (decide (0x01 ∈ lead))
    (entryBuffer c.buffer (tokens (lead ++ body ++ trail)))
  have hcount : (caseWalk c.buffer.cap ((lead ++ body ++ trail).map tokenOf)).chars.length =
      ((lead ++ body ++ trail).map tokenOf).countP Token.isLit := (caseWalk_length _ _).trans (Nat.zero_add _)
  rw [Capture.entryPiece_eq, htokens, hleading, hglue]
  rw [htokens] at hjoins
  refine ⟨fun pre b post htext hpre hb => ?_, fun hnone => ?_, ⟨fun pre b post htext hpre hb => ?_, fun hnone => ?_⟩,
    fun hsome => ?_, fun hnone => ?_⟩
  · rw [← (caseWalk_letter (m := c.buffer.cap) hpre hb).2, ← htext]; exact hjoins _
  · rw [← (caseWalk_noLetter (m := c.buffer.cap) hnone).2]; exact hjoins _
  · rw [htext]; exact (entryBuffer_cap _ _).trans (caseWalk_letter hpre hb).1
  · exact (entryBuffer_cap _ _).trans (caseWalk_noLetter hnone).1
  · obtain ⟨b, hb⟩ := Option.ne_none_iff_exists'.1 (mt List.getLast?_eq_none_iff.1 hsome)
    have hlast : isLiteral b = true := hends b (.inr hb)
    obtain ⟨init, rfl⟩ := List.getLast?_eq_some_iff.1 hb
    have hchars : (caseWalk c.buffer.cap ((lead ++ (init ++ [b]) ++ trail).map tokenOf)).chars.isEmpty = false := by
      rw [List.isEmpty_eq_false_iff, ← List.length_pos_iff, hcount, List.countP_pos_iff]
      exact ⟨tokenOf b, by simp, (isLit_tokenOf b).trans hlast⟩
    have htrailing : trailing ((lead ++ (init ++ [b]) ++ trail).map tokenOf) = trail.map tokenOf := by
      have := trailing_map_tokenOf (before := lead ++ init) hlast hbehind
      simpa using this
    show (entryBuffer _ _).attachNext = _ ∧ (entryBuffer _ _).glueLast = _
    unfold entryBuffer; dsimp only
    rw [hchars, if_neg Bool.false_ne_true, htrailing, holds_map_tokenOf tokenOf_eq_attach, hglue]; exact ⟨rfl, rfl⟩
  · obtain rfl := hnone
    obtain rfl := htrail rfl
    have hchars : (caseWalk c.buffer.cap ((lead ++ [] ++ []).map tokenOf)).chars.isEmpty = true := by
      rw [List.isEmpty_iff_length_eq_zero, hcount, List.countP_eq_zero]
      intro t ht
      obtain ⟨b, hb, rfl⟩ := List.mem_map.1 ht
      rw [isLit_tokenOf, hlead b (by simpa using hb)]; exact Bool.false_ne_true
    show (entryBuffer _ _).attachNext = _ ∧ (entryBuffer _ _).glueLast = _
    unfold entryBuffer; dsimp only
    rw [hchars, if_pos rfl, holds_map_tokenOf tokenOf_eq_attach, hglue, List.append_nil, List.append_nil]
    exact ⟨rfl, rfl⟩

/-- DEF_CLOSE stands among the tokens of such a text where its byte stands in it. -/
theorem holds_defClose {text : List Byte} (h : ∀ b ∈ text, definable b = true ∨ isCodeByte b = true) :
    holds .defClose (tokens text) = decide (0x0A ∈ text) := by
  rw [tokens_eq h]; exact holds_map_tokenOf tokenOf_eq_defClose text

end

end Sys2Proof.Machine
end

section
/-! PROOFS. A unit joins the history: the room made for it, its record, and what the creation of WORD, NUMBER, UNTRAN
and GAP units does (R61, R82, R84 to R86, R110, R112). -/

namespace Sys2Proof.Machine

/-! ### Room changes nothing of the translator but the history -/

/-- From s to t nothing of the translator but the history has changed. -/
def HistoryOnly (s t : State) : Prop := t.translator = { s.translator with history := t.translator.history }

theorem HistoryOnly.trans {s t u : State} (h : HistoryOnly s t) (k : HistoryOnly t u) : HistoryOnly s u := by
  unfold HistoryOnly at h k ⊢; rw [k, h]

theorem FloorAct.historyOnly {s t : State} (h : FloorAct s t) : HistoryOnly s t := by
  unfold HistoryOnly; rw [h.translator]

theorem releaseUnit_historyOnly (i : Nat) (u : TextUnit) (s : State) : HistoryOnly s (releaseUnit i u s) := by
  unfold releaseUnit; dsimp only; split
  · exact HistoryOnly.trans rfl (drainCheck_act _).historyOnly
  · exact HistoryOnly.trans rfl ((broadcast_act _ _).trans (drainCheck_act _)).historyOnly
  · exact HistoryOnly.trans rfl ((broadcast_act _ _).trans (drainCheck_act _)).historyOnly
  · exact HistoryOnly.trans rfl (drainCheck_act _).historyOnly

theorem releaseDue_historyOnly (n : Nat) (s : State) : HistoryOnly s (releaseDue n s) := by
  induction n generalizing s with
  | zero => rfl
  | succ n ih =>
    unfold releaseDue; split
    · rfl
    · split
      · exact (releaseUnit_historyOnly _ _ s).trans (ih _)
      · rfl

theorem settle_historyOnly (s : State) : HistoryOnly s (settle s) := (releaseDue_historyOnly _ s).trans rfl

theorem forceOldest_historyOnly (u : TextUnit) (s : State) : HistoryOnly s (forceOldest u s) := by
  unfold forceOldest; split
  · exact releaseUnit_historyOnly _ _ s
  · rfl

/-- Making room changes nothing of the translator but the history (R86). -/
theorem makeRoom_historyOnly (s : State) : HistoryOnly s (makeRoom s) := by
  unfold makeRoom; repeat' split
  · rfl
  · rfl
  · rfl
  · exact (forceOldest_historyOnly _ s).trans
      (HistoryOnly.trans (t := dropOldest _) rfl ((drainCheck_act _).historyOnly.trans (settle_historyOnly _)))

theorem makeRoom_of_lt {s : State} (h : s.translator.history.length < 32) : makeRoom s = s := (makeRoom_made s).1 h

/-! ### The record of a new unit (R84, R110) -/

theorem streamFor_decided (s : State) : StreamDecided s (streamFor s) := by
  refine ⟨fun h => ?_, fun hrun hon => ⟨fun h => ?_, fun h => ?_, fun h => ?_⟩⟩
  · exact if_neg fun hc => h.elim (fun h => h hc.1) fun h => by rw [h] at hc; exact Bool.false_ne_true hc.2
  all_goals
    unfold streamFor; rw [if_pos ⟨hrun, hon⟩]
    rcases h with h | h <;> rw [h]

theorem newUnit_created {a : Assembled} (hk : a.kind ≠ .format) (ht : a.truncated = false) (hs : a.speaker = none)
    (strokes : List Word) (start : Word) (m : State) :
    CreatedNow m m.seq.clock strokes start (newUnit a strokes start none m) :=
  ⟨rfl, rfl, rfl, rfl, by simp [newUnit, takesMark, hk], rfl, ht, rfl, hs, rfl, rfl, rfl, streamFor_decided m⟩

/-! ### A unit joins (R84, R112) -/

/-- A unit has joined m, which has room for it: where it is the oldest HELD one the hold-back timer runs for it, and an
UNTRAN asks for its pattern. -/
def unitJoined (a : Assembled) (strokes : List Word) (start : Word) (gap : Option Nat) (m : State) : State :=
  { appendUnit (newUnit a strokes start gap m) a.after m with
    release :=
      { m.release with
        holdTimer :=
          if (oldestHeld m.translator.history).isSome then m.release.holdTimer
          else if m.release.active then some m.settings.holdBack else none }
    status := (if a.kind = .untran then requestPattern .untran m else m).status }

theorem unitJoined_onlyJoined (a : Assembled) (strokes : List Word) (start : Word) (gap : Option Nat) (m : State) :
    OnlyJoined m (unitJoined a strokes start gap m) := by
  have hstatus : (unitJoined a strokes start gap m).status =
      { m.status with
        playing := (unitJoined a strokes start gap m).status.playing
        waiting := (unitJoined a strokes start gap m).status.waiting } := by
    show (if _ then _ else _ : State).status = _
    unfold unitJoined requestPattern StatusUnit.request
    dsimp only
    repeat' split
    all_goals rfl
  unfold OnlyJoined; rw [← hstatus]; rfl

/-- A unit without a speaker is reported to the pattern player only (R84). -/
theorem reportUnit_eq {u : TextUnit} (hs : u.speaker = none) (m : State) :
    reportUnit u m =
      { m with status := (if u.kind = .untran then requestPattern .untran m else m).status } := by
  unfold reportUnit; dsimp only; rw [hs, Option.isSome_none, if_neg Bool.false_ne_true]
  split
  · exact requestPattern_eq _ _
  · rfl

theorem requestPattern_status {s t : State} (p : Pattern) (h1 : t.seq = s.seq) (h2 : t.status = s.status) :
    (requestPattern p t).status = (requestPattern p s).status := by
  unfold requestPattern; rw [h1, h2]; split
  · exact h2
  · rfl

/-- A unit created now is not due where the hold-back time is not 0 (R112). -/
theorem due_of_created {s : State} {u : TextUnit} (hb : 0 < s.settings.holdBack) (h : u.created = s.seq.clock) :
    due s u = false := by
  unfold due interval; rw [h, BitVec.sub_self]
  exact decide_eq_false (by simp; omega)

/-- The release check with a unit created now as the only HELD one sets the hold-back timer for it. -/
theorem settle_created {s : State} {us : List TextUnit} {u : TextUnit} (hb : 0 < s.settings.holdBack)
    (hh : s.translator.history = us ++ [u]) (hus : ∀ v ∈ us, v.released = true) (hu : u.released = false)
    (hc : u.created = s.seq.clock) :
    settle s =
      { s with
        release := { s.release with holdTimer := if s.release.active then some s.settings.holdBack else none } } := by
  have hdue : due s u = false := due_of_created hb hc
  have hold : oldestHeld s.translator.history = some (us.length, u) := by
    have hu' : OldestHeld s us u [] := ⟨hh, hus, hu⟩
    rcases oldestHeld_cases s with ⟨-, hall⟩ | ⟨us', u', vs', h1, h2⟩
    · rw [hall u (by rw [hh]; simp)] at hu; cases hu
    · obtain ⟨rfl, rfl, -⟩ := hu'.unique h1; exact h2
  have hnone : NothingDue s := by
    intro v hv hr
    rw [hh] at hv
    rcases List.mem_append.1 hv with hv | hv
    · rw [hus v hv] at hr; cases hr
    · rw [List.mem_singleton.1 hv]; exact hdue
  unfold settle; rw [releaseDue_none _ hnone]
  unfold armHold; rw [hold]; dsimp only
  rw [hdue, hc]; unfold interval; rw [BitVec.sub_self]; simp

section
variable {a : Assembled} {strokes : List Word} {start : Word} {gap : Option Nat} {s : State}

/-- The creation of a unit without a speaker: room is made, and the unit joins (R84 to R86). -/
theorem createUnit_eq (hs : a.speaker = none) (hb : 0 < s.settings.holdBack) :
    createUnit a strokes start gap s = unitJoined a strokes start gap (makeRoom s) := by
  have hb' : 0 < (makeRoom s).settings.holdBack := by rw [(makeRoom_act s).core.settings]; exact hb
  unfold createUnit; dsimp only
  generalize makeRoom s = m at hb'
  have hstatus : (if a.kind = .untran then
        requestPattern .untran (appendUnit (newUnit a strokes start gap m) a.after m)
      else appendUnit (newUnit a strokes start gap m) a.after m).status =
      (if a.kind = .untran then requestPattern .untran m else m).status := by
    split
    · exact requestPattern_status _ rfl rfl
    · rfl
  have hreport :
      reportUnit (newUnit a strokes start gap m) (appendUnit (newUnit a strokes start gap m) a.after m) = _ :=
    (reportUnit_eq hs _).trans (congrArg
      (fun u => { appendUnit (newUnit a strokes start gap m) a.after m with status := u }) hstatus)
  rw [hreport]
  unfold unitJoined
  cases hold : oldestHeld m.translator.history with
  | some p => rfl
  | none =>
    have hus : ∀ v ∈ m.translator.history, v.released = true := by
      rcases oldestHeld_cases m with ⟨-, h⟩ | ⟨us, u, vs, -, h⟩
      · exact h
      · rw [h] at hold; cases hold
    rw [Option.isSome_none, if_neg Bool.false_ne_true]
    exact settle_created (us := m.translator.history) (u := newUnit a strokes start gap m) hb' rfl hus rfl rfl

theorem createUnit_onlyJoined (hs : a.speaker = none) (hb : 0 < s.settings.holdBack) :
    OnlyJoined (makeRoom s) (createUnit a strokes start gap s) := by
  rw [createUnit_eq hs hb]; exact unitJoined_onlyJoined _ _ _ _ _

end

theorem unitAfter_makeRoom (s : State) : succNonzero (makeRoom s).translator.nextUnit = unitAfter (makeRoom s) :=
  succNonzero_eq _

theorem makeRoom_formatting (s : State) : (makeRoom s).translator.formatting = s.translator.formatting := by
  rw [makeRoom_historyOnly s]

/-- A GAP unit joins where room has been made for it (R61, R82). -/
theorem createUnit_gapJoins {s : State} (hb : 0 < s.settings.holdBack) (count : Nat) (start : Word) :
    GapJoins (makeRoom s) (createUnit (assembleGap s.translator.formatting) [] start (some count) s) s.seq.clock count
      start := by
  rw [createUnit_eq rfl hb, ← makeRoom_formatting, ← (makeRoom_act s).core.seq]
  exact ⟨_, _, rfl, streamFor_decided _, by simp [newUnit, assembleGap, takesMark], rfl,
    by simp [unitJoined, appendUnit, newUnit, assembleGap, takesMark], unitAfter_makeRoom s⟩

/-- An entry of 1 to 120 characters joins as one WORD unit of its strokes (R76, R83, R84). -/
theorem createUnit_wordJoins {s : State} {text : List Byte} (hb : 0 < s.settings.holdBack) (h : PlainText text) :
    ∃ a, assembleEntry s.settings.labels s.translator.formatting text = some a ∧ a.speaker = none ∧
      ∀ taken : List Taken,
        WordJoins (makeRoom s)
          (createUnit a (taken.map Taken.number) ((taken.head?.map Taken.start).getD 0) none s) s.seq.clock taken
          text := by
  obtain ⟨a, ha, hkind, hspeaker, htruncated, hparagraph, hspace⟩ :=
    h.assembleEntry_eq s.settings.labels s.translator.formatting
  refine ⟨a, ha, hspeaker, fun taken => ?_⟩
  have hmark : takesMark a.kind = true := by rw [hkind]; rfl
  rw [createUnit_eq hspeaker hb, ← (makeRoom_act s).core.seq]
  rw [← (makeRoom_act s).core.settings, ← makeRoom_formatting] at ha
  rw [← makeRoom_formatting] at hparagraph hspace
  refine ⟨_, a, ha, rfl, hkind, rfl, newUnit_created (by rw [hkind]; nofun) htruncated hspeaker _ _ _,
    ⟨hparagraph, ?_⟩, rfl, ?_, unitAfter_makeRoom s⟩
  · show a.spaceBefore = true ↔ _
    rw [hspace]; simp
  · simp [unitJoined, appendUnit, newUnit, hmark]

/-- What assembly makes of a stroke without text: a NUMBER where conversion succeeds, else an UNTRAN (R55, R82). -/
def keysAssembled (f : Formatting) (k : KeySet) : Assembled :=
  match convertNumber k with
  | some digits => assembleNumber f digits
  | none => assembleUntran f (untranslate k)

theorem keysAssembled_number (f : Formatting) {k : KeySet} {digits : List Byte} (h : convertNumber k = some digits) :
    keysAssembled f k = assembleNumber f digits := by
  unfold keysAssembled; rw [h]

theorem keysAssembled_untran (f : Formatting) {k : KeySet} (h : convertNumber k = none) :
    keysAssembled f k = assembleUntran f (untranslate k) := by
  unfold keysAssembled; rw [h]

theorem keysAssembled_plain (f : Formatting) (k : KeySet) :
    (keysAssembled f k).speaker = none ∧ (keysAssembled f k).kind ≠ .format ∧
      (keysAssembled f k).truncated = false ∧
      (keysAssembled f k).after =
        { f with
          attachNext := false, paragraphStart := false
          glueLast := decide ((keysAssembled f k).kind = .number) } := by
  unfold keysAssembled
  cases convertNumber k with
  | some digits => exact ⟨rfl, nofun, rfl, rfl⟩
  | none => exact ⟨rfl, nofun, rfl, rfl⟩

theorem takesSpace_plain (f : Formatting) (number : Bool) :
    takesSpace f f.paragraphStart false number = true ↔
      f.paragraphStart = false ∧ f.attachNext = false ∧ ¬ (number = true ∧ f.glueLast = true) := by
  unfold takesSpace
  simp only [Bool.and_eq_true, Bool.not_eq_true', Bool.not_false, and_true, Bool.and_eq_false_iff, not_and_or,
    Bool.not_eq_true, and_assoc]

/-- The unit of a stroke without text (R65 to R67, R82). -/
theorem newUnit_keys (k : KeySet) (strokes : List Word) (start : Word) (m : State) :
    let u := newUnit (keysAssembled m.translator.formatting k) strokes start none m
    (∀ digits, convertNumber k = some digits →
      u.kind = .number ∧ u.text = digits ∧ SpacedPlainly m.translator.formatting true u) ∧
    (convertNumber k = none →
      u.kind = .untran ∧ u.text = untranslate k ∧ SpacedPlainly m.translator.formatting false u) := by
  refine ⟨fun digits h => ?_, fun h => ?_⟩
  · rw [keysAssembled_number _ h]; exact ⟨rfl, rfl, rfl, takesSpace_plain _ true⟩
  · rw [keysAssembled_untran _ h]; exact ⟨rfl, rfl, rfl, takesSpace_plain _ false⟩

theorem createUnit_keysJoin {s : State} (hb : 0 < s.settings.holdBack) (x : Taken) :
    KeysJoin (makeRoom s)
      (createUnit (keysAssembled s.translator.formatting x.keys) [x.number] x.start none s) s.seq.clock x := by
  obtain ⟨hspeaker, hkind, htruncated, hafter⟩ := keysAssembled_plain s.translator.formatting x.keys
  rw [createUnit_eq hspeaker hb, ← (makeRoom_act s).core.seq]
  rw [← makeRoom_formatting] at hspeaker hkind htruncated hafter ⊢
  obtain ⟨hnumber, huntran⟩ := newUnit_keys x.keys [x.number] x.start (makeRoom s)
  refine ⟨_, rfl, newUnit_created hkind htruncated hspeaker _ _ _, hnumber, huntran, hafter, ?_, unitAfter_makeRoom s⟩
  simp [unitJoined, appendUnit, newUnit, takesMark, hkind]

end Sys2Proof.Machine
end

section
/-! PROOFS. A result that resolves: the front part of the sequence joins as a unit, the strokes behind it are
re-processed, and an overrun marker is dealt with last (R54 to R57, R61, R62). -/

namespace Sys2Proof.Machine

/-! ### The front part (R55) -/

/-- Entries whose results have no text leave what the entries before them have found. -/
theorem foldl_textless {α : Type} {g : α → PendingEntry × Nat → α}
    (hg : ∀ acc p, p.1.result.text = none → g acc p = acc) {q : List PendingEntry}
    (hq : ∀ y ∈ q, y.result.text = none) (acc : α) (k : Nat) : (q.zipIdx k).foldl g acc = acc := by
  induction q generalizing k with
  | nil => rfl
  | cons y ys ih =>
    obtain ⟨hy, hys⟩ := List.forall_mem_cons.1 hq
    rw [List.zipIdx_cons, List.foldl_cons, hg _ _ hy, ih hys]

theorem longestText_none {q : List PendingEntry} (h : ∀ y ∈ q, y.result.text = none) : longestText q = none :=
  foldl_textless (fun acc p hp => by rw [hp]) h none 0

/-- The longest front part whose last result has text ends at the last such entry. -/
theorem longestText_last {es rest : List PendingEntry} {e : PendingEntry} {entry : TextEntry}
    (he : e.result.text = some entry) (hrest : ∀ y ∈ rest, y.result.text = none) :
    longestText (es ++ e :: rest) = some (es.length + 1, entry) := by
  unfold longestText
  rw [List.zipIdx_append, List.foldl_append, List.zipIdx_cons, List.foldl_cons,
    foldl_textless (fun acc p hp => by rw [hp]) hrest]
  dsimp only; rw [he, Nat.zero_add]

/-- With text in the sequence, the part that ends at its last text is handed on as that entry. -/
theorem resolveFront_entry {s : State} {es rest : List PendingEntry} {e : PendingEntry} {entry : TextEntry}
    (hq : s.translator.sequence = es ++ e :: rest) (he : e.result.text = some entry)
    (hrest : ∀ y ∈ rest, y.result.text = none) :
    resolveFront s =
      (deliver (.entry entry) ((es ++ [e]).map PendingEntry.stroke) (setSequence [] s),
        rest.map PendingEntry.stroke) := by
  have hsplit : (es ++ e :: rest).map PendingEntry.stroke =
      (es ++ [e]).map PendingEntry.stroke ++ rest.map PendingEntry.stroke := by simp
  have hlength : es.length + 1 = ((es ++ [e]).map PendingEntry.stroke).length := by simp
  unfold resolveFront; dsimp only
  rw [hq, longestText_last he hrest, hsplit]; dsimp only
  rw [hlength, List.take_left, List.drop_left]

/-- With no text in it, its first stroke alone is handed on by its keys. -/
theorem resolveFront_keys {s : State} {e : PendingEntry} {rest : List PendingEntry}
    (hq : s.translator.sequence = e :: rest) (h : ∀ y ∈ e :: rest, y.result.text = none) :
    resolveFront s =
      (deliver (resolveKeys e.stroke.keys) [e.stroke] (setSequence [] s), rest.map PendingEntry.stroke) := by
  unfold resolveFront; dsimp only
  rw [hq, longestText_none h]; rfl

/-- Outside a definition's text an entry of characters is handed to text assembly, and no command with it. -/
theorem deliver_word {s : State} {entry : TextEntry} {a : Assembled} (hc : s.translator.capture.state ≠ .text)
    (h : PlainText entry.text) (ha : assembleEntry s.settings.labels s.translator.formatting entry.text = some a)
    (strokes : List Taken) :
    deliver (.entry entry) strokes s =
      createUnit a (strokes.map Taken.number) ((strokes.head?.map Taken.start).getD 0) none s := by
  unfold deliver; dsimp only; rw [if_neg hc]
  unfold deliverUnit assembleAndHand; dsimp only
  rw [h.commandsBefore_eq, h.commandsAfter_eq]; simp only [List.foldl_nil, ha]

theorem deliver_keys {s : State} (hc : s.translator.capture.state ≠ .text) (x : Taken) :
    deliver (resolveKeys x.keys) [x] s =
      createUnit (keysAssembled s.translator.formatting x.keys) [x.number] x.start none s := by
  unfold deliver; dsimp only; rw [if_neg hc]
  unfold resolveKeys keysAssembled
  cases convertNumber x.keys <;> rfl

/-- The front part of a sequence joins as a unit, in this way, and these entries are left behind it. -/
def FrontJoins (s : State) (q rest : List PendingEntry) (joins : State → State → Prop) : Prop :=
  ∃ a numbers start, a.speaker = none ∧
    resolveFront (setSequence q s) =
      (createUnit a numbers start none (setSequence [] s), rest.map PendingEntry.stroke) ∧
    joins (makeRoom (setSequence [] s)) (createUnit a numbers start none (setSequence [] s))

section
variable {s : State} {rest : List PendingEntry} {e : PendingEntry} (hc : s.translator.capture.state ≠ .text)
  (hb : 0 < s.settings.holdBack)
include hc hb

theorem frontJoins_word {es : List PendingEntry} {entry : TextEntry} (he : e.result.text = some entry)
    (hrest : ∀ y ∈ rest, y.result.text = none) (h : PlainText entry.text) :
    FrontJoins s (es ++ e :: rest) rest fun m t =>
      WordJoins m t s.seq.clock ((es ++ [e]).map PendingEntry.stroke) entry.text := by
  obtain ⟨a, ha, hspeaker, hjoins⟩ := createUnit_wordJoins (s := setSequence [] s) hb h
  refine ⟨a, _, _, hspeaker, ?_, hjoins _⟩
  rw [resolveFront_entry rfl he hrest]
  exact congrArg (·, _) (deliver_word (s := setSequence [] s) hc h ha _)

theorem frontJoins_keys (h : ∀ y ∈ e :: rest, y.result.text = none) :
    FrontJoins s (e :: rest) rest fun m t => KeysJoin m t s.seq.clock e.stroke := by
  refine ⟨_, _, _, (keysAssembled_plain _ _).1, ?_, createUnit_keysJoin (s := setSequence [] s) hb e.stroke⟩
  rw [resolveFront_keys rfl h]
  exact congrArg (·, _) (deliver_keys (s := setSequence [] s) hc e.stroke)

end

/-- Two states hold the same units, the same formatting state, mark-next latch and next number. -/
def SameUnits (t t' : State) : Prop :=
  t'.translator.history = t.translator.history ∧ t'.translator.formatting = t.translator.formatting ∧
    t'.translator.markNext = t.translator.markNext ∧ t'.translator.nextUnit = t.translator.nextUnit

theorem WordJoins.congr {m t t' : State} {now : Word} {taken : List Taken} {text : List Byte}
    (h : WordJoins m t now taken text) (k : SameUnits t t') : WordJoins m t' now taken text := by
  obtain ⟨k1, k2, k3, k4⟩ := k
  unfold WordJoins; rw [k1, k2, k3, k4]; exact h

theorem KeysJoin.congr {m t t' : State} {now : Word} {x : Taken} (h : KeysJoin m t now x) (k : SameUnits t t') :
    KeysJoin m t' now x := by
  obtain ⟨k1, k2, k3, k4⟩ := k
  unfold KeysJoin; rw [k1, k2, k3, k4]; exact h

/-! ### A lookup's completion (R47, R54, R56, R59) -/

theorem applyInbox_nil {s : State} (h : s.inbox = []) : applyInbox s = s := by
  unfold applyInbox; rw [h, List.foldl_nil, ← h]

theorem takeRequest_none {s : State} (h : s.lookup.request = none) : takeRequest s = s := by
  unfold takeRequest; rw [h]

/-- With no request made and no definition waiting, the completion ends with the event's own work. -/
theorem completion_ends {s : State} (hi : s.inbox = []) (hr : s.lookup.request = none) :
    takeRequest (applyInbox s) = s := by
  rw [applyInbox_nil hi, takeRequest_none hr]

/-- A new search keeps its outline, and changes the search, the status unit and nothing else. -/
theorem beginSearch_eq (outline : List KeySet) (s : State) :
    ∃ search, search.outline = outline ∧
      beginSearch outline s =
        { s with
          lookup := { s.lookup with search := some search }, status := (beginSearch outline s).status } := by
  unfold beginSearch; dsimp only
  split
  · refine ⟨_, ?_, rfl⟩
    rw [nextWindow_kept]
  · rename_i g _
    rw [searchStep_eq]
    refine ⟨_, ?_, (setFlagIf_eq _ _ _)⟩
    generalize probeRam s.port .overlay g outline _ _ = step
    cases step with
    | more p => rfl
    | ended text cont bad => exact (congrArg Search.outline (windowEnded_kept _ _ _ _) :)

/-- A request made with no lookup under way is taken at once (R46, R47). -/
theorem completion_asks {s : State} (hi : s.inbox = []) (hs : s.lookup.search = none) (outline : List KeySet)
    (w : List Work) :
    ∃ search t, search.outline = outline ∧ takeRequest (applyInbox (askFor outline w s)) = t ∧
      t =
        { s with
          translator := { s.translator with work := w }
          lookup := { s.lookup with search := some search, request := none }
          status := t.status
          port := { s.port with flash := t.port.flash, burstGranted := t.port.burstGranted } } := by
  rw [applyInbox_nil (s := askFor outline w s) hi]
  have htake : takeRequest (askFor outline w s) =
      arbitrate (beginSearch outline
        { askFor outline w s with lookup := { (askFor outline w s).lookup with request := none } }) := by
    unfold takeRequest
    rw [show (askFor outline w s).lookup.search = none from hs,
      show (askFor outline w s).inbox.isEmpty = true from List.isEmpty_iff.2 hi]
    rfl
  obtain ⟨search, ho, heq⟩ := beginSearch_eq outline
    { askFor outline w s with lookup := { (askFor outline w s).lookup with request := none } }
  refine ⟨search, _, ho, htake, ?_⟩
  rw [arbitrate_eq, heq]; rfl

theorem AwaitsResult.request_none {s : State} {q : Search} {w : List Work} (h : AwaitsResult s q w) :
    s.lookup.request = none := by
  obtain ⟨-, -, hrequest, -, -⟩ := h; exact hrequest

theorem AwaitsResult.inbox_nil {s : State} {q : Search} {w : List Work} (h : AwaitsResult s q w) : s.inbox = [] := by
  obtain ⟨-, -, -, hinbox, -⟩ := h; exact hinbox

/-- The work that waits for a result takes this stroke, with this work behind it. -/
def TakesStroke (work : List Work) (x : Taken) (w : List Work) : Prop :=
  work = .stroke x :: w ∨ ∃ xs w', work = .reprocess (x :: xs) :: w' ∧ w = .reprocess xs :: w'

theorem lookupCompletes_stroke {s : State} {q : Search} {work w : List Work} {x : Taken} (h : AwaitsResult s q work)
    (hw : TakesStroke work x w) :
    exec .lookupCompletion s =
      .next (takeRequest (applyInbox (strokeResult x q.result w (setSearch none s)))) := by
  obtain ⟨hsearch, hprobe, -, -, hwork⟩ := h
  have hcont : continueEvent q.result (setSearch none s) = strokeResult x q.result w (setSearch none s) := by
    unfold continueEvent
    rw [show (setSearch none s).translator.work = work from hwork]
    rcases hw with rfl | ⟨xs, w', rfl, rfl⟩ <;> rfl
  show Host.Outcome.next (lookupCompletes s) = _
  unfold lookupCompletes; rw [hsearch]; dsimp only
  rw [hprobe, Option.isSome_none, if_neg Bool.false_ne_true, setSearch_translator, hwork, ← hcont]
  rcases hw with rfl | ⟨xs, w', rfl, rfl⟩ <;> rfl

theorem lookupCompletes_core (s : State) : CoreKept s (lookupCompletes s) := by
  have hinbox : ∀ t : State, CoreKept t (applyInbox t) := fun t =>
    (by constructor <;> (intros; rfl) : CoreKept t { t with inbox := [] }).trans (applyInbox_act t).core
  unfold lookupCompletes; dsimp only; repeat' split
  · exact .refl s
  · exact .refl s
  · exact (setSearch_act _ s).trans ((setSequence_act _ _).trans ((hinbox _).trans
      ((recomputeNext_act _ _ _).trans (takeRequest_act _))))
  · exact (setSearch_act _ s).trans ((continueEvent_act _ _).trans ((hinbox _).trans (takeRequest_act _)))

section
variable {s : State} {t : Taken} {r : LookupResult} {w : List Work}

/-- In DEF_OUTLINE the stroke goes to the outline (R102). -/
theorem strokeResult_outline (h : s.translator.capture.state = .outline) :
    strokeResult t r w s = runWork w (outlineStroke t r s) := if_pos h

/-- A result that says more may follow, with room in the sequence, holds the stroke (R54). -/
theorem strokeResult_holds (h : s.translator.capture.state ≠ .outline) (hcont : r.cont = true)
    (hroom : s.translator.sequence.length < 7) :
    strokeResult t r w s = runWork w (setSequence (s.translator.sequence ++ [⟨t, r⟩]) s) := by
  unfold strokeResult; rw [if_neg h]
  exact if_pos (by simp [hcont]; omega)

/-- Any other result resolves the sequence with its stroke (R54, R55). -/
theorem strokeResult_resolves (h : s.translator.capture.state ≠ .outline)
    (hres : r.cont = false ∨ 7 ≤ s.translator.sequence.length) :
    strokeResult t r w s =
      runWork (.reprocess (resolveFront (setSequence (s.translator.sequence ++ [⟨t, r⟩]) s)).2 :: w)
        (resolveFront (setSequence (s.translator.sequence ++ [⟨t, r⟩]) s)).1 := by
  unfold strokeResult; rw [if_neg h]
  refine if_neg ?_
  rcases hres with hres | hres
  · simp [hres]
  · simp; omega

/-- With an empty sequence the end of an event stops the resolve timer (R59). -/
theorem endEvent_empty (h : s.translator.sequence = []) :
    endEvent s = withOwn [] none s.translator.capture s := by
  unfold endEvent; rw [h]; rfl

theorem runWork_force_nil (h : s.translator.sequence = []) : runWork (.force :: w) s = runWork w s := by
  rw [runWork, h]; rfl

theorem runWork_force_front {u : State} {ts : List Taken} (h : s.translator.sequence ≠ [])
    (hfront : resolveFront s = (u, ts)) :
    runWork (.force :: w) s = runWork (if ts = [] then w else .reprocess ts :: .force :: w) u := by
  rw [runWork, if_neg (by simpa using h), hfront]
  cases ts <;> rfl

/-- In NORMAL a marker that is met abandons nothing (R62). -/
theorem meetMarker_normal (h : s.translator.capture.state = .normal) : meetMarker s = s := by
  have hcapture : { s.translator.capture with
      abandoned := s.translator.capture.abandoned || decide (s.translator.capture.state ≠ .normal) } =
        s.translator.capture := by rw [h]; simp
  unfold meetMarker; dsimp only; rw [hcapture]; rfl

end

/-! ### The two ends of a resolution (R56, R59) -/

/-- The strokes behind a front part are asked for, oldest first, each from an empty sequence (R56). -/
theorem completion_reprocesses {s : State} (hi : s.inbox = []) (hs : s.lookup.search = none)
    (hq : s.translator.sequence = []) (hc : s.translator.capture.state ≠ .outline) (y : Taken) (ys : List Taken)
    (w : List Work) :
    ∃ t, takeRequest (applyInbox (askFor (takeOutline s y) (.reprocess (y :: ys) :: w) s)) = t ∧ SameUnits s t ∧
      Reprocesses t (y :: ys) w ∧
      t =
        { s with
          translator := { s.translator with work := .reprocess (y :: ys) :: w }
          lookup := t.lookup, status := t.status
          port := { s.port with flash := t.port.flash, burstGranted := t.port.burstGranted } } := by
  have houtline : takeOutline s y = [y.keys] := by
    unfold takeOutline sequenceKeys; rw [if_neg hc, hq]; rfl
  obtain ⟨search, t, ho, ht, heq⟩ := completion_asks hi hs (takeOutline s y) (.reprocess (y :: ys) :: w)
  refine ⟨t, ht, ?_, ⟨?_, ?_⟩, ?_⟩
  · rw [heq]; exact ⟨rfl, rfl, rfl, rfl⟩
  · rw [heq]; exact hq
  · rintro y ys ⟨⟩
    rw [heq]; exact ⟨rfl, search, rfl, ho.trans houtline⟩
  · rw [heq]

section
variable {s t : State} {q : Search} {work w : List Work} {x y : Taken} {ys : List Taken}
  (h : AwaitsResult s q work) (hc : s.translator.capture.state ≠ .outline)
  (hres : q.result.cont = false ∨ 7 ≤ s.translator.sequence.length)
include h hc hres

/-- A resolution that leaves no stroke and no work behind it ends its event. -/
theorem resolution_ends (hw : TakesStroke work x [])
    (hfront : resolveFront (setSequence (s.translator.sequence ++ [⟨x, q.result⟩]) (setSearch none s)) = (t, []))
    (hq : t.translator.sequence = []) (hi : t.inbox = []) (hr : t.lookup.request = none) :
    exec .lookupCompletion s = .next (withOwn [] none t.translator.capture t) := by
  rw [lookupCompletes_stroke h hw, strokeResult_resolves (s := setSearch none s) hc hres]
  rw [setSearch_translator, hfront]
  show Host.Outcome.next (takeRequest (applyInbox (endEvent t))) = _
  rw [endEvent_empty hq, completion_ends (s := withOwn [] none t.translator.capture t) hi hr]

/-- A resolution that leaves strokes behind it looks the first of them up, with the work before it left behind. -/
theorem resolution_reprocesses (hw : TakesStroke work x w)
    (hfront : resolveFront (setSequence (s.translator.sequence ++ [⟨x, q.result⟩]) (setSearch none s)) = (t, y :: ys))
    (hq : t.translator.sequence = []) (ht : t.translator.capture.state ≠ .outline) (hi : t.inbox = [])
    (hs : t.lookup.search = none) :
    ∃ u, exec .lookupCompletion s = .next u ∧ SameUnits t u ∧ Reprocesses u (y :: ys) w := by
  obtain ⟨u, hu, hsame, hre, -⟩ := completion_reprocesses hi hs hq ht y ys w
  refine ⟨u, ?_, hsame, hre⟩
  rw [lookupCompletes_stroke h hw, strokeResult_resolves (s := setSearch none s) hc hres]
  rw [setSearch_translator, hfront]
  exact congrArg _ hu

end

/-- A refused definition leaves no capture, and its flag (R62, R102). -/
theorem refuseCapture_eq (s : State) :
    refuseCapture s =
      { s with
        translator := { s.translator with capture := noCapture }, status := (setFlag .defRefused s).status } := by
  unfold refuseCapture
  rw [setFlag_eq, setFlag_status (s := s) (t := setCapture .closed s) .defRefused rfl rfl]; rfl

/-! ### The last step of an overrun marker (R61, R62) -/

section
variable {s : State} (hq : s.translator.sequence = []) (hb : 0 < s.settings.holdBack) (count : Nat) (start : Word)
include hq hb

/-- The creation of a GAP unit with which an event ends: the unit joins behind the room made for it. -/
theorem gapCreated_endEvent :
    let r := withOwn [] none s.translator.capture s
    let t := endEvent (createUnit (assembleGap s.translator.formatting) [] start (some count) s)
    RoomMade r (makeRoom r) ∧ GapJoins (makeRoom r) t s.seq.clock count start ∧ OnlyJoined (makeRoom r) t ∧
      t.inbox = s.inbox ∧ t.lookup = s.lookup := by
  have hact := createUnit_act (assembleGap s.translator.formatting) [] start (some count) s
  intro r t
  have ht : t = createUnit (assembleGap r.translator.formatting) [] start (some count) r := by
    show endEvent _ = createUnit (assembleGap s.translator.formatting) [] start (some count) (withOwn _ _ _ s)
    rw [createUnit_withOwn, endEvent_empty (hact.sequence.trans hq), hact.capture]
  refine ⟨makeRoom_made r, ?_, ?_, hact.inbox, hact.lookup⟩
  · rw [ht]; exact createUnit_gapJoins (s := r) hb count start
  · rw [ht]; exact createUnit_onlyJoined rfl hb

/-- A definition that the marker has abandoned is refused before its GAP unit joins. -/
theorem gapBehind_refused {c : Capture} (hc : c.abandoned = true) :
    let t := endEvent (createUnit (assembleGap s.translator.formatting) [] start (some count) (refuseCapture s))
    GapBehind (withOwn [] none c s) t count start ∧ t.inbox = s.inbox ∧ t.lookup = s.lookup := by
  have heq := refuseCapture_eq s
  have hrefused : withOwn [] none noCapture (refuseCapture s) =
      { withOwn [] none noCapture s with status := (setFlag .defRefused (withOwn [] none c s)).status } := by
    rw [heq, setFlag_status (s := s) (t := withOwn [] none c s) .defRefused rfl rfl]; rfl
  have hformatting : s.translator.formatting = (refuseCapture s).translator.formatting := by rw [heq]
  have hclock : (withOwn [] none c s).seq.clock = (refuseCapture s).seq.clock := by rw [heq]; rfl
  have hcapture : (refuseCapture s).translator.capture = noCapture := by rw [heq]
  obtain ⟨hroom, hgap, honly, hi, hl⟩ := gapCreated_endEvent (s := refuseCapture s) (by rw [heq]; exact hq)
    (by rw [heq]; exact hb) count start
  intro t
  rw [← hformatting] at hgap honly hi hl
  rw [hcapture] at hroom hgap honly
  refine ⟨⟨_, ?_, ?_, honly⟩, hi.trans (by rw [heq]), hl.trans (by rw [heq])⟩
  · rw [if_pos (show (withOwn [] none c s).translator.capture.abandoned = true from hc)]
    rw [hrefused] at hroom ⊢; exact hroom
  · rw [hclock]; exact hgap

/-- In NORMAL the marker refuses a definition only where one is still marked as abandoned. -/
theorem gapBehind_normal (hn : s.translator.capture.state = .normal) (stroke : Word) :
    let t := endEvent (overrunMarker stroke count start s)
    GapBehind (withOwn [] none s.translator.capture s) t count start ∧ t.inbox = s.inbox ∧ t.lookup = s.lookup := by
  have hraw : takenRaw stroke s = false := by unfold takenRaw; rw [hn]; rfl
  intro t
  have ht : t = endEvent (overrunMarker stroke count start s) := rfl
  unfold overrunMarker at ht; dsimp only at ht
  rw [hraw, Bool.or_false] at ht
  rw [ht]
  cases habandoned : s.translator.capture.abandoned with
  | false =>
    rw [if_neg Bool.false_ne_true]
    obtain ⟨hroom, hgap, honly, hi, hl⟩ := gapCreated_endEvent hq hb count start
    refine ⟨⟨_, ?_, hgap, honly⟩, hi, hl⟩
    rw [if_neg (by rw [show (withOwn [] none s.translator.capture s).translator.capture = s.translator.capture from rfl,
      habandoned]; exact Bool.false_ne_true)]
    exact hroom
  | true =>
    rw [if_pos rfl, show (refuseCapture s).translator.formatting = s.translator.formatting by rw [refuseCapture_eq]]
    exact gapBehind_refused hq hb count start habandoned

end

end Sys2Proof.Machine
end

section
/-! PROOFS. LOOKUP_COMPLETION that resolves: the unit of a stroke without text, the front part of a sequence, and an
overrun marker behind a sequence (R54 to R57, R61, R65 to R67, R76, R82, R84, R86). -/

namespace Sys2Proof.Machine

/-- What is said of a unit that joins is a matter of the units, and not of the translator's own record. -/
structure UnitsOnly (joins : State → State → Prop) : Prop where
  after : ∀ {m t t' : State}, SameUnits t t' → joins m t → joins m t'
  before : ∀ (w : List Work) (r : Option Nat) (c : Capture) {m t : State}, joins m t → joins (withOwn w r c m) t

theorem sameUnits_withOwn (w : List Work) (r : Option Nat) (c : Capture) (t : State) :
    SameUnits t (withOwn w r c t) := ⟨rfl, rfl, rfl, rfl⟩

theorem unitsOnly_word (now : Word) (taken : List Taken) (text : List Byte) :
    UnitsOnly fun m t => WordJoins m t now taken text :=
  ⟨fun k h => h.congr k, fun _ _ _ _ _ h => h⟩

theorem unitsOnly_keys (now : Word) (x : Taken) : UnitsOnly fun m t => KeysJoin m t now x :=
  ⟨fun k h => h.congr k, fun _ _ _ _ _ h => h⟩

section
variable {s : State} {q : Search} {work w : List Work} {x : Taken} {rest : List PendingEntry}
  {joins : State → State → Prop}

/-- A resolution in NORMAL: the front part joins where room has been made, and the rest is re-processed before the work
left, or with none left the event ends. -/
theorem resolution_joins (h : AwaitsResult s q work) (hw : TakesStroke work x w)
    (hc : s.translator.capture.state = .normal) (hres : q.result.cont = false ∨ 7 ≤ s.translator.sequence.length)
    (hfront : FrontJoins (setSearch none s) (s.translator.sequence ++ [⟨x, q.result⟩]) rest joins)
    (hjoins : UnitsOnly joins) (hend : rest ≠ [] ∨ w = []) :
    joins (makeRoom (setSequence [] (setSearch none s))) (lookupCompletes s) ∧
      Reprocesses (lookupCompletes s) (rest.map PendingEntry.stroke) w ∧
      (rest = [] → (lookupCompletes s).translator.work = [] ∧ (lookupCompletes s).translator.resolveTimer = none ∧
        (lookupCompletes s).lookup = { s.lookup with search := none }) := by
  obtain ⟨a, numbers, start, -, hresolve, hjoin⟩ := hfront
  have hact := createUnit_act a numbers start none (setSequence [] (setSearch none s))
  have hne : s.translator.capture.state ≠ .outline := by rw [hc]; nofun
  cases rest with
  | nil =>
    obtain rfl := hend.resolve_left (fun h => h rfl)
    have hexec := resolution_ends h hne hres hw hresolve hact.sequence (hact.inbox.trans h.inbox_nil)
      (by rw [hact.lookup]; exact h.request_none)
    rw [show lookupCompletes s = _ from Host.Outcome.next.inj hexec]
    exact ⟨hjoins.after (sameUnits_withOwn _ _ _ _) hjoin, ⟨hact.sequence, nofun⟩, fun _ => ⟨rfl, rfl, hact.lookup⟩⟩
  | cons y ys =>
    obtain ⟨u, hexec, hsame, hre⟩ := resolution_reprocesses h hne hres hw hresolve hact.sequence
      (by rw [hact.capture]; exact hne) (hact.inbox.trans h.inbox_nil) (by rw [hact.lookup]; rfl)
    rw [show lookupCompletes s = u from Host.Outcome.next.inj hexec]
    exact ⟨hjoins.after hsame hjoin, hre, nofun⟩

end

/-- The work behind the front part of a sequence that an overrun marker meets. -/
def behindMarker (q : Search) (s : State) (k : QueuedStroke) (count : Nat) : List Work :=
  if q.result.cont = true ∧ s.translator.sequence.length < 7 then
    [.force, .marker k.stroke.number count k.stroke.finish]
  else markerWork k

/-- How the event of an overrun marker goes on behind a front part that leaves these strokes behind it. -/
def behindFront (k : QueuedStroke) (count : Nat) (behind : List Work) (t : State) : List Taken → State
  | [] => endEvent (overrunMarker k.stroke.number count k.stroke.finish t)
  | y :: ys => askFor (takeOutline t y) (.reprocess (y :: ys) :: behind) t

section
variable {s : State} {q : Search} {k : QueuedStroke} {count : Nat} {t : State} {ys : List Taken}

theorem markerWork_some (hk : k.overrun = some count) :
    markerWork k = [.markerMet, .force, .marker k.stroke.number count k.stroke.finish] := by
  unfold markerWork; rw [hk]

/-- In NORMAL an overrun marker forces the sequence that is held: the event goes on behind its front part, and with
nothing left there the marker is dealt with. -/
theorem marker_completes (hk : k.overrun = some count) (h : AwaitsResult s q (.stroke k.stroke.taken :: markerWork k))
    (hc : s.translator.capture.state = .normal)
    (hfront : resolveFront (setSequence (s.translator.sequence ++ [⟨k.stroke.taken, q.result⟩]) (setSearch none s)) =
      (t, ys))
    (hq : t.translator.sequence = []) (ht : t.translator.capture.state = .normal) :
    lookupCompletes s =
      takeRequest (applyInbox (behindFront k count (behindMarker q s k count) t ys)) := by
  have hne : (setSearch none s).translator.capture.state ≠ .outline := by rw [setSearch_translator, hc]; nofun
  have hexec := Host.Outcome.next.inj (lookupCompletes_stroke h (.inl rfl))
  rw [show lookupCompletes s = _ from hexec]; congr 2
  by_cases hhold : q.result.cont = true ∧ s.translator.sequence.length < 7
  · rw [behindMarker, if_pos hhold, strokeResult_holds hne hhold.1 hhold.2, markerWork_some hk, runWork,
      meetMarker_normal (by exact hc), setSearch_translator, runWork_force_front (by simp) hfront]
    cases ys with
    | nil => rfl
    | cons y ys => rfl
  · rw [behindMarker, if_neg hhold]
    have hres : q.result.cont = false ∨ 7 ≤ s.translator.sequence.length := by
      by_contra hno
      rw [not_or, Bool.not_eq_false, not_le] at hno
      exact hhold hno
    rw [strokeResult_resolves hne hres, setSearch_translator, hfront]
    cases ys with
    | nil => rw [runWork, markerWork_some hk, runWork, meetMarker_normal ht, runWork_force_nil hq]; rfl
    | cons y ys => rfl

/-- Behind a sequence that an overrun marker meets in NORMAL: the front part joins, then the rest is re-processed, or
with none left the GAP unit joins. -/
theorem marker_goesOn {rest : List PendingEntry} {joins : State → State → Prop} (hk : k.overrun = some count)
    (h : AwaitsResult s q (.stroke k.stroke.taken :: markerWork k)) (hc : s.translator.capture.state = .normal)
    (hb : 0 < s.settings.holdBack)
    (hfront : FrontJoins (setSearch none s) (s.translator.sequence ++ [⟨k.stroke.taken, q.result⟩]) rest joins)
    (hjoins : UnitsOnly joins) :
    let m := makeRoom (withOwn [] none s.translator.capture (setSequence [] (setSearch none s)))
    (rest ≠ [] → joins m (lookupCompletes s) ∧
        Reprocesses (lookupCompletes s) (rest.map PendingEntry.stroke) (behindMarker q s k count)) ∧
      (rest = [] → ∃ x, joins m x ∧ OnlyJoined m x ∧ GapBehind x (lookupCompletes s) count k.stroke.finish) := by
  obtain ⟨a, numbers, start, hspeaker, hresolve, hjoin⟩ := hfront
  have hact := createUnit_act a numbers start none (setSequence [] (setSearch none s))
  have hinbox : s.inbox = [] := h.inbox_nil
  have hrequest : s.lookup.request = none := h.request_none
  have hnormal := (congrArg Capture.state hact.capture).trans hc
  have hexec := marker_completes hk h hc hresolve hact.sequence hnormal
  rw [hexec]
  intro m
  have hm : joins m (createUnit a numbers start none (setSequence [] (setSearch none s))) := by
    show joins (makeRoom (withOwn _ _ _ _)) _
    rw [makeRoom_withOwn]; exact hjoins.before _ _ _ hjoin
  cases rest with
  | nil =>
    refine ⟨fun hno => absurd rfl hno, fun _ => ?_⟩
    obtain ⟨hgap, hi, hl⟩ := gapBehind_normal hact.sequence (by rw [hact.core.settings]; exact hb) count
      k.stroke.finish hnormal k.stroke.number
    rw [hact.capture] at hgap
    refine ⟨_, hjoins.after (sameUnits_withOwn [] none s.translator.capture _) hm, ?_, ?_⟩
    · rw [← createUnit_withOwn]; exact createUnit_onlyJoined hspeaker hb
    · have hends := completion_ends (hi.trans (hact.inbox.trans hinbox))
        ((congrArg LookupUnit.request (hl.trans hact.lookup)).trans hrequest)
      exact hends ▸ hgap
  | cons y ys =>
    refine ⟨fun _ => ?_, nofun⟩
    obtain ⟨u, hu, hsame, hre, -⟩ := completion_reprocesses (hact.inbox.trans hinbox) (by rw [hact.lookup]; rfl)
      hact.sequence (by rw [hnormal]; nofun) y.stroke (ys.map PendingEntry.stroke) (behindMarker q s k count)
    rw [List.map_cons, behindFront, hu]; exact ⟨hjoins.after hsame hm, hre⟩

end

/-- A stroke without text, alone in its sequence and with room in the history, joins as its unit and ends its event. -/
theorem keysStroke_completes {s : State} {q : Search} {x : Taken} (h : AwaitsResult s q [.stroke x])
    (hc : s.translator.capture.state = .normal) (hq : s.translator.sequence = []) (hresult : q.result = ⟨none, false⟩)
    (hroom : s.translator.history.length < 32) (hb : 0 < s.settings.holdBack) :
    exec .lookupCompletion s =
      .next (withOwn [] none s.translator.capture
        (unitJoined (keysAssembled s.translator.formatting x.keys) [x.number] x.start none
          (setSequence [] (setSearch none s)))) := by
  have hne : s.translator.capture.state ≠ .text := by rw [hc]; nofun
  have hfront : resolveFront (setSequence (s.translator.sequence ++ [⟨x, q.result⟩]) (setSearch none s)) =
      (createUnit (keysAssembled s.translator.formatting x.keys) [x.number] x.start none
        (setSequence [] (setSearch none s)), []) := by
    rw [hq, resolveFront_keys (e := ⟨x, q.result⟩) (rest := []) rfl (by simp [hresult])]
    exact congrArg (·, []) (deliver_keys (s := setSequence [] (setSearch none s)) hne x)
  have hact := createUnit_act (keysAssembled s.translator.formatting x.keys) [x.number] x.start none
    (setSequence [] (setSearch none s))
  have hends := resolution_ends h (by rw [hc]; nofun) (.inl (by rw [hresult])) (.inl rfl) hfront hact.sequence
    (hact.inbox.trans h.inbox_nil) ((congrArg LookupUnit.request hact.lookup).trans h.request_none)
  rw [hact.capture, createUnit_eq (s := setSequence [] (setSearch none s)) (keysAssembled_plain _ _).1 hb,
    makeRoom_of_lt (s := setSequence [] (setSearch none s)) hroom] at hends
  exact hends

/-- The translator where the unit of a stroke without text has joined. -/
theorem keysJoined_translator {s : State} {x : Taken} (hq : s.translator.sequence = []) :
    let u := newUnit (keysAssembled s.translator.formatting x.keys) [x.number] x.start none s
    (withOwn [] none s.translator.capture
      (unitJoined (keysAssembled s.translator.formatting x.keys) [x.number] x.start none
        (setSequence [] (setSearch none s)))).translator =
      { s.translator with
        history := s.translator.history ++ [u], work := [], resolveTimer := none, markNext := false
        formatting :=
          { s.translator.formatting with
            attachNext := false, paragraphStart := false, glueLast := decide (u.kind = .number) }
        nextUnit := unitAfter s } := by
  obtain ⟨-, hkind, -, hafter⟩ := keysAssembled_plain s.translator.formatting x.keys
  have hmark : (s.translator.markNext && !takesMark (keysAssembled s.translator.formatting x.keys).kind) = false := by
    simp [takesMark, hkind]
  intro u
  calc _ = { s.translator with
        sequence := [], history := s.translator.history ++ [u], work := [], resolveTimer := none
        markNext := s.translator.markNext && !takesMark (keysAssembled s.translator.formatting x.keys).kind
        formatting := (keysAssembled s.translator.formatting x.keys).after
        nextUnit := succNonzero s.translator.nextUnit } := rfl
    _ = _ := by rw [hmark, hafter, succNonzero_eq, ← hq]; rfl

/-- What runs beside the history where a unit has joined. -/
theorem unitJoined_beside (a : Assembled) (strokes : List Word) (start : Word) (gap : Option Nat) (c : Capture)
    (s : State) :
    let t := withOwn [] none c (unitJoined a strokes start gap (setSequence [] (setSearch none s)))
    (a.kind ≠ .untran → t.status = s.status) ∧
      (a.kind = .untran → s.seq.phase ≠ .fault → t.status = s.status.request .untran) ∧
      (oldestHeld s.translator.history = none → s.release.active = true →
        t.release = { s.release with holdTimer := some s.settings.holdBack }) ∧
      (oldestHeld s.translator.history ≠ none → t.release = s.release) := by
  have hstatus : (withOwn [] none c (unitJoined a strokes start gap (setSequence [] (setSearch none s)))).status =
      (if a.kind = .untran then requestPattern .untran (setSequence [] (setSearch none s))
        else setSequence [] (setSearch none s)).status := rfl
  have hrelease : (withOwn [] none c (unitJoined a strokes start gap (setSequence [] (setSearch none s)))).release =
      { s.release with
        holdTimer :=
          if (oldestHeld s.translator.history).isSome then s.release.holdTimer
          else if s.release.active then some s.settings.holdBack else none } := rfl
  intro t
  refine ⟨fun h => ?_, fun h hphase => ?_, fun h ha => ?_, fun h => ?_⟩
  · rw [hstatus, if_neg h]; rfl
  · rw [hstatus, if_pos h]; unfold requestPattern; rw [if_neg (by exact hphase)]; rfl
  · rw [hrelease, h, ha]; rfl
  · obtain ⟨p, hp⟩ := Option.ne_none_iff_exists'.1 h
    rw [hrelease, hp]; rfl

/-- A unit that joins changes nothing beside the translator, the release state and the status unit. -/
theorem OnlyJoined.beside {s m : State} (c : Capture) (h : OnlyJoined (setSequence [] (setSearch none s)) m) :
    let t := withOwn [] none c m
    t.lookup = { s.lookup with search := none } ∧
      (t.strokes, t.notes, t.inbox, t.bus, t.floor, t.port.ramMem) =
        (s.strokes, s.notes, s.inbox, s.bus, s.floor, s.port.ramMem) ∧ OutsideTranslator s t := by
  unfold OnlyJoined at h; rw [h]; exact ⟨rfl, rfl, rfl, rfl, rfl, rfl, rfl, rfl, rfl, rfl⟩

/-- Settles O31: the front part of the sequence joins as one unit, and behind it the rest is re-processed, the event
ends, or the overrun marker is dealt with. -/
theorem strokeWithoutTextJoinsHistory : Obligations.StrokeWithoutTextJoinsHistory := by
  refine ⟨?_, ?_, ?_⟩
  · intro s q x h hc hq hresult hroom hb
    obtain ⟨hspeaker, hkind, htruncated, -⟩ := keysAssembled_plain s.translator.formatting x.keys
    obtain ⟨hnumber, huntran⟩ := newUnit_keys x.keys [x.number] x.start s
    obtain ⟨hquiet, hpattern, hfirst, hlater⟩ := unitJoined_beside (keysAssembled s.translator.formatting x.keys)
      [x.number] x.start none s.translator.capture s
    have hcreated := newUnit_created hkind htruncated hspeaker [x.number] x.start s
    refine ⟨_, newUnit (keysAssembled s.translator.formatting x.keys) [x.number] x.start none s,
      keysStroke_completes h hc hq hresult hroom hb, hcreated,
      keysJoined_translator hq, fun digits hdigits => ?_, fun hfail => ?_, hfirst, hlater,
      (unitJoined_onlyJoined _ _ _ _ _).beside _⟩
    · obtain ⟨h1, h2, h3⟩ := hnumber digits hdigits
      exact ⟨h1, h2, h3, hquiet fun h => UnitKind.noConfusion (h1.symm.trans h)⟩
    · obtain ⟨h1, h2, h3⟩ := huntran hfail
      exact ⟨h1, h2, h3, hpattern h1⟩
  · intro s q x work w h hw hc hres hb
    have hne : (setSearch none s).translator.capture.state ≠ .text := by rw [setSearch_translator, hc]; nofun
    refine ⟨lookupCompletes s, makeRoom (setSequence [] (setSearch none s)), rfl, (lookupCompletes_core s).strokes,
      makeRoom_made _, fun es e rest entry (hsplit : s.translator.sequence ++ [_] = _) he hrest hplain hend => ?_,
      fun e rest (hsplit : s.translator.sequence ++ [_] = _) hnone hend => ?_⟩
    · exact resolution_joins h hw hc hres (hsplit ▸ frontJoins_word hne hb he hrest hplain) (unitsOnly_word _ _ _) hend
    · exact resolution_joins h hw hc hres (hsplit ▸ frontJoins_keys hne hb (hsplit ▸ hnone)) (unitsOnly_keys _ _) hend
  · intro s q k count hk h hc hb
    have hne : (setSearch none s).translator.capture.state ≠ .text := by rw [setSearch_translator, hc]; nofun
    refine ⟨lookupCompletes s, rfl, makeRoom (withOwn [] none s.translator.capture (setSequence [] (setSearch none s))),
      makeRoom_made _, fun es e rest entry (hsplit : s.translator.sequence ++ [_] = _) he hrest hplain => ?_,
      fun e rest (hsplit : s.translator.sequence ++ [_] = _) hnone => ?_⟩
    · exact marker_goesOn hk h hc hb (hsplit ▸ frontJoins_word hne hb he hrest hplain) (unitsOnly_word _ _ _)
    · exact marker_goesOn hk h hc hb (hsplit ▸ frontJoins_keys hne hb (hsplit ▸ hnone)) (unitsOnly_keys _ _)

end Sys2Proof.Machine
end

section
/-! PROOFS. LOOKUP_COMPLETION of a stroke that is held or in a capture: held in the sequence, raw in the outline, a
piece of the definition's text, the close of the definition, and an overrun marker that ends it (R54, R56, R61, R62,
R102 to R104). -/

namespace Sys2Proof.Machine

theorem setSequence_self {s : State} {q : List PendingEntry} (h : s.translator.sequence = q) : setSequence q s = s := by
  subst h; rfl

/-! ### The capture alone -/

/-- From s to t nothing but the capture and the status unit has changed. -/
def CaptureOnly (s t : State) : Prop :=
  t = { s with translator := { s.translator with capture := t.translator.capture }, status := t.status }

theorem CaptureOnly.trans {s t u : State} (h : CaptureOnly s t) (k : CaptureOnly t u) : CaptureOnly s u := by
  unfold CaptureOnly at h k ⊢; rw [k, h]

theorem setCapture_captureOnly (c : Capture) (s : State) : CaptureOnly s (setCapture c s) := rfl

theorem refuseCapture_captureOnly (s : State) : CaptureOnly s (refuseCapture s) := by
  unfold CaptureOnly; rw [refuseCapture_eq]

section
variable {s t : State} (h : CaptureOnly s t)
include h

theorem CaptureOnly.sequence : t.translator.sequence = s.translator.sequence := by
  unfold CaptureOnly at h; rw [h]

theorem CaptureOnly.inbox : t.inbox = s.inbox := by
  unfold CaptureOnly at h; rw [h]

theorem CaptureOnly.lookup : t.lookup = s.lookup := by
  unfold CaptureOnly at h; rw [h]

theorem CaptureOnly.seq : t.seq = s.seq := by
  unfold CaptureOnly at h; rw [h]

theorem CaptureOnly.settings : t.settings = s.settings := by
  unfold CaptureOnly at h; rw [h]

end

theorem refuseCapture_capture (s : State) : (refuseCapture s).translator.capture = noCapture := by
  rw [refuseCapture_eq]

theorem refuseCapture_status (s : State) : (refuseCapture s).status = (setFlag .defRefused s).status := by
  rw [refuseCapture_eq]

/-! ### A stroke of the outline (R102) -/

theorem isSeparator_iff (r : LookupResult) : isSeparator r = true ↔ HasSeparator r := by
  unfold isSeparator HasSeparator holds
  cases r.text <;> simp

section
variable {s : State} {x : Taken} {r : LookupResult}

theorem outlineStroke_opens (h : HasSeparator r) (hne : s.translator.capture.outline ≠ []) :
    outlineStroke x r s = setCapture { s.translator.capture with state := .text, separator := some x } s := by
  unfold outlineStroke; dsimp only
  rw [if_pos ((isSeparator_iff r).2 h), if_neg (by simpa using hne)]

theorem outlineStroke_joins (h : ¬ HasSeparator r) (hroom : s.translator.capture.outline.length < 8) :
    outlineStroke x r s =
      setCapture { s.translator.capture with outline := s.translator.capture.outline ++ [x] } s := by
  unfold outlineStroke; dsimp only
  rw [if_neg (mt (isSeparator_iff r).1 h), if_pos hroom]

theorem outlineStroke_refuses (h : (HasSeparator r ∧ s.translator.capture.outline = []) ∨
      (¬ HasSeparator r ∧ 8 ≤ s.translator.capture.outline.length)) :
    outlineStroke x r s = refuseCapture s := by
  unfold outlineStroke; dsimp only
  rcases h with ⟨h, hempty⟩ | ⟨h, hfull⟩
  · rw [if_pos ((isSeparator_iff r).2 h), if_pos (by simpa using hempty)]
  · rw [if_neg (mt (isSeparator_iff r).1 h), if_neg (by omega)]

/-- A stroke of the outline opens the text, joins, or refuses the definition. -/
theorem outlineStroke_cases (r : LookupResult) (s : State) :
    (HasSeparator r ∧ s.translator.capture.outline ≠ []) ∨
      (¬ HasSeparator r ∧ s.translator.capture.outline.length < 8) ∨
      ((HasSeparator r ∧ s.translator.capture.outline = []) ∨
        (¬ HasSeparator r ∧ 8 ≤ s.translator.capture.outline.length)) := by
  by_cases h : HasSeparator r
  · by_cases hempty : s.translator.capture.outline = []
    · exact .inr (.inr (.inl ⟨h, hempty⟩))
    · exact .inl ⟨h, hempty⟩
  · rcases Nat.lt_or_ge s.translator.capture.outline.length 8 with hroom | hfull
    · exact .inr (.inl ⟨h, hroom⟩)
    · exact .inr (.inr (.inr ⟨h, hfull⟩))

theorem outlineStroke_captureOnly (x : Taken) (r : LookupResult) (s : State) :
    CaptureOnly s (outlineStroke x r s) := by
  rcases outlineStroke_cases r s with ⟨h, hne⟩ | ⟨h, hroom⟩ | h
  · rw [outlineStroke_opens h hne]; exact setCapture_captureOnly _ s
  · rw [outlineStroke_joins h hroom]; exact setCapture_captureOnly _ s
  · rw [outlineStroke_refuses h]; exact refuseCapture_captureOnly s

end

/-! ### A piece of the text (R73, R103) -/

/-- The piece of a stroke without text: of its number, else of its untranslate text. -/
def keysPiece (c : Capture) (x : Taken) : Capture :=
  match convertNumber x.keys with
  | some digits => c.numberPiece [x.number] digits
  | none => c.untranPiece [x.number] (untranslate x.keys)

theorem keysPiece_number {c : Capture} {x : Taken} {digits : List Byte} (h : convertNumber x.keys = some digits) :
    keysPiece c x = c.numberPiece [x.number] digits := by
  unfold keysPiece; rw [h]

theorem keysPiece_untran {c : Capture} {x : Taken} (h : convertNumber x.keys = none) :
    keysPiece c x = c.untranPiece [x.number] (untranslate x.keys) := by
  unfold keysPiece; rw [h]

theorem keysPiece_open (c : Capture) (x : Taken) :
    (keysPiece c x).state = c.state ∧ (keysPiece c x).abandoned = c.abandoned := by
  unfold keysPiece; cases convertNumber x.keys <;> exact ⟨rfl, rfl⟩

section
variable {s : State} (hc : s.translator.capture.state = .text)
include hc

theorem deliver_keysPiece (x : Taken) :
    deliver (resolveKeys x.keys) [x] s = setCapture (keysPiece s.translator.capture x) s := by
  unfold deliver; dsimp only; rw [if_pos hc]
  unfold resolveKeys keysPiece
  cases convertNumber x.keys <;> rfl

/-- An entry in the text closes the definition where it holds a DEF_CLOSE that no marker has met. -/
theorem deliver_entryPiece (entry : TextEntry) (strokes : List Taken) :
    deliver (.entry entry) strokes s =
      if holds .defClose (tokens entry.text) && !s.translator.capture.abandoned then
        closeCapture (setCapture (s.translator.capture.entryPiece (strokes.map Taken.number) entry.text) s)
      else setCapture (s.translator.capture.entryPiece (strokes.map Taken.number) entry.text) s := by
  unfold deliver; dsimp only; rw [if_pos hc]; rfl

/-- A stroke alone in its sequence makes one piece, and leaves the definition open where it does not close it. -/
theorem resolveFront_piece {e : PendingEntry} (hq : s.translator.sequence = [e])
    (hopen : s.translator.capture.abandoned = true ∨
      ∀ entry, e.result.text = some entry → Token.code .defClose ∉ tokens entry.text) :
    ∃ c, resolveFront s = (setCapture c (setSequence [] s), []) ∧ c.state = .text ∧
      c.abandoned = s.translator.capture.abandoned := by
  cases htext : e.result.text with
  | none =>
    obtain ⟨hstate, habandoned⟩ := keysPiece_open s.translator.capture e.stroke
    refine ⟨_, ?_, hstate.trans hc, habandoned⟩
    rw [resolveFront_keys hq (by simpa using htext)]
    exact congrArg (·, []) (deliver_keysPiece (s := setSequence [] s) hc e.stroke)
  | some entry =>
    have hkeeps : (holds .defClose (tokens entry.text) && !s.translator.capture.abandoned) = false := by
      rcases hopen with habandoned | hno
      · rw [habandoned]; exact Bool.and_false _
      · have hholds : holds .defClose (tokens entry.text) = false := by unfold holds; simpa using hno entry htext
        rw [hholds]; rfl
    refine ⟨s.translator.capture.entryPiece [e.stroke.number] entry.text, ?_, hc, rfl⟩
    have hdeliver := deliver_entryPiece (s := setSequence [] s) hc entry [e.stroke]
    rw [if_neg (by rw [show (setSequence [] s).translator.capture = s.translator.capture from rfl, hkeeps]
                   exact Bool.false_ne_true)] at hdeliver
    rw [resolveFront_entry (es := []) (rest := []) hq htext nofun]
    exact congrArg (·, []) hdeliver

end

/-! ### The close of an own definition (R104) -/

/-- An own definition is refused: without RAM, or where a store of its text is (R95, R104). -/
def OwnRefused (s : State) (outline : List KeySet) (text : List Byte) : Prop :=
  s.seq.ramFit = false ∨ (text ≠ [] ∧ storeRefused s (storePlan s outline) outline text.length = true)

theorem storeDefinition_refused {s : State} {outline : List KeySet} {text : List Byte} (a : Station)
    (h : storeRefused s (storePlan s outline) outline text.length = true) : storeDefinition outline text a s = none :=
  if_pos h

theorem storeDefinition_stores {s : State} {outline : List KeySet} {text : List Byte} (a : Station)
    (h : ¬ storeRefused s (storePlan s outline) outline text.length = true) :
    ∃ t, storeDefinition outline text a s = some t := ⟨_, if_neg h⟩

theorem storeOwn_refused {s : State} {outline : List KeySet} {text : List Byte} (h : OwnRefused s outline text) :
    storeOwn outline text s = setFlag .defRefused s := by
  unfold storeOwn
  rcases h with h | ⟨hne, h⟩
  · rw [h]; rfl
  · rw [storeDefinition_refused _ h, if_neg (c := text.isEmpty = true) (by simpa using hne)]; split <;> rfl

/-- An own definition that is not refused is stored or deleted as a peer's is, and sent. -/
theorem storeOwn_sent {s : State} {outline : List KeySet} {text : List Byte} (h : ¬ OwnRefused s outline text) :
    storeOwn outline text s = sendDefine outline text (applyPeer ⟨s.seq.addr, outline, text⟩ s) := by
  unfold OwnRefused at h
  rw [not_or, Bool.not_eq_false] at h
  obtain ⟨hfit, h⟩ := h
  unfold storeOwn applyPeer; dsimp only
  rw [hfit, Bool.not_true, if_neg Bool.false_ne_true]
  by_cases hempty : text.isEmpty = true
  · rw [if_pos hempty, if_pos hempty]
  · obtain ⟨t, ht⟩ := storeDefinition_stores (text := text) s.seq.addr fun hrefused =>
      h ⟨by simpa using hempty, hrefused⟩
    rw [if_neg hempty, if_neg hempty, ht]

theorem ownRefused_congr {s t : State} (hp : t.port = s.port) (hs : t.settings = s.settings) (hseq : t.seq = s.seq)
    (outline : List KeySet) (text : List Byte) : OwnRefused t outline text ↔ OwnRefused s outline text := by
  have hstore : ∀ plan, storeRefused t plan outline text.length = storeRefused s plan outline text.length := by
    intro plan; cases s; cases t; cases hp; cases hs; rfl
  unfold OwnRefused; rw [storePlan_congr hp hs, hstore, hseq]

/-- The close of an own definition in a state that differs from s in the translator and the lookup unit: refused it only
sets its flag, else it is stored or deleted as a peer's is, with its frame behind. -/
theorem storeOwn_closed {s t : State} (hp : t.port = s.port) (hs : t.settings = s.settings) (hseq : t.seq = s.seq)
    (hstatus : t.status = s.status) (outline : List KeySet) (text : List Byte) :
    (OwnRefused s outline text → storeOwn outline text t = { t with status := (setFlag .defRefused s).status }) ∧
      (¬ OwnRefused s outline text →
        let stored := applyPeer ⟨t.seq.addr, outline, text⟩ t
        let u := storeOwn outline text t
        HandedLow stored u (.define (definePayload outline text)) ∧
          u = { stored with bus := { stored.bus with queue := u.bus.queue }, status := u.status }) := by
  rw [← ownRefused_congr hp hs hseq]
  refine ⟨fun h => ?_, fun h => ?_⟩
  · rw [storeOwn_refused h, setFlag_eq, setFlag_status .defRefused hseq hstatus]
  · intro stored u
    have hu : u = sendDefine outline text stored := storeOwn_sent h
    rw [hu]
    exact ⟨broadcast_handedLow nofun (by simp [Msg.kind, FrameKind.cls]) rfl rfl rfl, handFrame_eq _ _⟩

theorem closeCapture_eq (s : State) (c : Capture) (h : s.translator.capture = c) :
    closeCapture s = setCapture .closed (storeOwn (c.outline.map Taken.keys) c.chars s) := by
  subst h; rfl

/-! ### An overrun marker in a capture (R61, R62) -/

/-- The definition that the marker of this stroke abandons is refused. -/
def refuseMet (number : Word) (s : State) : State :=
  if s.translator.capture.abandoned || takenRaw number s then refuseCapture s else s

theorem overrunMarker_eq (number : Word) (count : Nat) (start : Word) (s : State) :
    overrunMarker number count start s =
      createUnit (assembleGap (refuseMet number s).translator.formatting) [] start (some count) (refuseMet number s) :=
  rfl

theorem refuseMet_captureOnly (number : Word) (s : State) : CaptureOnly s (refuseMet number s) := by
  unfold refuseMet; split
  · exact refuseCapture_captureOnly s
  · rfl

section
variable {s : State} {number : Word}

theorem refuseMet_refuses (h : s.translator.capture.abandoned = true ∨ takenRaw number s = true) :
    refuseMet number s = refuseCapture s := if_pos (by rcases h with h | h <;> simp [h])

theorem refuseMet_keeps (h : s.translator.capture.abandoned = false) (hc : s.translator.capture.state ≠ .outline) :
    refuseMet number s = s := if_neg (by simp [takenRaw, h, hc])

end

section
variable {s : State} {number : Word} {x : Taken} {r : LookupResult}

/-- A stroke that refuses the definition, or that its marker has taken raw, leaves the definition refused. -/
theorem refuseMet_outlineStroke_refuses (hc : s.translator.capture.state = .outline)
    (h : (HasSeparator r ∧ s.translator.capture.outline = []) ∨
      (¬ HasSeparator r ∧ (8 ≤ s.translator.capture.outline.length ∨ x.number = number))) :
    refuseMet number (outlineStroke x r s) = refuseCapture s := by
  have hcapture := refuseCapture_capture s
  rcases outlineStroke_cases r s with ⟨hsep, hne⟩ | ⟨hsep, hroom⟩ | hrefuses
  · rcases h with ⟨-, hempty⟩ | ⟨hno, -⟩
    · exact absurd hempty hne
    · exact absurd hsep hno
  · have hnumber : x.number = number := by
      rcases h with ⟨hyes, -⟩ | ⟨-, hfull | hnumber⟩
      · exact absurd hyes hsep
      · omega
      · exact hnumber
    rw [outlineStroke_joins hsep hroom]
    exact refuseMet_refuses (s := setCapture _ s) (.inr (by simp [takenRaw, setCapture, hc, hnumber]))
  · rw [outlineStroke_refuses hrefuses]
    exact refuseMet_keeps (by rw [hcapture]; rfl) (by rw [hcapture]; nofun)

/-- A separator that opens the text takes the stroke off the outline, and leaves the definition to go on. -/
theorem refuseMet_outlineStroke_opens (habandoned : s.translator.capture.abandoned = false) (h : HasSeparator r)
    (hne : s.translator.capture.outline ≠ []) :
    refuseMet number (outlineStroke x r s) =
      setCapture { s.translator.capture with state := .text, separator := some x } s := by
  rw [outlineStroke_opens h hne]
  exact refuseMet_keeps (s := setCapture _ s) habandoned DefineState.noConfusion

end

/-- A marker that is met in a capture abandons its definition (R62). -/
theorem meetMarker_abandoned {s : State} (hc : s.translator.capture.state ≠ .normal) :
    (meetMarker s).translator.capture.abandoned = true := by
  show (_ || decide _) = true
  rw [decide_eq_true hc, Bool.or_true]

/-- How the event of an overrun marker ends in a capture: the definition is refused and the GAP unit made. -/
def refusedWithGap (k : QueuedStroke) (count : Nat) (s : State) : State :=
  endEvent (createUnit (assembleGap (refuseCapture s).translator.formatting) [] k.stroke.finish (some count)
    (refuseCapture s))

section
variable {s : State} {q : Search} {k : QueuedStroke} {count : Nat} (hk : k.overrun = some count)
include hk

theorem runWork_markerWork_refused (hq : s.translator.sequence = []) :
    runWork (markerWork k) (refuseCapture s) = refusedWithGap k count s := by
  have hcapture := refuseCapture_capture s
  rw [markerWork_some hk, runWork, meetMarker_normal (by rw [hcapture]; rfl),
    runWork_force_nil ((refuseCapture_captureOnly s).sequence.trans hq), runWork, runWork, overrunMarker_eq,
    refuseMet_keeps (by rw [hcapture]; rfl) (by rw [hcapture]; nofun)]
  rfl

theorem runWork_markerWork_open (hq : s.translator.sequence = []) (hc : s.translator.capture.state ≠ .normal) :
    runWork (markerWork k) s = refusedWithGap k count s := by
  rw [markerWork_some hk, runWork, runWork_force_nil (s := meetMarker s) hq, runWork, runWork, overrunMarker_eq,
    refuseMet_refuses (.inl (meetMarker_abandoned hc))]
  rfl

/-- In the outline the marker refuses the definition, whatever the stroke has done to it. -/
theorem outlineStroke_marker (hq : s.translator.sequence = []) (hc : s.translator.capture.state = .outline) (x : Taken)
    (r : LookupResult) :
    runWork (markerWork k) (outlineStroke x r s) = refusedWithGap k count s := by
  have hnormal : s.translator.capture.state ≠ .normal := by rw [hc]; nofun
  rcases outlineStroke_cases r s with ⟨h, hne⟩ | ⟨h, hroom⟩ | h
  · rw [outlineStroke_opens h hne]; exact runWork_markerWork_open (s := setCapture _ s) hk hq nofun
  · rw [outlineStroke_joins h hroom]
    exact runWork_markerWork_open (s := setCapture _ s) hk hq hnormal
  · rw [outlineStroke_refuses h]; exact runWork_markerWork_refused hk hq

/-- In the text the stroke makes its piece, and the marker refuses the definition that it leaves open. -/
theorem textStroke_marker (hq : s.translator.sequence = []) (hc : s.translator.capture.state = .text) {x : Taken}
    {r : LookupResult}
    (hopen : r.cont = true ∨ ∀ entry, r.text = some entry → Token.code .defClose ∉ tokens entry.text) :
    strokeResult x r (markerWork k) s = refusedWithGap k count s := by
  have hne : s.translator.capture.state ≠ .outline := by rw [hc]; nofun
  have hnormal : s.translator.capture.state ≠ .normal := by rw [hc]; nofun
  have hset : setSequence (s.translator.sequence ++ [⟨x, r⟩]) s = setSequence [⟨x, r⟩] s := by rw [hq]; rfl
  have hempty : ∀ c, refusedWithGap k count (setCapture c (setSequence [] s)) = refusedWithGap k count s := fun c => by
    rw [setSequence_self hq]; rfl
  cases hcont : r.cont with
  | true =>
    have habandoned : (meetMarker (setSequence [⟨x, r⟩] s)).translator.capture.abandoned = true :=
      meetMarker_abandoned (s := setSequence [⟨x, r⟩] s) hnormal
    obtain ⟨c, hfront, -, hc'⟩ := resolveFront_piece (s := meetMarker (setSequence [⟨x, r⟩] s)) hc rfl (.inl habandoned)
    rw [strokeResult_holds hne hcont (by rw [hq]; decide), hset, markerWork_some hk, runWork,
      runWork_force_front (by exact List.cons_ne_nil _ _) hfront, if_pos rfl, runWork, runWork, overrunMarker_eq,
      refuseMet_refuses (.inl (hc'.trans habandoned))]
    exact hempty c
  | false =>
    have hno := hopen.resolve_left (by rw [hcont]; exact Bool.false_ne_true)
    obtain ⟨c, hfront, hstate, -⟩ := resolveFront_piece (s := setSequence [⟨x, r⟩] s) hc rfl (.inr hno)
    have hc' : c.state ≠ .normal := by rw [hstate]; nofun
    rw [strokeResult_resolves hne (.inl hcont), hset, hfront, runWork]
    exact (runWork_markerWork_open (s := setCapture c (setSequence [] s)) hk rfl hc').trans (hempty c)

end

/-! ### The event (R47, R54, R59) -/

/-- With strokes held the end of an event starts the resolve timer (R59). -/
theorem endEvent_held {s : State} (q : List PendingEntry) (e : PendingEntry) :
    endEvent (setSequence (q ++ [e]) s) =
      { s with
        translator :=
          { s.translator with
            sequence := q ++ [e], work := []
            resolveTimer := if s.settings.resolve = 0 then none else some s.settings.resolve } } := by
  have htimer : ((q ++ [e]).isEmpty || s.settings.resolve == 0) = decide (s.settings.resolve = 0) := by
    cases q <;> rfl
  unfold endEvent
  rw [show (setSequence (q ++ [e]) s).translator.sequence = q ++ [e] from rfl,
    show (setSequence (q ++ [e]) s).settings = s.settings from rfl, htimer]
  simp only [decide_eq_true_eq]; rfl

section
variable {s : State} {q : Search} {x : Taken}

/-- A stroke that is held ends its event with the resolve timer set. -/
theorem heldStroke_ends (h : AwaitsResult s q [.stroke x]) (hc : s.translator.capture.state ≠ .outline)
    (hcont : q.result.cont = true) (hroom : s.translator.sequence.length < 7) :
    exec .lookupCompletion s = .next (endEvent
      (setSequence (s.translator.sequence ++ [⟨x, q.result⟩]) (setSearch none s))) := by
  rw [lookupCompletes_stroke h (.inl rfl), strokeResult_holds (s := setSearch none s) hc hcont hroom, runWork]
  exact congrArg _ (completion_ends (s := endEvent (setSequence _ (setSearch none s))) h.inbox_nil h.request_none)

/-- A stroke of the outline ends its event with the capture it leaves. -/
theorem rawStroke_ends (h : AwaitsResult s q [.stroke x]) (hc : s.translator.capture.state = .outline)
    (hq : s.translator.sequence = []) :
    let b := outlineStroke x q.result (setSearch none s)
    exec .lookupCompletion s = .next (withOwn [] none b.translator.capture b) := by
  have honly := outlineStroke_captureOnly x q.result (setSearch none s)
  intro b
  rw [lookupCompletes_stroke h (.inl rfl), strokeResult_outline (s := setSearch none s) hc, runWork,
    endEvent_empty (honly.sequence.trans hq)]
  exact congrArg _ (completion_ends (s := withOwn [] none _ _) (honly.inbox.trans h.inbox_nil)
    ((congrArg LookupUnit.request honly.lookup).trans h.request_none))

/-- A stroke without text ends its event with its piece of the text. -/
theorem keysPiece_ends (h : AwaitsResult s q [.stroke x]) (hc : s.translator.capture.state = .text)
    (hq : s.translator.sequence = []) (hresult : q.result = ⟨none, false⟩) :
    exec .lookupCompletion s =
      .next (withOwn [] none (keysPiece s.translator.capture x) (setSearch none s)) := by
  have hfront : resolveFront (setSequence (s.translator.sequence ++ [⟨x, q.result⟩]) (setSearch none s)) =
      (setCapture (keysPiece s.translator.capture x) (setSequence [] (setSearch none s)), []) := by
    rw [hq, resolveFront_keys (e := ⟨x, q.result⟩) (rest := []) rfl (by simp [hresult])]
    exact congrArg (·, []) (deliver_keysPiece (s := setSequence [] (setSearch none s)) hc x)
  have hends := resolution_ends h (by rw [hc]; nofun) (.inl (by rw [hresult])) (.inl rfl) hfront rfl
    h.inbox_nil h.request_none
  rw [hends, setSequence_self (s := setSearch none s) hq]; rfl

/-- A sequence whose text ends with this stroke's ends its event with the piece of that entry, and with the store where
the entry closes the definition. -/
theorem entryPiece_ends {entry : TextEntry} (h : AwaitsResult s q [.stroke x])
    (hc : s.translator.capture.state = .text) (habandoned : s.translator.capture.abandoned = false)
    (hres : q.result.cont = false ∨ 7 ≤ s.translator.sequence.length) (htext : q.result.text = some entry) :
    let d := s.translator.capture.entryPiece (s.translator.sequence.map (fun e => e.stroke.number) ++ [x.number])
      entry.text
    let ended := fun c => withOwn [] none c (setSequence [] (setSearch none s))
    (¬ holds .defClose (tokens entry.text) = true → exec .lookupCompletion s = .next (ended d)) ∧
      (holds .defClose (tokens entry.text) = true → exec .lookupCompletion s = .next
        (storeOwn (d.outline.map Taken.keys) d.chars (ended noCapture))) := by
  have hne : s.translator.capture.state ≠ .outline := by rw [hc]; nofun
  have hnumbers :
      ((s.translator.sequence ++ [(⟨x, q.result⟩ : PendingEntry)]).map PendingEntry.stroke).map Taken.number =
        s.translator.sequence.map (fun e => e.stroke.number) ++ [x.number] := by simp
  have hfront := resolveFront_entry
    (s := setSequence (s.translator.sequence ++ [⟨x, q.result⟩]) (setSearch none s)) (rest := []) rfl htext nofun
  have hdeliver := deliver_entryPiece (s := setSequence [] (setSearch none s)) hc entry
    ((s.translator.sequence ++ [(⟨x, q.result⟩ : PendingEntry)]).map PendingEntry.stroke)
  rw [hnumbers, show (setSequence [] (setSearch none s)).translator.capture = s.translator.capture from rfl,
    habandoned, Bool.not_false, Bool.and_true] at hdeliver
  intro d ended
  refine ⟨fun hopen => ?_, fun hcloses => ?_⟩
  · rw [if_neg hopen] at hdeliver
    exact resolution_ends h hne hres (.inl rfl) (hfront.trans (congrArg (·, []) hdeliver)) rfl h.inbox_nil
      h.request_none
  · rw [if_pos hcloses] at hdeliver
    have hstored : withOwn [] none noCapture
        (storeOwn (d.outline.map Taken.keys) d.chars (setCapture d (setSequence [] (setSearch none s)))) =
          storeOwn (d.outline.map Taken.keys) d.chars (ended noCapture) := (storeOwn_withOwn _ _ _ _ _ _).symm
    have hact := storeOwn_act (d.outline.map Taken.keys) d.chars (setCapture d (setSequence [] (setSearch none s)))
    rw [closeCapture_eq (setCapture d _) d rfl] at hdeliver
    rw [← hstored]
    generalize storeOwn (d.outline.map Taken.keys) d.chars _ = u at hact hdeliver ⊢
    exact resolution_ends h hne hres (.inl rfl) (t := setCapture .closed u)
      (hfront.trans (congrArg (·, []) hdeliver)) hact.sequence (hact.inbox.trans h.inbox_nil)
      ((congrArg LookupUnit.request hact.lookup).trans h.request_none)

/-- A stroke of an overrun marker that meets a capture ends its event with the definition refused. -/
theorem capturedMarker_ends {k : QueuedStroke} {count : Nat} (hk : k.overrun = some count)
    (h : AwaitsResult s q (.stroke k.stroke.taken :: markerWork k)) (hq : s.translator.sequence = [])
    (hc : s.translator.capture.state = .outline ∨ (s.translator.capture.state = .text ∧
      (q.result.cont = true ∨ ∀ entry, q.result.text = some entry → Token.code .defClose ∉ tokens entry.text))) :
    exec .lookupCompletion s =
      .next (takeRequest (applyInbox (refusedWithGap k count (setSearch none s)))) := by
  rw [lookupCompletes_stroke h (.inl rfl)]
  rcases hc with hc | ⟨hc, hopen⟩
  · rw [strokeResult_outline (s := setSearch none s) hc, outlineStroke_marker (s := setSearch none s) hk hq hc]
  · rw [textStroke_marker (s := setSearch none s) hk hq hc hopen]

/-- The last stroke re-processed before an overrun marker is taken raw, and the marker is dealt with behind it. -/
theorem rawMarker_ends {number start : Word} {count : Nat}
    (h : AwaitsResult s q [.reprocess [x], .force, .marker number count start])
    (hc : s.translator.capture.state = .outline) (hq : s.translator.sequence = []) :
    exec .lookupCompletion s = .next (takeRequest (applyInbox (endEvent
      (overrunMarker number count start (outlineStroke x q.result (setSearch none s)))))) := by
  have honly := outlineStroke_captureOnly x q.result (setSearch none s)
  rw [lookupCompletes_stroke h (.inr ⟨_, _, rfl, rfl⟩), strokeResult_outline (s := setSearch none s) hc, runWork,
    runWork_force_nil (honly.sequence.trans hq), runWork, runWork]

/-- A re-processed stroke that is held is followed by the lookup of the next one. -/
theorem heldStroke_asks {y : Taken} {ys : List Taken} {w : List Work}
    (h : AwaitsResult s q (.reprocess (x :: y :: ys) :: w)) (hc : s.translator.capture.state ≠ .outline)
    (hcont : q.result.cont = true) (hroom : s.translator.sequence.length < 7) :
    let b := setSequence (s.translator.sequence ++ [⟨x, q.result⟩]) (setSearch none s)
    exec .lookupCompletion s =
      .next (takeRequest (applyInbox (askFor (takeOutline b y) (.reprocess (y :: ys) :: w) b))) := by
  intro b
  rw [lookupCompletes_stroke h (.inr ⟨_, _, rfl, rfl⟩), strokeResult_holds (s := setSearch none s) hc hcont
    hroom, runWork]
  rfl

end

section
variable {s : State} (hq : s.translator.sequence = []) (hb : 0 < s.settings.holdBack)
include hq hb

/-- The end of a definition that a marker refuses, as the last step of the marker. -/
theorem refusedWithGap_gapBehind (k : QueuedStroke) (count : Nat) {c : Capture} (hc : c.abandoned = true) :
    GapBehind (withOwn [] none c s) (refusedWithGap k count s) count k.stroke.finish ∧
      (refusedWithGap k count s).inbox = s.inbox ∧ (refusedWithGap k count s).lookup = s.lookup := by
  have hformatting : (refuseCapture s).translator.formatting = s.translator.formatting := by rw [refuseCapture_eq]
  unfold refusedWithGap; rw [hformatting]
  exact gapBehind_refused hq hb count k.stroke.finish hc

end

/-- Settles O30: the stroke is held, taken raw, or makes its piece, and a close or an overrun marker ends the
definition. -/
theorem lookupResultIsHeldOrTakenRaw : Obligations.LookupResultIsHeldOrTakenRaw := by
  refine ⟨?_, ?_, ?_, ?_, ?_, ?_, ?_, ?_⟩
  · intro s q x h hc hcont hroom
    rw [heldStroke_ends h hc hcont hroom]
    exact congrArg _ (endEvent_held (s := setSearch none s) _ _)
  · intro s q x h hc hq c separator
    have honly := outlineStroke_captureOnly x q.result (setSearch none s)
    refine ⟨_, rawStroke_ends h hc hq, fun hsep hne => ?_, fun hsep hroom => ?_, fun hrefuses => ?_, ?_⟩
    · rw [outlineStroke_opens (s := setSearch none s) hsep hne]; exact ⟨rfl, rfl⟩
    · rw [outlineStroke_joins (s := setSearch none s) hsep hroom]; exact ⟨rfl, rfl⟩
    · rw [outlineStroke_refuses (s := setSearch none s) hrefuses]
      exact ⟨refuseCapture_capture _, (refuseCapture_status _).trans (setFlag_status _ rfl rfl)⟩
    · unfold CaptureOnly at honly; rw [honly]; rfl
  · intro s q x h hc hq hresult
    refine ⟨_, keysPiece_ends h hc hq hresult, ⟨fun digits hdigits => ?_, fun hfail => ?_⟩, rfl⟩
    · rw [keysPiece_number hdigits]; exact Capture.addPiece_joins _ _ _ _ _ _
    · rw [keysPiece_untran hfail]; exact Capture.addPiece_joins _ _ _ _ _ _
  · intro s q x window kind lead body trail h hc habandoned hres htext hcodes hbody htrail hends
    have hall : ∀ b ∈ lead ++ body ++ trail, definable b = true ∨ isCodeByte b = true := by
      simp only [List.mem_append] at hcodes ⊢
      rintro b ((hb | hb) | hb)
      · exact .inr (hcodes b (.inl hb))
      · exact hbody b hb
      · exact .inr (hcodes b (.inr hb))
    have hpiece := Capture.entryPiece_entry (c := s.translator.capture)
      (strokes := s.translator.sequence.map (fun e => e.stroke.number) ++ [x.number]) hcodes hbody htrail hends
    obtain ⟨hopens, hcloses⟩ := entryPiece_ends h hc habandoned hres htext
    have hclose : holds .defClose (tokens (lead ++ body ++ trail)) = true ↔ 0x0A ∈ lead ++ body ++ trail := by
      rw [holds_defClose hall]; exact decide_eq_true_iff
    have hstore := storeOwn_closed (s := s) (t := withOwn [] none noCapture (setSequence [] (setSearch none s)))
      rfl rfl rfl rfl
    refine ⟨lookupCompletes s, _, rfl, hpiece, fun hno => ?_, fun hyes hrefused => ?_, fun hyes hrefused => ?_⟩
    · exact Host.Outcome.next.inj (hopens (mt hclose.1 hno))
    · rw [Host.Outcome.next.inj (hcloses (hclose.2 hyes))]
      exact (hstore _ _).1 hrefused
    · rw [Host.Outcome.next.inj (hcloses (hclose.2 hyes))]
      exact (hstore _ _).2 hrefused
  · intro s q k count hk h hq hb hc
    obtain ⟨hgap, hi, hl⟩ := refusedWithGap_gapBehind (s := setSearch none s) hq hb k count
      (c := { s.translator.capture with abandoned := true }) rfl
    refine ⟨_, capturedMarker_ends hk h hq hc, ?_⟩
    rw [completion_ends (hi.trans h.inbox_nil) ((congrArg LookupUnit.request hl).trans h.request_none)]
    exact hgap
  · intro s q x number finish count h hc habandoned hq hb c separator
    have honly := (outlineStroke_captureOnly x q.result (setSearch none s)).trans (refuseMet_captureOnly number _)
    have hexec := rawMarker_ends h hc hq
    rw [overrunMarker_eq] at hexec
    generalize hr : refuseMet number (outlineStroke x q.result (setSearch none s)) = r at hexec honly
    obtain ⟨hroom, hgap, hjoined, hi, hl⟩ := gapCreated_endEvent (s := r) (honly.sequence.trans hq)
      (by rw [honly.settings]; exact hb) count finish
    rw [completion_ends (hi.trans (honly.inbox.trans h.inbox_nil))
      ((congrArg LookupUnit.request (hl.trans honly.lookup)).trans h.request_none)] at hexec
    rw [honly.seq] at hgap
    refine ⟨_, _, _, hexec, hroom, hgap, hjoined, fun hrefused => ?_, fun hsep hne => ?_, ?_⟩
    · rw [refuseMet_outlineStroke_refuses (s := setSearch none s) hc hrefused] at hr
      rw [← hr]
      exact ⟨refuseCapture_capture _, (refuseCapture_status _).trans (setFlag_status _ rfl rfl)⟩
    · rw [refuseMet_outlineStroke_opens (s := setSearch none s) habandoned hsep hne] at hr
      rw [← hr]; exact ⟨rfl, rfl⟩
    · unfold CaptureOnly at honly; rw [honly]; rfl
  · intro s q x y ys w h hc hcont hroom
    have hasks := heldStroke_asks h hc hcont hroom
    have houtline : takeOutline (setSequence (s.translator.sequence ++ [⟨x, q.result⟩]) (setSearch none s)) y =
        (s.translator.sequence.map fun e => e.stroke.keys) ++ [x.keys, y.keys] := by
      unfold takeOutline sequenceKeys; rw [if_neg (by exact hc)]; simp
    obtain ⟨search, t, ho, ht, heq⟩ := completion_asks
      (s := setSequence (s.translator.sequence ++ [⟨x, q.result⟩]) (setSearch none s)) h.inbox_nil rfl _ _
    refine ⟨t, search, hasks.trans (congrArg _ ht), ?_, ho.trans houtline, ?_, ?_⟩
    · rw [heq, ← h.request_none]; rfl
    · rw [heq]; rfl
    · rw [heq]; exact ⟨rfl, rfl, rfl, rfl, rfl, rfl, rfl, rfl⟩
  · intro s hsearch
    show Host.Outcome.next (lookupCompletes s) = _
    unfold lookupCompletes
    cases hs : s.lookup.search with
    | none => rfl
    | some q => dsimp only; rw [if_pos (Option.isSome_iff_ne_none.2 (hsearch q hs))]

end Sys2Proof.Machine
end

section
/-! PROOFS. Number conversion of a key set: when it fails, and the digits it gives (R65, R66). -/

namespace Sys2Proof.Machine

/-- Conversion of a key set with # fails: an excluded key, exactly one of -E and -U, or no digit key (R66). -/
def NumberFails (k : KeySet) : Prop :=
  (∃ p ∈ [3, 5, 7, 10, 14, 16, 18, 20, 21], k.getLsbD p = true) ∨ k.getLsbD 11 ≠ k.getLsbD 12 ∨
    ∀ p ∈ [1, 2, 4, 6, 8, 9, 13, 15, 17, 19], k.getLsbD p = false

/-- The bytes of a list that stand beside a key of the set, in the list's order. -/
def keyedBytes (k : KeySet) (keys : List (Nat × Byte)) : List Byte :=
  keys.filterMap fun p => if k.getLsbD p.1 then some p.2 else none

theorem keyedBytes_eq_nil {k : KeySet} {keys : List (Nat × Byte)} :
    keyedBytes k keys = [] ↔ ∀ p ∈ keys.map Prod.fst, k.getLsbD p = false := by
  simp [keyedBytes, List.filterMap_eq_nil_iff]

/-- The digit keys in steno order, each with the byte of its digit (R65). -/
def digitBytes : List (Nat × Byte) :=
  [(1, 0x31), (2, 0x32), (4, 0x33), (6, 0x34), (8, 0x35), (9, 0x30), (13, 0x36), (15, 0x37), (17, 0x38), (19, 0x39)]

theorem digitString_eq (k : KeySet) : digitString k = keyedBytes k digitBytes := by
  have hkeys : digitBytes = digitKeys.map fun d => (d.1, charByte d.2) := rfl
  unfold digitString keyedBytes
  rw [hkeys, List.filterMap_map, ← List.filterMap_eq_filter, List.map_filterMap]
  refine List.filterMap_congr fun d _ => ?_
  cases h : k.getLsbD d.1 <;> simp [h, Option.guard]

theorem digitString_eq_nil {k : KeySet} :
    digitString k = [] ↔ ∀ p ∈ [1, 2, 4, 6, 8, 9, 13, 15, 17, 19], k.getLsbD p = false := by
  rw [digitString_eq]; exact keyedBytes_eq_nil

theorem digitString_length (k : KeySet) : (digitString k).length ≤ 10 := by
  rw [digitString_eq]; exact List.length_filterMap_le _ digitBytes

section
variable {k : KeySet}

theorem numberGuard_iff :
    (!k.getLsbD 0 || excludedKeys.any (fun p => k.getLsbD p) || k.getLsbD 11 != k.getLsbD 12 ||
      (digitString k).isEmpty) = true ↔ k.getLsbD 0 = false ∨ NumberFails k := by
  unfold NumberFails
  rw [← digitString_eq_nil]
  simp only [Bool.or_eq_true, Bool.not_eq_true', List.any_eq_true, bne_iff_ne, List.isEmpty_iff, or_assoc]; rfl

theorem convertNumber_fails (h : k.getLsbD 0 = false ∨ NumberFails k) : convertNumber k = none :=
  if_pos (numberGuard_iff.2 h)

/-- The digits of a number stroke, reversed by -E -U, with 00 for -Z (R66). -/
theorem convertNumber_converts (h0 : k.getLsbD 0 = true) (h : ¬ NumberFails k) :
    convertNumber k = some ((if k.getLsbD 11 then (digitString k).reverse else digitString k) ++
      if k.getLsbD 22 then [0x30, 0x30] else []) :=
  if_neg (mt numberGuard_iff.1 (not_or.2 ⟨by simp [h0], h⟩))

/-- -E and -U stand together where conversion does not fail. -/
theorem both_of_not_numberFails (h : ¬ NumberFails k) :
    (k.getLsbD 11 = true ∧ k.getLsbD 12 = true) ↔ k.getLsbD 11 = true := by
  have heq : k.getLsbD 11 = k.getLsbD 12 := by
    by_contra hne; exact h (.inr (.inl hne))
  rw [← heq, and_self]

theorem digitString_ne_nil (h : ¬ NumberFails k) : digitString k ≠ [] := fun hnil =>
  h (.inr (.inr (digitString_eq_nil.1 hnil)))

end

/-- Settles O32: the cases of the conversion's guard. -/
theorem numberConversionFollowsModifiers : Obligations.NumberConversionFollowsModifiers := by
  intro k failing digits ordered zeros
  have hdigits : digits = digitString k := (digitString_eq k).symm
  refine ⟨fun h => ?_, fun h0 h => ⟨?_, ?_⟩⟩
  · unfold resolveKeys; rw [convertNumber_fails h]
  · have hordered : ordered = if k.getLsbD 11 then (digitString k).reverse else digitString k := by
      rw [← hdigits]; exact if_congr (both_of_not_numberFails h) rfl rfl
    unfold resolveKeys; rw [convertNumber_converts h0 h, hordered]
  · have hordered : ordered.length = (digitString k).length := by
      show (if _ then digits.reverse else digits).length = _
      rw [← hdigits]; split <;> simp
    have hzeros : zeros.length ≤ 2 := by
      show (if _ then _ else _ : List Byte).length ≤ 2
      split <;> simp
    have hpos := List.length_pos_iff.2 (digitString_ne_nil h)
    have hlength := digitString_length k
    rw [List.length_append]; omega

end Sys2Proof.Machine
end

section
/-! PROOFS. TIMER_EVENT: the forced resolution of the sequence (R51, R55, R56, R58, R59). -/

namespace Sys2Proof.Machine

/-- The time left of the resolve timer has passed, and the event stops the timer (R59). -/
def timerStopped (n : Nat) (s : State) : State :=
  { elapse n s with translator := { (elapse n s).translator with resolveTimer := none } }

section
variable {s : State}

theorem Resting.search_none (h : Resting s) : s.lookup.search = none := by
  obtain ⟨-, -, -, hsearch, -, -⟩ := h; exact hsearch

theorem Resting.request_none (h : Resting s) : s.lookup.request = none := by
  obtain ⟨-, -, -, -, hrequest, -⟩ := h; exact hrequest

theorem Resting.inbox_nil (h : Resting s) : s.inbox = [] := by
  obtain ⟨-, -, -, -, -, hinbox⟩ := h; exact hinbox

/-- With nothing stale, the event is the forced resolution alone. -/
theorem timerEvent_forces {n : Nat} (h : Resting s) (hn : s.translator.resolveTimer = some n) :
    exec .timerEvent s = .next (takeRequest (runWork [.force] (timerStopped n s))) := by
  obtain ⟨hactive, hwork, hstale, -, -, -⟩ := h
  have hidle : translatorIdle s = true := by simp [translatorIdle, hactive, hwork]
  show Host.Outcome.next (if translatorIdle s then _ else s) = _
  rw [if_pos hidle, hn]
  show Host.Outcome.next (takeRequest (runWork [.staleTest, .force] (timerStopped n s))) = _
  rw [runWork, if_neg (by rw [show (timerStopped n s).translator.stale = false from hstale]; exact Bool.false_ne_true)]

/-- At a busy translator, or with the timer stopped, the command changes nothing. -/
theorem timerEvent_unchanged (h : s.translator.work ≠ [] ∨ s.translator.resolveTimer = none) :
    exec .timerEvent s = .next s := by
  show Host.Outcome.next (if translatorIdle s then _ else s) = _
  rcases h with hbusy | hstopped
  · rw [if_neg (by simp [translatorIdle, hbusy])]
  · rw [hstopped]; exact congrArg _ (ite_self s)

/-- The last text of a sequence: it stands at some place with no text behind it, or there is none. -/
theorem lastText_cases (q : List PendingEntry) :
    (∃ es e rest entry, q = es ++ e :: rest ∧ e.result.text = some entry ∧ ∀ y ∈ rest, y.result.text = none) ∨
      ∀ y ∈ q, y.result.text = none := by
  induction q with
  | nil => exact .inr nofun
  | cons y ys ih =>
    rcases ih with ⟨es, e, rest, entry, rfl, he, hrest⟩ | hnone
    · exact .inl ⟨y :: es, e, rest, entry, rfl, he, hrest⟩
    · cases hy : y.result.text with
      | some entry => exact .inl ⟨[], y, ys, entry, rfl, hy, hnone⟩
      | none => exact .inr (List.forall_mem_cons.2 ⟨hy, hnone⟩)

/-- Forced resolution in NORMAL: the front part joins where room has been made, and the rest is re-processed before the
forced resolution goes on, or with none left the event ends. -/
theorem forced_joins {rest : List PendingEntry} {joins : State → State → Prop} (hq : s.translator.sequence ≠ [])
    (hc : s.translator.capture.state = .normal) (hi : s.inbox = []) (hs : s.lookup.search = none)
    (hr : s.lookup.request = none) (htimer : s.translator.resolveTimer = none)
    (hfront : FrontJoins s s.translator.sequence rest joins) (hjoins : UnitsOnly joins) :
    let t := takeRequest (runWork [.force] s)
    joins (makeRoom (setSequence [] s)) t ∧ Reprocesses t (rest.map PendingEntry.stroke) [.force] ∧
      (rest = [] → t.translator.work = [] ∧ t.lookup = s.lookup) ∧ t.translator.resolveTimer = none := by
  obtain ⟨a, numbers, start, -, hresolve, hjoin⟩ := hfront
  have hact := createUnit_act a numbers start none (setSequence [] s)
  rw [setSequence_self rfl] at hresolve
  rw [runWork_force_front hq hresolve]
  cases rest with
  | nil =>
    rw [List.map_nil, if_pos rfl, runWork, endEvent_empty hact.sequence, takeRequest_none
      (by exact (congrArg LookupUnit.request hact.lookup).trans hr)]
    exact ⟨hjoins.after (sameUnits_withOwn _ _ _ _) hjoin, ⟨hact.sequence, nofun⟩, fun _ => ⟨rfl, hact.lookup⟩, rfl⟩
  | cons y ys =>
    obtain ⟨t, ht, hsame, hre, heq⟩ := completion_reprocesses (hact.inbox.trans hi)
      ((congrArg LookupUnit.search hact.lookup).trans hs) hact.sequence
      (by rw [hact.capture]; exact hc ▸ nofun) y.stroke (ys.map PendingEntry.stroke) [.force]
    rw [applyInbox_nil (by exact hact.inbox.trans hi)] at ht
    rw [List.map_cons, if_neg (List.cons_ne_nil _ _), runWork, ht]
    exact ⟨hjoins.after hsame hjoin, hre, nofun, by rw [heq]; exact hact.resolveTimer.trans htimer⟩

end

section
variable {s : State}

/-- Every sequence whose texts are of characters alone has a front part that joins (R55). -/
theorem plain_frontJoins {q : List PendingEntry} (hc : s.translator.capture.state ≠ .text)
    (hb : 0 < s.settings.holdBack) (hq : q ≠ [])
    (hplain : ∀ y ∈ q, ∀ entry, y.result.text = some entry → PlainText entry.text) :
    ∃ rest joins, FrontJoins s q rest joins ∧ UnitsOnly joins := by
  rcases lastText_cases q with ⟨es, e, rest, entry, rfl, he, hrest⟩ | hnone
  · exact ⟨rest, _, frontJoins_word hc hb he hrest (hplain e (by simp) entry he), unitsOnly_word _ _ _⟩
  · obtain ⟨e, rest, rfl⟩ := List.exists_cons_of_ne_nil hq
    exact ⟨rest, _, frontJoins_keys hc hb hnone, unitsOnly_keys _ _⟩

end

/-- Settles O29: the front part that ends at the last text joins, or with no text the first stroke alone. -/
theorem resolveTimerEmptiesSequence : Obligations.ResolveTimerEmptiesSequence := by
  refine ⟨fun s n h hn hc hq hb => ?_, fun s n h hn hq => ?_, fun s h => timerEvent_unchanged h⟩
  · have hne : (timerStopped n s).translator.capture.state ≠ .text := by
      rw [show (timerStopped n s).translator.capture.state = .normal from hc]; nofun
    have hforced {rest : List PendingEntry} {joins : State → State → Prop}
        (hfront : FrontJoins (timerStopped n s) s.translator.sequence rest joins) (hjoins : UnitsOnly joins) :=
      forced_joins (s := timerStopped n s) hq hc h.inbox_nil h.search_none h.request_none rfl hfront hjoins
    refine ⟨_, _, timerEvent_forces h hn, makeRoom_made _, fun es e rest entry hsplit he hrest hplain => ?_,
      fun e rest hsplit hnone => ?_, ?_, fun hplain => ?_⟩
    · obtain ⟨hjoins, hre, hend, -⟩ :=
        hforced (hsplit ▸ frontJoins_word hne hb he hrest hplain) (unitsOnly_word _ _ _)
      exact ⟨hjoins, hre, hend⟩
    · obtain ⟨hjoins, hre, hend, -⟩ := hforced (hsplit ▸ frontJoins_keys hne hb hnone) (unitsOnly_keys _ _)
      exact ⟨hjoins, hre, hend⟩
    · exact ((runWork_act [.force] (timerStopped n s)).trans (takeRequest_act _)).strokes
    · obtain ⟨rest, joins, hfront, hjoins⟩ := plain_frontJoins hne hb hq hplain
      obtain ⟨-, -, -, htimer⟩ := hforced hfront hjoins
      exact htimer
  · have hends : endEvent (timerStopped n s) =
        { elapse n s with translator := { s.translator with resolveTimer := none } } := by
      obtain ⟨-, hwork, -, -, -, -⟩ := h
      rw [endEvent_empty (by exact hq), ← hwork]; rfl
    rw [timerEvent_forces h hn, runWork_force_nil (by exact hq), runWork, hends,
      takeRequest_none (by exact h.request_none)]

end Sys2Proof.Machine
end

section
/-! PROOFS. Two statements that fail: an UNDO stroke behind a recomputation shortens the sequence, and the lookup of a
re-processed stroke may set DICT_BAD at once (R47, R49, R53, R63). -/

namespace Sys2Proof.Machine

/-! ### An UNDO stroke behind a recomputation (R53, R63) -/

/-- The lookup of the only entry of the sequence, with its windows searched. -/
def endedSearch : Search := ⟨[2], outlineHash [2], .w2, none, ⟨none, true⟩⟩

/-- The event of an UNDO stroke that found the stale mark set: its recomputation waits for the one entry there is. -/
def undoBehindRecompute : State :=
  { State.reset with
    lookup := { LookupUnit.initial with search := some endedSearch }
    translator :=
      { Translator.initial with
        active := true, sequence := [⟨⟨1, 2, 0⟩, ⟨none, true⟩⟩], work := [.recompute 0, .stroke ⟨2, 1024, 0⟩] } }

/-- The recomputation ends at this completion, and the UNDO stroke takes back the entry. -/
theorem undoBehindRecompute_sequence : (lookupCompletes undoBehindRecompute).translator.sequence = [] := by decide

/-- Refutes O27: its third clause says that the sequence stays as it was recomputed whatever work is behind, and an UNDO
stroke behind the recomputation removes its newest entry. -/
theorem not_strokeEventAsksForLookup : ¬ Obligations.StrokeEventAsksForLookup := by
  rintro ⟨-, -, hrecompute, -⟩
  obtain ⟨t, -, hexec, -, hkept, -⟩ :=
    hrecompute undoBehindRecompute endedSearch 0 [.stroke ⟨2, 1024, 0⟩] rfl rfl rfl rfl (by decide)
  obtain rfl : lookupCompletes undoBehindRecompute = t := Host.Outcome.next.inj hexec
  rw [undoBehindRecompute_sequence] at hkept
  exact List.cons_ne_nil _ _ hkept.symm

/-! ### A damaged overlay slot under a re-processed stroke (R47, R49, R61) -/

/-- Three strokes S- are held in the text of a definition, and an UNDO stroke with an overrun count waits. The overlay
has 256 slots, and the home slot of the outline S- holds 0x00FFFFFF, an offset past the heap. -/
def damagedSlot : State :=
  { State.reset with
    strokes := [⟨⟨4, 1024, 0, 0⟩, some 1⟩]
    port :=
      { State.reset.port with
        regions := ⟨.overlay, .ram, 0, 131072, [.ramRead, .ramWrite]⟩ :: defaultRegions, ramMem := [⟨156, 0⟩] }
    lookup := { LookupUnit.initial with w0 := some ⟨256, 16, 16, 1040, 65536⟩ }
    translator :=
      { Translator.initial with
        active := true, sequence := [1, 2, 3].map fun n => ⟨⟨n, 2, 0⟩, ⟨none, true⟩⟩
        capture := { Capture.closed with state := .text, outline := [⟨0, 4, 0⟩] } } }

/-- The same state with the UNDO stroke alone. -/
def damagedSlotUndo : State := { damagedSlot with strokes := [⟨⟨4, 1024, 0, 0⟩, none⟩] }

/-- The UNDO stroke alone needs no lookup: the flags stay, and two entries without text are left. -/
theorem damagedSlotUndo_takeStroke :
    (takeStroke damagedSlotUndo).status.flags = 1 ∧ (takeStroke damagedSlotUndo).translator.capture.state = .text ∧
      (takeStroke damagedSlotUndo).translator.sequence = [1, 2].map fun n => ⟨⟨n, 2, 0⟩, ⟨none, true⟩⟩ := by
  decide

/-- The marker resolves the first of them, and the lookup of the second sets DICT_BAD (position 10) at once. -/
theorem damagedSlot_takeStroke : (takeStroke damagedSlot).status.flags = 0x401 := by
  decide

/-- Refutes O28: its third clause says that the status unit is as the UNDO stroke leaves it while the strokes behind the
front part are re-processed, and the search of the overlay for the first of them sets DICT_BAD. -/
theorem not_undoTakesBackTheNewest : ¬ Obligations.UndoTakesBackTheNewest := by
  rintro ⟨-, -, hmarker⟩
  obtain ⟨p, t, hundo, hexec, -, -, -, htext⟩ :=
    hmarker damagedSlot ⟨⟨4, 1024, 0, 0⟩, some 1⟩ [] 1 ⟨rfl, rfl, rfl, rfl, rfl, rfl⟩ rfl rfl rfl (by decide)
  obtain rfl : takeStroke damagedSlotUndo = p := Host.Outcome.next.inj hundo
  obtain rfl : takeStroke damagedSlot = t := Host.Outcome.next.inj hexec
  obtain ⟨hflags, hstate, hsequence⟩ := damagedSlotUndo_takeStroke
  obtain ⟨-, hkeys⟩ := htext hstate
  obtain ⟨-, hrest⟩ := hkeys _ _ hsequence (by rw [hsequence]; decide)
  obtain ⟨-, -, -, -, hkept⟩ := hrest (List.cons_ne_nil _ _)
  have hstatus : (takeStroke damagedSlot).status = (takeStroke damagedSlotUndo).status := congrArg Prod.fst hkept
  rw [← hstatus, damagedSlot_takeStroke] at hflags
  exact absurd hflags (by decide)

end Sys2Proof.Machine
end

section
/-! PROOFS. The overlay's region byte by byte: numbers in their bytes, the header, and what the overlay manager's reads
and writes do in the region whatever its header says (R32 to R34, R41, R90 to R92). -/

namespace Sys2Proof.Machine

/-! ### Numbers in their bytes (R182) -/

@[simp] theorem beBytes_length (n v : Nat) : (beBytes n v).length = n := by simp [beBytes]

theorem beBytes_succ (n v : Nat) : beBytes (n + 1) v = beBytes n (v / 256) ++ [BitVec.ofNat 8 v] := by
  unfold beBytes
  rw [List.range_succ, List.map_append]
  congr 1
  · refine List.map_congr_left fun i hi => ?_
    have hi := List.mem_range.1 hi
    rw [Nat.div_div_eq_div_mul, ← Nat.pow_succ']
    congr 3; omega
  · simp

/-- A number that fits reads back from its bytes. -/
theorem beNat_beBytes {n v : Nat} (h : v < 256 ^ n) : beNat (beBytes n v) = v := by
  induction n generalizing v with
  | zero => rw [Nat.pow_zero] at h; rw [Nat.lt_one_iff.1 h]; rfl
  | succ n ih =>
    have hhigh : beNat (beBytes n (v / 256)) = v / 256 := ih (by rw [Nat.pow_succ] at h; omega)
    unfold beNat at hhigh ⊢
    rw [beBytes_succ, List.foldl_append, hhigh]
    simp; omega

/-- A field of `n` bytes behind some others holds the number written there. -/
theorem fieldAt_beBytes {pre rest : List Byte} {off n v : Nat} (hoff : pre.length = off) (hv : v < 256 ^ n) :
    fieldAt (pre ++ beBytes n v ++ rest) off n = v := by
  have h := fieldAt_append (pre := pre) (bs := beBytes n v) (rest := rest)
  rwa [beBytes_length, beNat_beBytes hv, hoff] at h

/-! ### Bytes read from a device -/

theorem Memory.readBytes_congr {m m' : Memory} {a n : Nat}
    (h : ∀ x, a ≤ x → x < a + n → Memory.read m' x = Memory.read m x) :
    Memory.readBytes m' a n = Memory.readBytes m a n :=
  List.map_congr_left fun i hi => h _ (by omega) (by have := List.mem_range.1 hi; omega)

theorem Memory.readBytes_add (m : Memory) (a n k : Nat) :
    Memory.readBytes m a (n + k) = Memory.readBytes m a n ++ Memory.readBytes m (a + n) k := by
  simp [Memory.readBytes, List.range_add, Nat.add_assoc]

theorem Memory.readBytes_one (m : Memory) (a : Nat) : Memory.readBytes m a 1 = [Memory.read m a] := by
  simp [Memory.readBytes]

/-- A field of bytes read from a device is the number in its part of them. -/
theorem fieldAt_readBytes (m : Memory) (a len : Nat) {off n : Nat} (h : off + n ≤ len) :
    fieldAt (Memory.readBytes m a len) off n = beNat (Memory.readBytes m (a + off) n) := by
  unfold fieldAt; rw [Memory.readBytes_drop_take m a len h]

/-! ### Requests in the region (R32 to R34, R41) -/

/-- The OVERLAY region lies in the RAM and may be read and written (R33). -/
structure OverlayRegion (s : State) (r : Region) : Prop where
  region : s.port.region .overlay = some r
  device : r.device = .ram
  allowed : r.allowed = [.ramRead, .ramWrite]

/-- From s to t the RAM alone has changed, canonical as before, and nowhere but at some places. -/
structure RamChange (s t : State) (place : Nat → Prop) : Prop where
  rest : t = { s with port := { s.port with ramMem := t.port.ramMem } }
  wf : Memory.wf s.port.ramMem → Memory.wf t.port.ramMem
  outside : ∀ x, ¬ place x → Memory.read t.port.ramMem x = Memory.read s.port.ramMem x

theorem RamChange.refl (s : State) (place : Nat → Prop) : RamChange s s place := ⟨rfl, id, fun _ _ => rfl⟩

theorem RamChange.trans {s t u : State} {p q : Nat → Prop} (h : RamChange s t p) (k : RamChange t u q) :
    RamChange s u fun x => p x ∨ q x :=
  ⟨by rw [k.rest, h.rest], k.wf ∘ h.wf, fun x hx =>
    (k.outside x fun hq => hx (.inr hq)).trans (h.outside x fun hp => hx (.inl hp))⟩

theorem RamChange.mono {s t : State} {p q : Nat → Prop} (h : RamChange s t p) (hpq : ∀ x, p x → q x) :
    RamChange s t q :=
  ⟨h.rest, h.wf, fun x hx => h.outside x fun hp => hx (hpq x hp)⟩

theorem RamChange.settings {s t : State} {p : Nat → Prop} (h : RamChange s t p) : t.settings = s.settings := by
  rw [h.rest]

theorem RamChange.region {s t : State} {p : Nat → Prop} {r : Region} (h : RamChange s t p) (hr : OverlayRegion s r) :
    OverlayRegion t r := by
  rw [h.rest]; exact ⟨hr.region, hr.device, hr.allowed⟩

section
variable {s : State} {r : Region} (hr : OverlayRegion s r)
include hr

theorem OverlayRegion.dataAt_eq {off n : Nat} (hn : 1 ≤ n) (hin : off + n ≤ r.size) :
    s.port.dataAt .overlay off n = Memory.readBytes s.port.ramMem (r.base + off) n := by
  rw [MemoryPort.dataAt_of_allows (by rw [MemoryPort.allows_eq hr.region rfl, hr.allowed]; simp [hn, hin])]
  simp [MemoryPort.bytesAt, hr.region, hr.device, MemoryPort.contents]

theorem OverlayRegion.field_eq {off n : Nat} (hn : 1 ≤ n) (hin : off + n ≤ r.size) :
    overlayField s off n = beNat (Memory.readBytes s.port.ramMem (r.base + off) n) := by
  unfold overlayField; rw [hr.dataAt_eq hn hin]

theorem OverlayRegion.write_ram {off : Nat} {bs : List Byte} (hn : 1 ≤ bs.length) (hin : off + bs.length ≤ r.size) :
    (overlayWrite off bs s).port.ramMem = Memory.writeBytes s.port.ramMem (r.base + off) bs := by
  rw [overlayWrite_port]
  simp only [MemoryPort.ramAfter]
  rw [if_pos (by rw [MemoryPort.allows_eq hr.region rfl, hr.allowed]; simp [hn, hin]), hr.region]
  rfl

/-- A write changes its own span of the region at most. -/
theorem OverlayRegion.write_change {off : Nat} {bs : List Byte} (hn : 1 ≤ bs.length)
    (hin : off + bs.length ≤ r.size) :
    RamChange s (overlayWrite off bs s) fun x => r.base + off ≤ x ∧ x < r.base + off + bs.length := by
  refine ⟨rfl, fun hwf => ?_, fun x hx => ?_⟩
  · rw [hr.write_ram hn hin]; exact Memory.wf_writeBytes hwf _ _
  · rw [hr.write_ram hn hin]; exact Memory.read_writeBytes_outside _ _ _ (by omega)

/-- What has been written reads back. -/
theorem OverlayRegion.readBytes_write {off : Nat} {bs : List Byte} (hwf : Memory.wf s.port.ramMem)
    (hn : 1 ≤ bs.length) (hin : off + bs.length ≤ r.size) :
    Memory.readBytes (overlayWrite off bs s).port.ramMem (r.base + off) bs.length = bs := by
  rw [hr.write_ram hn hin, Memory.readBytes_writeBytes hwf]

end

/-! ### The header (R90 to R92) -/

theorem headerFields_length (slots : Nat) (c : OverlayCounts) : (headerFields slots c).length = 12 := by
  simp [headerFields]

theorem headerBytes_length (slots : Nat) (c : OverlayCounts) (good : Bool) :
    (headerBytes slots c good).length = 16 := by
  simp [headerBytes, headerFields]

/-- A header written with its CRC good says that the overlay may be kept, with these counts. -/
theorem headerBytes_is {t : Settings} {c : OverlayCounts} (hlog : t.overlayLog2 ≤ 12) (hused : c.used < 2 ^ 32)
    (hheap : c.used ≤ t.overlayHeap * 1024) (hcounts : c.live + c.deleted ≤ 2 ^ t.overlayLog2) :
    OverlayHeaderIs t (headerBytes (2 ^ t.overlayLog2) c true) c.used c.live c.deleted := by
  have hslots : 2 ^ t.overlayLog2 ≤ 2 ^ 12 := Nat.pow_le_pow_right (by norm_num) hlog
  generalize hT : 2 ^ t.overlayLog2 = T at *
  have hcrc : fieldAt (headerBytes T c true) 14 2 = (crc16 (byteBits (headerFields T c))).toNat := by
    rw [← List.append_nil (headerBytes T c true)]
    exact fieldAt_beBytes (by simp [headerFields_length]) (BitVec.isLt _)
  have hbody : (headerBytes T c true).take 12 = headerFields T c := by
    unfold headerBytes; rw [List.append_assoc, List.take_left' (headerFields_length T c)]
  have hfields (rest : List Byte) : let h := headerFields T c ++ rest
      fieldAt h 0 4 = T ∧ fieldAt h 4 4 = c.used ∧ fieldAt h 8 2 = c.live ∧ fieldAt h 10 2 = c.deleted := by
    simp only [headerFields, List.append_assoc]
    refine ⟨?_, ?_, ?_, ?_⟩
    · exact fieldAt_beBytes (pre := []) rfl (by omega)
    · rw [← List.append_assoc]; exact fieldAt_beBytes (by simp) (by omega)
    · rw [← List.append_assoc, ← List.append_assoc]; exact fieldAt_beBytes (by simp) (by omega)
    · rw [← List.append_assoc, ← List.append_assoc, ← List.append_assoc]
      exact fieldAt_beBytes (by simp) (by omega)
  obtain ⟨h0, h4, h8, h10⟩ := hfields ([0, 0] ++ beBytes 2 (crc16 (byteBits (headerFields T c))).toNat)
  have happ : headerBytes T c true =
      headerFields T c ++ ([0, 0] ++ beBytes 2 (crc16 (byteBits (headerFields T c))).toNat) := by
    unfold headerBytes; rw [List.append_assoc]; rfl
  rw [← happ] at h0 h4 h8 h10
  refine ⟨⟨?_, by rw [h0, hT], by omega, by omega⟩, h4, h8, h10⟩
  rw [← crcField_iff _ (fieldAt_lt _ _ _), hcrc, hbody]

section
variable {s : State} {r : Region} (hr : OverlayRegion s r) (hsize : 16 ≤ r.size)
include hr hsize

/-- A header write changes the first 16 bytes of the region at most. -/
theorem OverlayRegion.header_change (c : OverlayCounts) (good : Bool) :
    RamChange s (writeHeader c good s) fun x => r.base ≤ x ∧ x < r.base + 16 := by
  have hlength := headerBytes_length (overlaySlots s) c good
  have h := hr.write_change (off := 0) (bs := headerBytes (overlaySlots s) c good) (by omega) (by omega)
  rwa [hlength] at h

/-- A header written reads back. -/
theorem OverlayRegion.readBytes_header (hwf : Memory.wf s.port.ramMem) (c : OverlayCounts) (good : Bool) :
    Memory.readBytes (writeHeader c good s).port.ramMem r.base 16 =
      headerBytes (2 ^ s.settings.overlayLog2) c good := by
  have hlength := headerBytes_length (overlaySlots s) c good
  have h := hr.readBytes_write (off := 0) (bs := headerBytes (overlaySlots s) c good) hwf (by omega) (by omega)
  rwa [hlength] at h

/-- The counts of the header are its fields. -/
theorem OverlayRegion.readCounts_eq :
    readCounts s =
      let h := Memory.readBytes s.port.ramMem r.base 16
      ⟨fieldAt h 4 4, fieldAt h 8 2, fieldAt h 10 2⟩ := by
  unfold readCounts
  rw [hr.field_eq (by omega) (by omega), hr.field_eq (by omega) (by omega), hr.field_eq (by omega) (by omega)]
  simp only [fieldAt_readBytes _ _ _ (by omega : 4 + 4 ≤ 16), fieldAt_readBytes _ _ _ (by omega : 8 + 2 ≤ 16),
    fieldAt_readBytes _ _ _ (by omega : 10 + 2 ≤ 16)]

/-- The keep test of R91, in its words. -/
theorem OverlayRegion.overlayKept_iff :
    overlayKept s = true ↔ OverlayHeaderSound s.settings (Memory.readBytes s.port.ramMem r.base 16) := by
  unfold overlayKept OverlayHeaderSound
  rw [hr.readCounts_eq hsize, hr.dataAt_eq (by omega) (by omega), Nat.add_zero]
  simp only [Bool.and_eq_true, decide_eq_true_eq, and_assoc]
  rw [crcField_iff _ (fieldAt_lt _ _ _)]
  rfl

end

end Sys2Proof.Machine
end

section
/-! PROOFS. The overlay header at the end of LOAD: the overlay is kept, or every slot is emptied (R91). -/

namespace Sys2Proof.Machine

/-- The end of the header's read changes the RAM where the overlay is cleared, enables W0, and begins SCAN. -/
theorem overlayRead_eq (s : State) :
    overlayRead s =
      { s with
        notes := { s.notes with resumeScan := some (.forward 0) }
        seq := { s.seq with phase := .scan, loadStep := .done }
        lookup := { s.lookup with w0 := some (overlayGeometry s) }
        port :=
          { s.port with
            flash := .reading
            ramMem :=
              if s.seq.resetKind = .pin ∧ overlayKept s = true then s.port.ramMem
              else (clearOverlay s).port.ramMem } } := by
  unfold overlayRead; split <;> rfl

section
variable {s : State} {r : Region} (hr : OverlayRegion s r) (hsize : 16 + 4 * 2 ^ s.settings.overlayLog2 ≤ r.size)
include hr hsize

theorem OverlayRegion.emptySlots_ram :
    (emptySlots s).port.ramMem =
      Memory.blank s.port.ramMem (r.base + 16) (4 * 2 ^ s.settings.overlayLog2) := by
  have hpos : 0 < 2 ^ s.settings.overlayLog2 := by positivity
  unfold emptySlots MemoryPort.ramBlanked overlaySlots
  rw [if_pos (by rw [MemoryPort.allows_eq hr.region rfl, hr.allowed]; simp; omega), hr.region]
  rfl

/-- Emptying the slots changes the slot array at most. -/
theorem OverlayRegion.emptySlots_change :
    RamChange s (emptySlots s) fun x => r.base + 16 ≤ x ∧ x < r.base + 16 + 4 * 2 ^ s.settings.overlayLog2 := by
  refine ⟨rfl, fun hwf => ?_, fun x hx => ?_⟩
  · rw [hr.emptySlots_ram hsize]; exact Memory.wf_blank hwf _ _
  · rw [hr.emptySlots_ram hsize]; exact Memory.read_blank_outside _ _ _ (by omega)

/-- A cleared overlay has every slot empty, and a header with zero counts; nothing else has changed. -/
theorem OverlayRegion.clearOverlay_spec (hwf : Memory.wf s.port.ramMem) (hlog : s.settings.overlayLog2 ≤ 12) :
    (∀ x, r.base + 16 ≤ x → x < r.base + 16 + 4 * 2 ^ s.settings.overlayLog2 →
      Memory.read (clearOverlay s).port.ramMem x = 0xFF) ∧
    OverlayHeaderIs s.settings (Memory.readBytes (clearOverlay s).port.ramMem r.base 16) 0 0 0 ∧
    RamChange s (clearOverlay s) fun x => r.base ≤ x ∧ x < r.base + 16 + 4 * 2 ^ s.settings.overlayLog2 := by
  have hempty := hr.emptySlots_change hsize
  have hregion := hempty.region hr
  have hheader := hregion.header_change (by omega) ⟨0, 0, 0⟩ true
  refine ⟨fun x h1 h2 => ?_, ?_, (hempty.trans hheader).mono fun x hx => by omega⟩
  · exact (hheader.outside x (by omega)).trans
      (by rw [hr.emptySlots_ram hsize]; exact Memory.read_blank_inside _ _ _ h1 h2)
  · rw [clearOverlay, hregion.readBytes_header (by omega) (hempty.wf hwf), hempty.settings]
    exact headerBytes_is hlog (by norm_num) (Nat.zero_le _) (Nat.zero_le _)

end

/-- Settles O10, from what the keep test says and from what clearing leaves in the region. -/
theorem overlayClearedUnlessKept : Obligations.OverlayClearedUnlessKept := by
  rintro s r ⟨hphase, hstep⟩ hregion hdevice hallowed hsize hwf hlog slots kept
  have hr : OverlayRegion s r := ⟨hregion, hdevice, hallowed⟩
  have hkept : (s.seq.resetKind = .pin ∧ overlayKept s = true) ↔ kept :=
    and_congr_right fun _ => hr.overlayKept_iff (by omega)
  have hexec : exec .overlayHeaderReadDone s = .next (overlayRead s) :=
    congrArg Host.Outcome.next (if_pos ⟨hphase, hstep⟩)
  obtain ⟨hslots, ⟨hsound, hfields⟩, hchange⟩ := hr.clearOverlay_spec hsize hwf hlog
  rw [overlayRead_eq] at hexec
  refine ⟨_, hexec, rfl, rfl, fun hk => if_pos (hkept.2 hk), fun hk => ?_, rfl⟩
  simp only [if_neg (mt hkept.1 hk)]
  obtain ⟨hused, hlive, hdeleted⟩ := hfields
  exact ⟨hslots, hsound, hused, hlive, hdeleted, fun a ha => hchange.outside a (by omega)⟩

end Sys2Proof.Machine
end

section
/-! PROOFS. What stands in the overlay, whatever its header says: entries and slots, what a write leaves of them, the
search for an outline, and that two outlines stand apart (R90, R92 to R94). -/

namespace Sys2Proof.Machine

/-! ### The overlay inside a change (R92) -/

/-- The overlay of an accepted configuration with its three parts in its region, whatever its header says. -/
structure OverlayOpen (s : State) (r : Region) (used : Nat) : Prop extends OverlayRegion s r where
  log : s.settings.overlayLog2 ≤ 12
  heap : used ≤ s.settings.overlayHeap * 1024
  room : 16 + 4 * 2 ^ s.settings.overlayLog2 + s.settings.overlayHeap * 1024 ≤ r.size
  wf : Memory.wf s.port.ramMem

theorem OverlayStands.opened {s : State} {r : Region} {used live deleted : Nat}
    (h : OverlayStands s r used live deleted) : OverlayOpen s r used := by
  obtain ⟨hregion, hdevice, hallowed, -, hlog, -, hroom, hwf, ⟨-, -, hheap, -⟩, hused, -⟩ := h
  exact ⟨⟨hregion, hdevice, hallowed⟩, hlog, hused ▸ hheap, hroom, hwf⟩

theorem RamChange.opened {s t : State} {p : Nat → Prop} {r : Region} {used : Nat} (h : RamChange s t p)
    (ho : OverlayOpen s r used) : OverlayOpen t r used := by
  refine ⟨h.region ho.toOverlayRegion, ?_, ?_, ?_, h.wf ho.wf⟩ <;> rw [h.settings]
  exacts [ho.log, ho.heap, ho.room]

/-! ### Slots and entries as places -/

/-- An address of slot i. -/
def InSlot (r : Region) (i x : Nat) : Prop := slotPlace r i ≤ x ∧ x < slotPlace r i + 4

/-- An address of the entry of an outline with a text, at a heap offset. -/
def InEntry (s : State) (r : Region) (v : Nat) (outline : List KeySet) (text : List Byte) (x : Nat) : Prop :=
  heapPlace s r v ≤ x ∧ x < heapPlace s r v + entrySpan outline text

theorem RamChange.heapPlace_eq {s t : State} {p : Nat → Prop} (h : RamChange s t p) (r : Region) (v : Nat) :
    heapPlace t r v = heapPlace s r v := by
  unfold heapPlace; rw [h.settings]

theorem RamChange.inEntry_eq {s t : State} {p : Nat → Prop} (h : RamChange s t p) (r : Region) (v : Nat)
    (outline : List KeySet) (text : List Byte) : InEntry t r v outline text = InEntry s r v outline text := by
  unfold InEntry; rw [h.heapPlace_eq]

theorem le_entrySpan (outline : List KeySet) (text : List Byte) :
    4 + 3 * outline.length + text.length ≤ entrySpan outline text := by
  unfold entrySpan; omega

/-- What stands in an entry between its kind and its count (R90). -/
def entryBody (outline : List KeySet) (text : List Byte) : List Byte :=
  BitVec.ofNat 8 outline.length :: (outline.flatMap fun o => beBytes 3 o.toNat) ++ BitVec.ofNat 8 text.length :: text

theorem entryBody_length (outline : List KeySet) (text : List Byte) :
    (entryBody outline text).length = 2 + 3 * outline.length + text.length := by
  simp [entryBody]; omega

/-- The bounds of an entry's fields. -/
def EntryFits (used v : Nat) (outline : List KeySet) (text : List Byte) (count : Nat) : Prop :=
  1 ≤ outline.length ∧ outline.length ≤ 8 ∧ text.length ≤ 120 ∧ count ≤ 255 ∧ v + entrySpan outline text ≤ used

/-- An entry is its kind byte, its body, and its count byte. -/
theorem entryStands_iff {s : State} {r : Region} {used v count : Nat} {k : EntryKind} {outline : List KeySet}
    {text : List Byte} :
    EntryStands s r used v k outline text count ↔
      EntryFits used v outline text count ∧
        Memory.read s.port.ramMem (heapPlace s r v) = BitVec.ofNat 8 k.code ∧
        Memory.readBytes s.port.ramMem (heapPlace s r v + 1) (2 + 3 * outline.length + text.length) =
          entryBody outline text ∧
        Memory.read s.port.ramMem (heapPlace s r v + (3 + 3 * outline.length + text.length)) =
          BitVec.ofNat 8 count := by
  have hsplit : Memory.readBytes s.port.ramMem (heapPlace s r v) (4 + 3 * outline.length + text.length) =
      Memory.read s.port.ramMem (heapPlace s r v) ::
        (Memory.readBytes s.port.ramMem (heapPlace s r v + 1) (2 + 3 * outline.length + text.length) ++
          [Memory.read s.port.ramMem (heapPlace s r v + (3 + 3 * outline.length + text.length))]) := by
    rw [show 4 + 3 * outline.length + text.length = 1 + (2 + 3 * outline.length + text.length + 1) by omega,
      Memory.readBytes_add, Memory.readBytes_add, Memory.readBytes_one, Memory.readBytes_one]
    rw [show heapPlace s r v + 1 + (2 + 3 * outline.length + text.length) =
      heapPlace s r v + (3 + 3 * outline.length + text.length) by omega]
    rfl
  have hwhole : [BitVec.ofNat 8 k.code, BitVec.ofNat 8 outline.length] ++
        (outline.flatMap fun o => beBytes 3 o.toNat) ++ [BitVec.ofNat 8 text.length] ++ text ++ [BitVec.ofNat 8 count] =
      BitVec.ofNat 8 k.code :: (entryBody outline text ++ [BitVec.ofNat 8 count]) := by
    simp [entryBody]
  unfold EntryStands EntryFits
  rw [hsplit, hwhole, List.cons.injEq, List.append_singleton_inj]
  simp only [and_assoc]

theorem EntryKind.code_byte_inj {k k' : EntryKind} (h : BitVec.ofNat 8 k.code = BitVec.ofNat 8 k'.code) : k = k' := by
  revert h; cases k <;> cases k' <;> decide

/-- What stands at a heap offset determines the entry. -/
theorem EntryStands.unique {s : State} {r : Region} {used v c c' : Nat} {k k' : EntryKind} {o o' : List KeySet}
    {t t' : List Byte} (h : EntryStands s r used v k o t c) (h' : EntryStands s r used v k' o' t' c') :
    k = k' ∧ o = o' ∧ t = t' ∧ c = c' := by
  have ho : o.length = o'.length := by rw [h.strokes, h'.strokes]
  have ht : t.length = t'.length := by rw [h.textLength, h'.textLength, ho]
  obtain ⟨⟨-, -, -, hc, -⟩, hkind, hbody, hcount⟩ := entryStands_iff.1 h
  obtain ⟨⟨-, -, -, hc', -⟩, hkind', hbody', hcount'⟩ := entryStands_iff.1 h'
  rw [ho, ht] at hbody hcount
  obtain ⟨hkeys, htext⟩ := List.append_inj (hbody.symm.trans hbody') (by simp [ho])
  refine ⟨EntryKind.code_byte_inj (hkind.symm.trans hkind'), ?_, (List.cons.inj htext).2, ?_⟩
  · have hraw := rawKeys_stored [] o
    rw [(List.cons.inj hkeys).2, ho] at hraw
    exact (List.map_injective_iff.2 fun _ _ => BitVec.eq_of_toNat_eq) (hraw.symm.trans (rawKeys_stored [] o'))
  · have hbyte := congrArg BitVec.toNat (hcount.symm.trans hcount')
    rw [BitVec.toNat_ofNat, BitVec.toNat_ofNat] at hbyte
    omega

/-! ### What a write leaves -/

section
variable {s t : State} {p : Nat → Prop} {r : Region} {used v count : Nat} {k : EntryKind} {outline : List KeySet}
  {text : List Byte}

theorem RamChange.slotHolds_eq (h : RamChange s t p) {i : Nat} (hp : ∀ x, InSlot r i x → ¬ p x) :
    slotHolds t r i = slotHolds s r i := by
  unfold slotHolds
  rw [Memory.readBytes_congr fun x h1 h2 => h.outside x (hp x ⟨h1, h2⟩)]

/-- An entry outside the places of a change stands as before. -/
theorem RamChange.entryStands (h : RamChange s t p) (hp : ∀ x, InEntry s r v outline text x → ¬ p x)
    (he : EntryStands s r used v k outline text count) : EntryStands t r used v k outline text count := by
  have hspan := le_entrySpan outline text
  obtain ⟨h1, h8, h120, h255, hused, hbytes⟩ := he
  refine ⟨h1, h8, h120, h255, hused, ?_⟩
  rw [h.heapPlace_eq, ← hbytes]
  exact Memory.readBytes_congr fun x hlow hhigh => h.outside x (hp x ⟨hlow, by omega⟩)

end

/-! ### The fields of an entry, and writes to it (R90, R93) -/

section
variable {s : State} {r : Region} {used v count : Nat} {k : EntryKind} {outline : List KeySet} {text : List Byte}
  (ho : OverlayOpen s r used) (he : EntryStands s r used v k outline text count)
include ho he

/-- The place of a byte of an entry lies in the region, at the address of the heap. -/
theorem OverlayOpen.entry_inside {off : Nat} (hoff : off < 4 + 3 * outline.length + text.length) :
    overlayHeapBase s + v + off + 1 ≤ r.size ∧ r.base + (overlayHeapBase s + v + off) = heapPlace s r v + off := by
  obtain ⟨-, -, -, -, hused, -⟩ := he
  have hspan := le_entrySpan outline text
  have hheap := ho.heap
  have hroom := ho.room
  unfold overlayHeapBase overlaySlots heapPlace
  omega

theorem OverlayOpen.entryField_eq {off : Nat} (hoff : off < 4 + 3 * outline.length + text.length) :
    entryField s v off 1 = (Memory.read s.port.ramMem (heapPlace s r v + off)).toNat := by
  obtain ⟨hin, hplace⟩ := ho.entry_inside he hoff
  rw [entryField, ho.field_eq le_rfl hin, hplace, Memory.readBytes_one]
  simp [beNat]

theorem OverlayOpen.entryHasText_eq : entryHasText s v = decide (k ≠ .cont) := by
  obtain ⟨-, hkind, -⟩ := entryStands_iff.1 he
  rw [entryHasText, ho.entryField_eq he (by omega), Nat.add_zero, hkind]
  cases k <;> rfl

theorem OverlayOpen.countPlace_eq : countPlace s v = 3 + 3 * outline.length + text.length := by
  unfold countPlace; dsimp only
  rw [ho.entryField_eq he (by omega), ← he.strokes, ho.entryField_eq he (by omega), ← he.textLength]

theorem OverlayOpen.prefixCount_eq : prefixCount s v = count := by
  obtain ⟨⟨-, -, -, h255, -⟩, -, -, hcount⟩ := entryStands_iff.1 he
  rw [prefixCount, ho.countPlace_eq he, ho.entryField_eq he (by omega), hcount, BitVec.toNat_ofNat]
  omega

/-- A byte of an entry written changes that byte at most, and reads back. -/
theorem OverlayOpen.writeByte_spec {off : Nat} (hoff : off < 4 + 3 * outline.length + text.length) (b : Nat) :
    let t := overlayWrite (overlayHeapBase s + v + off) (beBytes 1 b) s
    RamChange s t (fun x => x = heapPlace s r v + off) ∧
      Memory.read t.port.ramMem (heapPlace s r v + off) = BitVec.ofNat 8 b := by
  obtain ⟨hin, hplace⟩ := ho.entry_inside he hoff
  have hbytes : beBytes 1 b = [BitVec.ofNat 8 b] := by simp [beBytes]
  rw [hbytes]
  have hchange := ho.write_change (bs := [BitVec.ofNat 8 b]) le_rfl hin
  have hread := ho.readBytes_write (bs := [BitVec.ofNat 8 b]) ho.wf le_rfl hin
  simp only [List.length_singleton, hplace, Memory.readBytes_one] at hchange hread
  exact ⟨hchange.mono fun x hx => by omega, (List.cons.inj hread).1⟩

/-- The kind of an entry written. -/
theorem OverlayOpen.writeKind_spec (k' : EntryKind) :
    let t := overlayWrite (overlayHeapBase s + v) (beBytes 1 k'.code) s
    RamChange s t (InEntry s r v outline text) ∧ EntryStands t r used v k' outline text count := by
  have hspan := le_entrySpan outline text
  obtain ⟨hfits, -, hbody, hcount⟩ := entryStands_iff.1 he
  obtain ⟨hchange, hread⟩ := ho.writeByte_spec he (off := 0) (by omega) k'.code
  rw [Nat.add_zero, Nat.add_zero] at hchange hread
  refine ⟨hchange.mono fun x hx => ⟨by omega, by omega⟩, entryStands_iff.2 ⟨hfits, ?_, ?_, ?_⟩⟩ <;>
    rw [hchange.heapPlace_eq]
  · exact hread
  · exact (Memory.readBytes_congr fun x h1 h2 => hchange.outside x (by omega)).trans hbody
  · exact (hchange.outside _ (by omega)).trans hcount

/-- The count of an entry written. -/
theorem OverlayOpen.writeCountByte_spec {n : Nat} (hn : n ≤ 255) :
    let t := overlayWrite (overlayHeapBase s + v + countPlace s v) (beBytes 1 n) s
    RamChange s t (InEntry s r v outline text) ∧ EntryStands t r used v k outline text n := by
  have hspan := le_entrySpan outline text
  obtain ⟨⟨h1, h8, h120, -, hused⟩, hkind, hbody, -⟩ := entryStands_iff.1 he
  rw [ho.countPlace_eq he]
  obtain ⟨hchange, hread⟩ := ho.writeByte_spec he (off := 3 + 3 * outline.length + text.length) (by omega) n
  refine ⟨hchange.mono fun x hx => ⟨by omega, by omega⟩, entryStands_iff.2 ⟨⟨h1, h8, h120, hn, hused⟩, ?_, ?_, ?_⟩⟩ <;>
    rw [hchange.heapPlace_eq]
  · exact (hchange.outside _ (by omega)).trans hkind
  · exact (Memory.readBytes_congr fun x h1 h2 => hchange.outside x (by omega)).trans hbody
  · exact hread

/-- The count of an entry written, with the kind that follows from it (R93). -/
theorem OverlayOpen.writeCount_spec {n : Nat} (hn : n ≤ 255) :
    RamChange s (writeCount v n s) (InEntry s r v outline text) ∧
      EntryStands (writeCount v n s) r used v (kindFor (decide (k ≠ .cont)) n) outline text n := by
  obtain ⟨hcount, hecount⟩ := ho.writeCountByte_spec he hn
  obtain ⟨hkind, hekind⟩ :=
    (hcount.opened ho).writeKind_spec hecount (kindFor (decide (k ≠ .cont)) n)
  rw [← ho.entryHasText_eq he] at hkind hekind ⊢
  rw [hcount.inEntry_eq] at hkind
  exact ⟨(hcount.trans hkind).mono fun x => or_self_iff.1, hekind⟩

end

/-! ### Slots (R90, R94) -/

/-- A search that finds an entry has found it by a slot of the array that holds its offset. -/
theorem findFrom_entry {s : State} {outline : List KeySet} {taken : List Nat} {n i j w : Nat}
    {free : Option Nat} (hi : i < overlaySlots s) (h : findFrom s outline taken n i free = .entry j w) :
    j < overlaySlots s ∧ slotValue s j = w ∧ w ≠ emptySlot ∧ w ≠ deletedSlot := by
  induction n generalizing i free with
  | zero => cases h
  | succ n ih =>
    have hnext : nextSlot (overlaySlots s) i < overlaySlots s := Nat.mod_lt _ (by omega)
    unfold findFrom at h
    dsimp only at h
    split at h
    · exact ih hnext h
    · split at h
      · cases h
      · split at h
        · exact ih hnext h
        · split at h
          · cases h; exact ⟨hi, rfl, ‹_›, ‹_›⟩
          · exact ih hnext h

section
variable {s : State} {r : Region} {used i : Nat} (ho : OverlayOpen s r used)
include ho

theorem OverlayOpen.slotValue_eq (hi : i < 2 ^ s.settings.overlayLog2) : slotValue s i = slotHolds s r i := by
  have hroom := ho.room
  rw [slotValue, ho.field_eq (by omega) (by omega), slotHolds, fieldAt_readBytes _ _ _ (by omega)]
  unfold slotPlace; rw [Nat.add_assoc r.base, Nat.add_zero]

/-- A slot that takes the deleted value (R97). -/
theorem OverlayOpen.freeSlot_spec (hi : i < 2 ^ s.settings.overlayLog2) (c : OverlayCounts) :
    RamChange s (freeSlot i (c, s)).2 (InSlot r i) ∧ slotHolds (freeSlot i (c, s)).2 r i = 0xFFFFFFFE := by
  have hroom := ho.room
  have hlength : (beBytes 4 deletedSlot).length = 4 := beBytes_length _ _
  have hplace : r.base + (16 + 4 * i) = slotPlace r i := by unfold slotPlace; omega
  have hchange := ho.write_change (off := 16 + 4 * i) (bs := beBytes 4 deletedSlot) (by omega) (by omega)
  have hread := ho.readBytes_write (off := 16 + 4 * i) (bs := beBytes 4 deletedSlot) ho.wf (by omega) (by omega)
  rw [hplace, hlength] at hchange hread
  refine ⟨hchange, ?_⟩
  unfold slotHolds freeSlot writeSlotValue
  rw [hread, ← List.nil_append (beBytes _ _), ← List.append_nil ([] ++ _)]
  exact fieldAt_beBytes rfl (by decide)

theorem OverlayOpen.found_slot {outline : List KeySet} {taken : List Nat} {j w : Nat}
    (h : findOutline s outline taken = .entry j w) :
    j < 2 ^ s.settings.overlayLog2 ∧ slotHolds s r j = w ∧ w < 0xFFFFFFFE := by
  obtain ⟨hj, hw, hempty, hdeleted⟩ := findFrom_entry (Nat.mod_lt _ (Nat.two_pow_pos _)) h
  rw [ho.slotValue_eq hj] at hw
  have hlt : slotHolds s r j < 256 ^ 4 := fieldAt_lt _ _ _
  unfold emptySlot at hempty
  unfold deletedSlot at hdeleted
  exact ⟨hj, hw, by omega⟩

end

end Sys2Proof.Machine
end

section
/-! PROOFS. A delete in the overlay, write by write: the outline's own slot or kind, the counts of its prefixes with
their kinds and slots, and the header around them (R92, R93, R97). -/

namespace Sys2Proof.Machine

/-! ### Where an outline stands (R93, R94) -/

/-- The search finds an outline by this slot at this heap offset, and its entry stands there. -/
def StoredAs (s : State) (r : Region) (used : Nat) (outline : List KeySet) (j w : Nat) (k : EntryKind)
    (text : List Byte) (count : Nat) : Prop :=
  findOutline s outline [] = .entry j w ∧ EntryStands s r used w k outline text count

/-- The addresses of the slot and the entry of an outline that is found. -/
def OutlinePlace (s : State) (r : Region) (used : Nat) (outline : List KeySet) (x : Nat) : Prop :=
  ∃ j w k text count, StoredAs s r used outline j w k text count ∧ (InSlot r j x ∨ InEntry s r w outline text x)

section
variable {s : State} {r : Region} {used : Nat} {p q : List KeySet} {j w c : Nat} {k : EntryKind} {text : List Byte}

theorem StoredAs.unique {j' w' c' : Nat} {k' : EntryKind} {text' : List Byte}
    (h : StoredAs s r used p j w k text c) (h' : StoredAs s r used p j' w' k' text' c') :
    j = j' ∧ w = w' ∧ k = k' ∧ text = text' ∧ c = c' := by
  obtain ⟨rfl, rfl⟩ := Found.entry.inj (h.1.symm.trans h'.1)
  obtain ⟨hk, -, htext, hc⟩ := h.2.unique h'.2
  exact ⟨rfl, rfl, hk, htext, hc⟩

theorem StoredAs.place_iff (h : StoredAs s r used p j w k text c) (x : Nat) :
    OutlinePlace s r used p x ↔ InSlot r j x ∨ InEntry s r w p text x := by
  refine ⟨fun ⟨j', w', k', text', c', h', hx⟩ => ?_, fun hx => ⟨j, w, k, text, c, h, hx⟩⟩
  obtain ⟨rfl, rfl, -, rfl, -⟩ := h.unique h'
  exact hx

/-- The slot array lies before the heap. -/
theorem InSlot.not_inEntry {x : Nat} (hj : j < 2 ^ s.settings.overlayLog2) (h : InSlot r j x) :
    ¬ InEntry s r w p text x := by
  unfold InSlot slotPlace at h
  unfold InEntry heapPlace
  omega

theorem OutlinePlace.behind_header {x : Nat} (h : OutlinePlace s r used p x) : r.base + 16 ≤ x := by
  obtain ⟨j, w, k, text, c, -, hx⟩ := h
  unfold InSlot InEntry slotPlace heapPlace at hx
  omega

/-- Two outlines share no address of the overlay: they stand in two slots, and the entries of two slots are apart. -/
theorem OutlinePlace.apart (ho : OverlayOpen s r used) (hh : HeapSound s r used) (hne : p ≠ q) {x : Nat}
    (hp : OutlinePlace s r used p x) : ¬ OutlinePlace s r used q x := by
  rintro ⟨j, w, k, text, c, ⟨hfound, he⟩, hx⟩
  obtain ⟨i, v, k', text', c', ⟨hfound', he'⟩, hx'⟩ := hp
  obtain ⟨hj, hslot, hw⟩ := ho.found_slot hfound
  obtain ⟨hi, hslot', hv⟩ := ho.found_slot hfound'
  have hij : i ≠ j := by
    rintro rfl
    obtain rfl : v = w := hslot'.symm.trans hslot
    exact hne (he'.unique he).2.1
  rcases hx with hx | hx <;> rcases hx' with hx' | hx'
  · unfold InSlot slotPlace at hx hx'; omega
  · exact hx.not_inEntry hj hx'
  · exact hx'.not_inEntry hi hx
  · have hapart := hh.2 i j ⟨hi, by omega⟩ ⟨hj, by omega⟩ hij k' p text' c' k q text c
      (by rwa [hslot']) (by rwa [hslot])
    unfold InEntry heapPlace at hx hx'
    omega

end

/-- The proper prefixes of an outline are shorter than it, and no two are the same. -/
theorem length_lt_of_mem_properPrefixes {outline p : List KeySet} (h : p ∈ properPrefixes outline) :
    p.length < outline.length := by
  obtain ⟨n, hn, rfl⟩ := List.mem_map.1 h
  have hn := List.mem_range.1 hn
  rw [List.length_take]; omega

theorem properPrefixes_nodup (outline : List KeySet) : (properPrefixes outline).Nodup := by
  refine List.Nodup.of_map List.length ?_
  have hlengths : (properPrefixes outline).map List.length = (List.range (outline.length - 1)).map (· + 1) := by
    unfold properPrefixes
    rw [List.map_map]
    refine List.map_congr_left fun n hn => ?_
    have hn := List.mem_range.1 hn
    rw [Function.comp_apply, List.length_take]; omega
  rw [hlengths]
  exact List.nodup_range.map fun a b h => Nat.succ.inj h

/-! ### The outline's own entry (R97 step 1) -/

/-- An outline deleted: its slot freed, or with longer outlines left its entry CONT. -/
def TakenOut (t : State) (r : Region) (used : Nat) (outline : List KeySet) (i v : Nat) (text : List Byte)
    (count : Nat) : Prop :=
  (count = 0 → slotHolds t r i = 0xFFFFFFFE) ∧
    (1 ≤ count → slotHolds t r i = v ∧ EntryStands t r used v .cont outline text count)

/-- The first write of a delete between the header's two. -/
def takeOut (slot v : Nat) (x : OverlayCounts × State) : OverlayCounts × State :=
  if prefixCount x.2 v = 0 then freeSlot slot x
  else (x.1, overlayWrite (overlayHeapBase x.2 + v) (beBytes 1 EntryKind.cont.code) x.2)

theorem writeDelete_eq (outline : List KeySet) (slot v : Nat) (s : State) :
    writeDelete outline slot v s =
      let x := ((properPrefixes outline).map fun p => findOutline s p []).foldl (fun x p => lowerPrefix p x)
        (takeOut slot v (readCounts s, writeHeader (readCounts s) false s))
      writeHeader x.1 true x.2 := rfl

/-- The counts once n slots have been freed (R97). -/
def OverlayCounts.freed (c : OverlayCounts) (n : Nat) : OverlayCounts :=
  { c with live := c.live - n, deleted := c.deleted + n }

section
variable {s t : State} {P : Nat → Prop} {r : Region} {used : Nat} {outline : List KeySet} {i v count : Nat}
  {k : EntryKind} {text : List Byte}

theorem RamChange.takenOut (h : RamChange s t P) (hp : ∀ x, InSlot r i x ∨ InEntry s r v outline text x → ¬ P x)
    (hs : TakenOut s r used outline i v text count) : TakenOut t r used outline i v text count := by
  obtain ⟨hfreed, hcont⟩ := hs
  have hslot := h.slotHolds_eq fun x hx => hp x (.inl hx)
  exact ⟨fun hc => hslot.trans (hfreed hc), fun hc =>
    ⟨hslot.trans (hcont hc).1, h.entryStands (fun x hx => hp x (.inr hx)) (hcont hc).2⟩⟩

theorem OverlayOpen.takeOut_spec (ho : OverlayOpen s r used) (he : EntryStands s r used v k outline text count)
    (hi : i < 2 ^ s.settings.overlayLog2) (hv : slotHolds s r i = v) (c : OverlayCounts) :
    RamChange s (takeOut i v (c, s)).2 (fun x => InSlot r i x ∨ InEntry s r v outline text x) ∧
      TakenOut (takeOut i v (c, s)).2 r used outline i v text count ∧
      (takeOut i v (c, s)).1 = c.freed (if count = 0 then 1 else 0) := by
  unfold takeOut; dsimp only
  rw [ho.prefixCount_eq he]
  by_cases hcount : count = 0
  · obtain ⟨hchange, hslot⟩ := ho.freeSlot_spec hi c
    rw [if_pos hcount, if_pos hcount]
    exact ⟨hchange.mono fun x => .inl, ⟨fun _ => hslot, fun _ => by omega⟩, rfl⟩
  · obtain ⟨hchange, hentry⟩ := ho.writeKind_spec he .cont
    rw [if_neg hcount, if_neg hcount]
    refine ⟨hchange.mono fun x => .inr, ⟨fun h => absurd h hcount, fun _ => ⟨?_, hentry⟩⟩, rfl⟩
    exact (hchange.slotHolds_eq fun x hx => hx.not_inEntry hi).trans hv

/-! ### One of its prefixes (R97 step 2) -/

/-- The count of a shorter outline has gone down by one, its kind following; left at 0 without text it gives up its
slot. -/
def Lowered (t : State) (r : Region) (used : Nat) (p : List KeySet) (j w : Nat) (k : EntryKind) (text : List Byte)
    (c : Nat) : Prop :=
  (c = 1 → k = .cont → slotHolds t r j = 0xFFFFFFFE) ∧
    (2 ≤ c ∨ k ≠ .cont → slotHolds t r j = w ∧
      EntryStands t r used w (if k = .cont then .cont else if c = 1 then .word else .wordCont) p text (c - 1))

theorem RamChange.lowered {j w c : Nat} {p : List KeySet} (h : RamChange s t P)
    (hp : ∀ x, InSlot r j x ∨ InEntry s r w p text x → ¬ P x) (hs : Lowered s r used p j w k text c) :
    Lowered t r used p j w k text c := by
  obtain ⟨hfreed, hkept⟩ := hs
  have hslot := h.slotHolds_eq fun x hx => hp x (.inl hx)
  exact ⟨fun hc hk => hslot.trans (hfreed hc hk), fun hc =>
    ⟨hslot.trans (hkept hc).1, h.entryStands (fun x hx => hp x (.inr hx)) (hkept hc).2⟩⟩

/-- The kind that follows from one longer outline less (R93). -/
theorem kindFor_pred (k : EntryKind) {c : Nat} (hc : 1 ≤ c) :
    kindFor (decide (k ≠ .cont)) (c - 1) =
      if k = .cont then .cont else if c = 1 then .word else .wordCont := by
  have hone : c - 1 = 0 ↔ c = 1 := by omega
  unfold kindFor
  by_cases hk : k = .cont <;> simp [hk, hone]

theorem OverlayOpen.lowerPrefix_spec {j w c : Nat} {p : List KeySet} (ho : OverlayOpen s r used)
    (he : EntryStands s r used w k p text c) (hj : j < 2 ^ s.settings.overlayLog2) (hw : slotHolds s r j = w)
    (hc : 1 ≤ c) (counts : OverlayCounts) :
    let x := lowerPrefix (.entry j w) (counts, s)
    RamChange s x.2 (fun x => InSlot r j x ∨ InEntry s r w p text x) ∧ Lowered x.2 r used p j w k text c ∧
      x.1 = counts.freed (if c = 1 ∧ k = .cont then 1 else 0) := by
  obtain ⟨-, -, -, h255, -⟩ := id he
  obtain ⟨hchange, hentry⟩ := ho.writeCount_spec he (n := c - 1) (by omega)
  rw [kindFor_pred k hc] at hentry
  have hfrees : (c - 1 = 0 ∧ ¬ decide (k ≠ .cont) = true) ↔ (c = 1 ∧ k = .cont) :=
    and_congr (by omega) (by simp)
  dsimp only [lowerPrefix]
  rw [ho.prefixCount_eq he, ho.entryHasText_eq he]
  by_cases hfree : c = 1 ∧ k = .cont
  · rw [if_pos (hfrees.2 hfree), if_pos hfree]
    obtain ⟨hslot, hfreed⟩ := (hchange.opened ho).freeSlot_spec (by rwa [hchange.settings]) counts
    refine ⟨(hchange.trans hslot).mono fun x => Or.symm, ⟨fun _ _ => hfreed, fun hkept => ?_⟩, rfl⟩
    exact absurd hfree.2 (hkept.resolve_left (by omega))
  · rw [if_neg (mt hfrees.1 hfree), if_neg hfree]
    refine ⟨hchange.mono fun x => .inr, ⟨fun h1 hk => absurd ⟨h1, hk⟩ hfree, fun _ => ⟨?_, hentry⟩⟩, rfl⟩
    exact (hchange.slotHolds_eq fun x hx => hx.not_inEntry hj).trans hw

end

/-! ### All prefixes -/

/-- A shorter outline gives up its slot in a delete: its count is 1, and it has no text. -/
def freesSlot (s : State) (p : List KeySet) : Bool :=
  match findOutline s p [] with
  | .entry _ w => prefixCount s w == 1 && !entryHasText s w
  | .absent _ => false

section
variable {s : State} {r : Region} {used : Nat}

theorem StoredAs.freesSlot_eq {p : List KeySet} {j w c : Nat} {k : EntryKind} {text : List Byte}
    (h : StoredAs s r used p j w k text c) (ho : OverlayOpen s r used) :
    freesSlot s p = decide (c = 1 ∧ k = .cont) := by
  obtain ⟨hfound, he⟩ := h
  unfold freesSlot
  rw [hfound]; dsimp only
  rw [ho.prefixCount_eq he, ho.entryHasText_eq he, Bool.decide_and, decide_not, Bool.not_not]
  rfl

theorem OverlayCounts.freed_freed (c : OverlayCounts) (m n : Nat) : (c.freed m).freed n = c.freed (m + n) := by
  simp [OverlayCounts.freed, Nat.sub_sub, Nat.add_assoc]

/-- Prefixes found in s and lowered one behind another, from a state that differs from s at other places only. -/
theorem OverlayOpen.lowerPrefixes_spec (ho : OverlayOpen s r used) (hh : HeapSound s r used) :
    ∀ (ps : List (List KeySet)), ps.Nodup →
      (∀ p ∈ ps, ∃ j w k text c, StoredAs s r used p j w k text c ∧ 1 ≤ c) →
      ∀ (P : Nat → Prop) (u : State) (counts : OverlayCounts), RamChange s u P →
        (∀ p ∈ ps, ∀ x, OutlinePlace s r used p x → ¬ P x) →
        let y := (ps.map fun p => findOutline s p []).foldl (fun x p => lowerPrefix p x) (counts, u)
        RamChange u y.2 (fun x => ∃ p ∈ ps, OutlinePlace s r used p x) ∧
          y.1 = counts.freed (ps.countP (freesSlot s)) ∧
          ∀ p ∈ ps, ∀ j w k text c, StoredAs s r used p j w k text c → Lowered y.2 r used p j w k text c := by
  intro ps
  induction ps with
  | nil => exact fun _ _ _ u _ _ _ => ⟨.refl u _, rfl, nofun⟩
  | cons p ps ih =>
    intro hnodup hstored P u counts hu hP
    obtain ⟨hnotin, hnodup⟩ := List.nodup_cons.1 hnodup
    obtain ⟨hp, hps⟩ := List.forall_mem_cons.1 hstored
    obtain ⟨hPp, hPps⟩ := List.forall_mem_cons.1 hP
    obtain ⟨j, w, k, text, c, hat, hc⟩ := hp
    have hplace := hat.place_iff
    obtain ⟨hj, hw, -⟩ := ho.found_slot hat.1
    have hentry := hu.entryStands (fun x hx => hPp x ((hplace x).2 (.inr hx))) hat.2
    have hslot := (hu.slotHolds_eq fun x hx => hPp x ((hplace x).2 (.inl hx))).trans hw
    obtain ⟨hstep, hlowered, hcounts⟩ :=
      (hu.opened ho).lowerPrefix_spec hentry (by rwa [hu.settings]) hslot hc counts
    rw [hu.inEntry_eq] at hstep
    have hstep := hstep.mono fun x => (hplace x).2
    obtain ⟨hrest, hrestCounts, hrestLowered⟩ := ih hnodup hps _ _
      (lowerPrefix (.entry j w) (counts, u)).1 (hu.trans hstep) fun q hq x hx => by
        rintro (hxP | hxp)
        · exact hPps q hq x hx hxP
        · exact hxp.apart ho hh (ne_of_mem_of_not_mem hq hnotin).symm hx
    rw [List.map_cons, List.foldl_cons, hat.1]
    refine ⟨(hstep.trans hrest).mono fun x hx => ?_, ?_, ?_⟩
    · rcases hx with hx | ⟨q, hq, hx⟩
      · exact ⟨p, List.mem_cons_self, hx⟩
      · exact ⟨q, List.mem_cons_of_mem p hq, hx⟩
    · rw [hrestCounts, hcounts, OverlayCounts.freed_freed, List.countP_cons, hat.freesSlot_eq ho, Nat.add_comm]
      simp only [decide_eq_true_eq]
    · refine List.forall_mem_cons.2 ⟨fun j' w' k' text' c' hat' => ?_, hrestLowered⟩
      obtain ⟨rfl, rfl, rfl, rfl, rfl⟩ := hat.unique hat'
      refine hrest.lowered (fun x hx => ?_) hlowered
      rw [hstep.inEntry_eq, hu.inEntry_eq, ← hplace] at hx
      rintro ⟨q, hq, hxq⟩
      exact hxq.apart ho hh (ne_of_mem_of_not_mem hq hnotin) hx

end

/-! ### The delete (R92, R97) -/

section
variable {s : State} {r : Region} {used live deleted i v count : Nat} {outline : List KeySet} {k : EntryKind}
  {text : List Byte}

/-- Where the RAM alone has changed, the overlay stands with the counts that its header gives. -/
theorem OverlayStands.of_header {t : State} {P : Nat → Prop} {used' live' deleted' : Nat}
    (hs : OverlayStands s r used live deleted) (h : RamChange s t P)
    (hheader : OverlayHeaderIs t.settings (Memory.readBytes t.port.ramMem r.base 16) used' live' deleted') :
    OverlayStands t r used' live' deleted' := by
  have ho := h.opened hs.opened
  obtain ⟨-, -, -, hlow, -, hheap, -⟩ := hs
  exact ⟨ho.region, ho.device, ho.allowed, h.settings ▸ hlow, ho.log, h.settings ▸ hheap, ho.room, ho.wf, hheader⟩

/-- The slots that a delete gives up: the outline's own where no longer outline is left, and those of prefixes. -/
def slotsFreed (s : State) (outline : List KeySet) (count : Nat) : Nat :=
  (if count = 0 then 1 else 0) + (properPrefixes outline).countP (freesSlot s)

/-- The whole delete, from the header with its CRC inverted to the header with the new counts. -/
theorem writeDelete_spec (hs : OverlayStands s r used live deleted) (hh : HeapSound s r used)
    (hown : StoredAs s r used outline i v k text count)
    (hprefixes : ∀ p ∈ properPrefixes outline, ∃ j w kp tp cp, StoredAs s r used p j w kp tp cp ∧ 1 ≤ cp)
    (hfreed : slotsFreed s outline count ≤ live) :
    let t := writeDelete outline i v s
    RamChange s t (fun x => (r.base ≤ x ∧ x < r.base + 16) ∨ OutlinePlace s r used outline x ∨
        ∃ p ∈ properPrefixes outline, OutlinePlace s r used p x) ∧
      OverlayStands t r used (live - slotsFreed s outline count) (deleted + slotsFreed s outline count) ∧
      TakenOut t r used outline i v text count ∧
      ∀ p ∈ properPrefixes outline, ∀ j w kp tp cp, StoredAs s r used p j w kp tp cp →
        Lowered t r used p j w kp tp cp := by
  have ho := hs.opened
  have hsize : 16 ≤ r.size := by have := ho.room; omega
  obtain ⟨-, -, -, -, hlog, hheap, -, -, ⟨-, -, hused, hcounts⟩, h4, h8, h10⟩ := id hs
  have hread : readCounts s = ⟨used, live, deleted⟩ := by
    rw [ho.readCounts_eq hsize, ← h4, ← h8, ← h10]
  have hplace := hown.place_iff
  obtain ⟨hi, hv, -⟩ := ho.found_slot hown.1
  have hne : ∀ p ∈ properPrefixes outline, p ≠ outline := fun p hp h =>
    (length_lt_of_mem_properPrefixes hp).ne (congrArg List.length h)
  rw [writeDelete_eq, hread]
  -- the header with its CRC inverted
  have hfirst := ho.header_change hsize ⟨used, live, deleted⟩ false
  generalize writeHeader ⟨used, live, deleted⟩ false s = s₁ at hfirst ⊢
  have hentry := hfirst.entryStands (fun x hx => by
    have := OutlinePlace.behind_header ((hplace x).2 (.inr hx)); omega) hown.2
  have hslot := (hfirst.slotHolds_eq fun x hx => by
    have := OutlinePlace.behind_header ((hplace x).2 (.inl hx)); omega).trans hv
  -- the outline's own slot or kind
  obtain ⟨hout, htaken, hcounts₂⟩ := (hfirst.opened ho).takeOut_spec hentry (by rwa [hfirst.settings]) hslot
    ⟨used, live, deleted⟩
  rw [hfirst.inEntry_eq] at hout
  have hout := hout.mono fun x => (hplace x).2
  generalize takeOut i v (⟨used, live, deleted⟩, s₁) = x₂ at hout htaken hcounts₂ ⊢
  obtain ⟨c₂, s₂⟩ := x₂
  -- the prefixes
  obtain ⟨hlower, hcounts₃, hlowered⟩ := ho.lowerPrefixes_spec hh _ (properPrefixes_nodup outline) hprefixes _ s₂ c₂
    (hfirst.trans hout) fun p hp x hx => by
      rintro (hxh | hxo)
      · have := hx.behind_header; omega
      · exact hx.apart ho hh (hne p hp) hxo
  generalize ((properPrefixes outline).map _).foldl _ (c₂, s₂) = x₃ at hlower hcounts₃ hlowered ⊢
  obtain ⟨c₃, s₃⟩ := x₃
  -- the header with the new counts
  have hbefore := (hfirst.trans hout).trans hlower
  have ho₃ := hbefore.opened ho
  have hlast := ho₃.header_change hsize c₃ true
  have hheader := ho₃.readBytes_header hsize ho₃.wf c₃ true
  obtain rfl : c₃ = OverlayCounts.freed ⟨used, live, deleted⟩ (slotsFreed s outline count) := by
    rw [slotsFreed, ← OverlayCounts.freed_freed, ← hcounts₂]; exact hcounts₃
  have hall := hbefore.trans hlast
  refine ⟨hall.mono fun x hx => ?_, ?_, ?_, fun p hp j w kp tp cp hat => ?_⟩
  · rcases hx with ((hx | hx) | hx) | hx
    exacts [.inl hx, .inr (.inl hx), .inr (.inr hx), .inl hx]
  · refine hs.of_header hall ?_
    dsimp only
    rw [hheader, hall.settings, hbefore.settings]
    exact headerBytes_is hlog (by dsimp only [OverlayCounts.freed]; omega) (by dsimp only [OverlayCounts.freed]; omega)
      (by dsimp only [OverlayCounts.freed]; omega)
  · refine hlast.takenOut (fun x hx => ?_) (hlower.takenOut (fun x hx => ?_) htaken)
    · rw [hbefore.inEntry_eq, ← hplace] at hx
      have := hx.behind_header; omega
    · rw [(hfirst.trans hout).inEntry_eq, ← hplace] at hx
      rintro ⟨p, hp, hxp⟩
      exact hxp.apart ho hh (hne p hp) hx
  · refine hlast.lowered (fun x hx => ?_) (hlowered p hp j w kp tp cp hat)
    rw [hbefore.inEntry_eq, ← hat.place_iff] at hx
    have := hx.behind_header; omega

end

end Sys2Proof.Machine
end

section
/-! PROOFS. DEFINE_RECEIVED: the checks of a peer's definition in their order, and a delete applied at once (R97 to R99,
R148). -/

namespace Sys2Proof.Machine

/-! ### A DEFINE payload read back (R99, spec/12) -/

theorem fieldAt_append_left {bs rest : List Byte} {off n : Nat} (h : off + n ≤ bs.length) :
    fieldAt (bs ++ rest) off n = fieldAt bs off n := by
  unfold fieldAt
  rw [List.drop_append_of_le_length (by omega), List.take_append_of_le_length (by rw [List.length_drop]; omega)]

theorem rawKeys_append_left {bs rest : List Byte} {off n : Nat} (h : off + 3 * n ≤ bs.length) :
    rawKeys (bs ++ rest) off n = rawKeys bs off n :=
  List.map_congr_left fun i hi => fieldAt_append_left (by have := List.mem_range.1 hi; omega)

/-- The payload of a definition within the bounds of R99 says its outline and text. -/
theorem parseDefine_definePayload {outline : List KeySet} {text : List Byte} (h1 : 1 ≤ outline.length)
    (h8 : outline.length ≤ 8) (hkeys : ∀ k ∈ outline, k ≠ 0) (h120 : text.length ≤ 120)
    (htext : ∀ b ∈ text, definable b = true) : parseDefine (definePayload outline text) = some (outline, text) := by
  have hflat : (outline.flatMap fun k => beBytes 3 k.toNat).length = 3 * outline.length :=
    flatMap_beBytes_length 3 outline
  have hcount : fieldAt (definePayload outline text) 0 1 = outline.length := by
    unfold definePayload
    rw [List.append_assoc, List.append_assoc, ← List.nil_append (beBytes 1 _)]
    exact fieldAt_beBytes rfl (by omega)
  have hraw : rawKeys (definePayload outline text) 1 outline.length = outline.map BitVec.toNat := by
    unfold definePayload
    rw [List.append_assoc, rawKeys_append_left (by simp [hflat])]
    exact rawKeys_stored (beBytes 1 outline.length) outline
  have hlength : fieldAt (definePayload outline text) (1 + 3 * outline.length) 1 = text.length :=
    fieldAt_beBytes (by simp [hflat]) (by omega)
  have hdrop : (definePayload outline text).drop (2 + 3 * outline.length) = text :=
    List.drop_left' (by simp [hflat]; omega)
  have hall : (definePayload outline text).length = 2 + 3 * outline.length + text.length := by
    unfold definePayload; simp [hflat]; omega
  have hback : (outline.map BitVec.toNat).map (BitVec.ofNat 23) = outline := by
    rw [List.map_map]
    exact List.map_id'' (fun k => by simp) outline
  unfold parseDefine
  simp only [hcount, hraw, hlength, hdrop, hall, hback]
  refine if_pos ⟨h1, h8, by omega, trivial, h120, ?_, List.all_eq_true.2 htext⟩
  simp only [List.all_eq_true, List.mem_map, Bool.and_eq_true, decide_eq_true_eq]
  rintro _ ⟨k, hk, rfl⟩
  exact ⟨Nat.pos_of_ne_zero fun h => hkeys k hk (BitVec.eq_of_toNat_eq h), k.isLt⟩

/-! ### The arrival, check by check (R99) -/

section
variable {s : State} {a : Station} {payload text : List Byte} {outline : List KeySet}

theorem defineArrived_disabled (h : (s.peers.record a).definitionsEnabled = false) : defineArrived a payload s = s := by
  unfold defineArrived; rw [h]; rfl

theorem defineArrived_malformed (h : (s.peers.record a).definitionsEnabled = true)
    (hp : parseDefine payload = none) :
    defineArrived a payload s = setFlag .peerDefBad (disableDefinitions a s) := by
  unfold defineArrived; rw [h, hp]; rfl

/-- What a definition read from a well-formed frame meets. -/
theorem defineArrived_parsed (h : (s.peers.record a).definitionsEnabled = true)
    (hp : parseDefine payload = some (outline, text)) :
    defineArrived a payload s =
      if s.seq.ramFit = false then setFlag .overlayFull s
      else if s.lookup.search ≠ none ∨ s.inbox ≠ [] then
        if s.inbox.length < 4 then { s with inbox := s.inbox ++ [⟨a, outline, text⟩] } else setFlag .overlayFull s
      else applyPeer ⟨a, outline, text⟩ s := by
  have hbusy : (s.lookup.search.isSome || !s.inbox.isEmpty) = true ↔ s.lookup.search ≠ none ∨ s.inbox ≠ [] := by
    simp [Option.isSome_iff_ne_none]
  unfold defineArrived
  simp only [h, hp, hbusy, Bool.not_eq_true', Bool.true_eq_false, if_false]

section
variable (h : (s.peers.record a).definitionsEnabled = true) (hp : parseDefine payload = some (outline, text))
include h hp

theorem defineArrived_withoutRam (hram : s.seq.ramFit = false) :
    defineArrived a payload s = setFlag .overlayFull s := by
  rw [defineArrived_parsed h hp, if_pos hram]

theorem defineArrived_waits (hram : s.seq.ramFit = true) (hbusy : s.lookup.search ≠ none ∨ s.inbox ≠ [])
    (hroom : s.inbox.length < 4) :
    defineArrived a payload s = { s with inbox := s.inbox ++ [⟨a, outline, text⟩] } := by
  rw [defineArrived_parsed h hp, if_neg (by rw [hram]; nofun), if_pos hbusy, if_pos hroom]

theorem defineArrived_dropped (hram : s.seq.ramFit = true) (hbusy : s.lookup.search ≠ none ∨ s.inbox ≠ [])
    (hfull : 4 ≤ s.inbox.length) : defineArrived a payload s = setFlag .overlayFull s := by
  rw [defineArrived_parsed h hp, if_neg (by rw [hram]; nofun), if_pos hbusy, if_neg hfull.not_gt]

theorem defineArrived_applied (hram : s.seq.ramFit = true) (hidle : ¬ (s.lookup.search ≠ none ∨ s.inbox ≠ [])) :
    defineArrived a payload s = applyPeer ⟨a, outline, text⟩ s := by
  rw [defineArrived_parsed h hp, if_neg (by rw [hram]; nofun), if_neg hidle]

end

/-- The status unit after a flag is set depends on the phase and the status unit only. -/
theorem setFlag_status_congr {s t : State} (f : Flag) (hseq : t.seq = s.seq) (hstatus : t.status = s.status) :
    (setFlag f t).status = (setFlag f s).status := by
  unfold setFlag requestPattern
  simp only [hseq, hstatus]
  repeat' split
  all_goals rfl

theorem PeerUnit.record_set_same {u : PeerUnit} (h : u.table.length = 16) (p : Peer) :
    ({ u with table := u.table.set a.toNat p } : PeerUnit).record a = p := by
  have ha : a.toNat < 16 := a.isLt
  simp [PeerUnit.record, List.getD_eq_getElem?_getD, h, ha]

theorem PeerUnit.record_set_ne (u : PeerUnit) (p : Peer) {b : Station} (h : b ≠ a) :
    ({ u with table := u.table.set a.toNat p } : PeerUnit).record b = u.record b := by
  have hne : a.toNat ≠ b.toNat := fun heq => h (BitVec.eq_of_toNat_eq heq.symm)
  simp [PeerUnit.record, List.getD_eq_getElem?_getD, List.getElem?_set_ne hne]

theorem OverlayAct.outsideFrame {t : State} (h : OverlayAct s t) : OutsideFrame s t :=
  ⟨h.core.seq, h.core.settings, h.core.scanner, h.core.strokes, h.lookup, h.core.flashMem, h.core.regions,
    h.core.pending, h.core.freeCount, h.sequence, h.work, h.capture, h.resolveTimer⟩

/-- Whatever becomes of it, a DEFINE touches the peer table, the inbox, the overlay and what follows from them only. -/
theorem defineArrived_outside (a : Station) (payload : List Byte) (s : State) :
    OutsideFrame s (defineArrived a payload s) := by
  cases henabled : (s.peers.record a).definitionsEnabled with
  | false => rw [defineArrived_disabled henabled]; exact (OverlayAct.refl s).outsideFrame
  | true =>
    cases hparse : parseDefine payload with
    | none =>
      rw [defineArrived_malformed henabled hparse]
      exact (setFlag_act .peerDefBad (disableDefinitions a s)).toRelease.toOverlay.outsideFrame
    | some d =>
      obtain ⟨outline, text⟩ := d
      have hflag := (setFlag_act .overlayFull s).toRelease.toOverlay.outsideFrame
      rw [defineArrived_parsed henabled hparse]
      repeat' split
      · exact hflag
      · exact (OverlayAct.refl s).outsideFrame
      · exact hflag
      · exact (applyPeer_act _ s).outsideFrame

end

/-- An accepted DEFINE arrives at the overlay manager once the follower has gone to WAIT_IDLE. -/
theorem exec_defineReceived {s : State} {f : LineFrame} {a : Station} {payload : List Byte}
    (h : Accepts s f a (.define payload)) :
    exec (.defineReceived f) s = .next (defineArrived a payload (frameEnded f s)) :=
  congrArg Host.Outcome.next (receive_accepted takeDefine h)

/-! ### A delete applied at once (R97, R98) -/

section
variable {s : State} {outline : List KeySet} {a : Station} {f : LineFrame}

theorem findOutline_frameEnded (taken : List Nat) :
    findOutline (frameEnded f s) outline taken = findOutline s outline taken :=
  findOutline_congr (s := s) (t := frameEnded f s) rfl rfl outline taken

theorem DefineApplies.arrives {text : List Byte} (h : DefineApplies s f a outline text) :
    exec (.defineReceived f) s = .next (applyPeer ⟨a, outline, text⟩ (frameEnded f s)) := by
  obtain ⟨haccepts, henabled, hram, hsearch, hinbox, h1, h8, hkeys, h120, htext⟩ := h
  have hparse := parseDefine_definePayload h1 h8 hkeys h120 htext
  rw [exec_defineReceived haccepts, defineArrived_applied (s := frameEnded f s) henabled hparse hram]
  rw [frameEnded_lookup, frameEnded_inbox, hsearch, hinbox]
  exact fun hbusy => hbusy.elim (· rfl) (· rfl)

end

/-- What a delete of a text makes of the overlay, the notes and the translator: t is the part behind it. -/
def DeleteMade (s t : State) (r : Region) (used live deleted : Nat) (outline : List KeySet) (i v : Nat)
    (text : List Byte) (count : Nat) (a : Station) : Prop :=
  OverlayStands t r used (live - slotsFreed s outline count) (deleted + slotsFreed s outline count) ∧
    TakenOut t r used outline i v text count ∧
    (∀ p ∈ properPrefixes outline, ∀ j w kp tp cp, StoredAs s r used p j w kp tp cp →
      Lowered t r used p j w kp tp cp) ∧
    (∀ x, ¬ (r.base ≤ x ∧ x < r.base + 16) → ¬ InSlot r i x → ¬ InEntry s r v outline text x →
      (∀ p ∈ properPrefixes outline, ∀ j w kp tp cp, StoredAs s r used p j w kp tp cp →
        ¬ InSlot r j x ∧ ¬ InEntry s r w p tp x) →
      Memory.read t.port.ramMem x = Memory.read s.port.ramMem x) ∧
    Noted s t (.define false (outline.headD 0) (outlineHash outline) outline.length a) ∧
    t.translator = { s.translator with stale := true } ∧ OutsideFrame s t ∧
    (t.release, t.floor, t.peers, t.inbox) = (s.release, s.floor, s.peers, s.inbox)

/-- A delete says the same of a state and of that state once its follower has ended a frame. -/
theorem deleteMade_frameEnded {s t : State} {r : Region} {used live deleted i v count : Nat} {outline : List KeySet}
    {text : List Byte} {a : Station} (f : LineFrame)
    (h : DeleteMade (frameEnded f s) t r used live deleted outline i v text count a) :
    DeleteMade s t r used live deleted outline i v text count a := by
  unfold DeleteMade slotsFreed freesSlot StoredAs at h ⊢
  simp only [findOutline_frameEnded] at h
  exact h

section
variable {s : State} {r : Region} {used live deleted i v count : Nat} {outline : List KeySet} {k : EntryKind}
  {text : List Byte}

theorem deleteDefinition_absent (h : ∀ i v, findOutline s outline [] ≠ .entry i v) (a : Station) :
    deleteDefinition outline a s = s := by
  unfold deleteDefinition
  split
  · rfl
  · rename_i i v hfound; exact absurd hfound (h i v)

/-- A delete of an outline that is found acts where its entry holds text. -/
theorem deleteDefinition_found (ho : OverlayOpen s r used) (h : StoredAs s r used outline i v k text count)
    (a : Station) :
    deleteDefinition outline a s =
      if k = .cont then s
      else
        setStale (handNote (.define false (outline.headD 0) (outlineHash outline) outline.length a)
          (writeDelete outline i v s)) := by
  obtain ⟨hfound, he⟩ := h
  unfold deleteDefinition
  rw [hfound]; dsimp only
  rw [ho.entryHasText_eq he]
  simp only [decide_not, Bool.not_eq_true', decide_eq_false_iff_not, ite_not]

/-- The note and the stale mark behind a delete change nothing that stands in the overlay. -/
theorem deleteDefinition_spec (hs : OverlayStands s r used live deleted) (hh : HeapSound s r used)
    (hown : StoredAs s r used outline i v k text count) (hk : k ≠ .cont)
    (hprefixes : ∀ p ∈ properPrefixes outline, ∃ j w kp tp cp, StoredAs s r used p j w kp tp cp ∧ 1 ≤ cp)
    (hfreed : slotsFreed s outline count ≤ live) (a : Station) :
    DeleteMade s (deleteDefinition outline a s) r used live deleted outline i v text count a := by
  have houtside := (deleteDefinition_act outline a s).outsideFrame
  rw [deleteDefinition_found hs.opened hown, if_neg hk] at houtside ⊢
  obtain ⟨hchange, hstands, htaken, hlowered⟩ := writeDelete_spec hs hh hown hprefixes hfreed
  generalize writeDelete outline i v s = u at *
  have hnotes : u.notes = s.notes := by rw [hchange.rest]
  have hnoted := handNote_noted (.define false (outline.headD 0) (outlineHash outline) outline.length a)
    (s := s) (s' := u) (by rw [hnotes])
  rw [handNote_eq] at hnoted houtside ⊢
  refine ⟨hstands, htaken, hlowered, fun x hheader hslot hentry hothers => ?_, hnoted, ?_, houtside, ?_⟩
  · refine hchange.outside x ?_
    rintro (hx | hx | ⟨p, hp, j, w, kp, tp, cp, hat, hx⟩)
    · exact hheader hx
    · exact ((hown.place_iff x).1 hx).elim hslot hentry
    · exact hx.elim (hothers p hp j w kp tp cp hat).1 (hothers p hp j w kp tp cp hat).2
  · rw [hchange.rest]; rfl
  · rw [hchange.rest]; rfl

end

/-! ### The statement -/

/-- Of a malformed frame the sender's definitions are disabled, and PEER_DEF_BAD is set. -/
theorem malformed_spec {e : State} (a : Station) (htable : e.peers.table.length = 16) :
    let t := setFlag .peerDefBad (disableDefinitions a e)
    t.peers.record a = { e.peers.record a with definitionsEnabled := false } ∧
      (∀ b, b ≠ a → t.peers.record b = e.peers.record b) ∧
      t = { e with peers := t.peers, status := (setFlag .peerDefBad e).status } := by
  have hstatus : (setFlag .peerDefBad (disableDefinitions a e)).status = (setFlag .peerDefBad e).status :=
    setFlag_status_congr _ rfl rfl
  dsimp only
  rw [setFlag_eq, hstatus]
  exact ⟨PeerUnit.record_set_same htable _, fun b hb => PeerUnit.record_set_ne _ _ hb, rfl⟩

/-- A flag set once the follower has ended a frame. -/
theorem setFlag_frameEnded (g : Flag) (f : LineFrame) (s : State) :
    setFlag g (frameEnded f s) = { frameEnded f s with status := (setFlag g s).status } := by
  have hstatus : (setFlag g (frameEnded f s)).status = (setFlag g s).status := setFlag_status_congr g rfl rfl
  rw [setFlag_eq, hstatus]

/-- Settles O50: the checks one by one, and a delete from what its writes leave. -/
theorem defineArrivalIsChecked : Obligations.DefineArrivalIsChecked := by
  constructor
  · intro s f a payload haccepts htable enabled busy e
    have hstatus : (setFlag .peerDefBad e).status = (setFlag .peerDefBad s).status := setFlag_status_congr _ rfl rfl
    refine ⟨_, exec_defineReceived haccepts, defineArrived_outside a payload e, fun h => defineArrived_disabled h,
      fun h hp => ?_, fun outline text h hp => ⟨fun hram => ?_, fun hram hbusy hroom => ?_, fun hram hbusy hfull => ?_,
        fun hram hidle => ?_⟩⟩
    · rw [defineArrived_malformed (s := frameEnded f s) h hp, ← hstatus]
      exact malformed_spec a htable
    · exact (defineArrived_withoutRam (s := e) h hp hram).trans (setFlag_frameEnded _ f s)
    · exact defineArrived_waits (s := e) h hp hram hbusy hroom
    · exact (defineArrived_dropped (s := e) h hp hram hbusy hfull).trans (setFlag_frameEnded _ f s)
    · exact defineArrived_applied (s := e) h hp hram hidle
  · intro s f a r outline used live deleted happlies hstands hheap prefixes stands
    have hstored : ∀ {o j w k text count}, StoredAs s r used o j w k text count →
        StoredAs (frameEnded f s) r used o j w k text count :=
      fun h => ⟨(findOutline_frameEnded []).trans h.1, h.2⟩
    have hopened : OverlayOpen (frameEnded f s) r used := OverlayStands.opened (s := frameEnded f s) hstands
    refine ⟨_, happlies.arrives, ?_, fun i v k text count hfound hentry hk hprefixes => ?_⟩
    · rintro (habsent | ⟨i, v, text, count, hfound, hentry⟩)
      · exact deleteDefinition_absent (fun i v => by rw [findOutline_frameEnded]; exact habsent i v) a
      · exact (deleteDefinition_found hopened (hstored ⟨hfound, hentry⟩) a).trans (if_pos rfl)
    · intro freed hfreed
      have hcounts : slotsFreed (frameEnded f s) outline count = freed := by
        unfold slotsFreed freesSlot
        simp only [findOutline_frameEnded]
        rfl
      obtain ⟨hstands', ⟨hslot, hcont⟩, hrest⟩ := deleteMade_frameEnded f
        (deleteDefinition_spec (s := frameEnded f s) hstands hheap (hstored ⟨hfound, hentry⟩) hk
          (fun p hp => by
            obtain ⟨j, w, kp, tp, cp, hat, hc⟩ := hprefixes p hp
            exact ⟨j, w, kp, tp, cp, hstored hat, hc⟩) (hcounts.trans_le hfreed) a)
      exact ⟨hstands', hslot, hcont, hrest⟩

end Sys2Proof.Machine
end

section
/-! PROOFS. HOLD_BACK_TIMER_EXPIRY: the release check read from its end, and the release of the last unit of a history
(R112 to R117). -/

namespace Sys2Proof.Machine

/-! ### The release check, by its first act (R113) -/

section
variable {s t : State} {us vs : List TextUnit} {u : TextUnit}

/-- A release check that may release no unit sets the hold-back timer. -/
theorem ReleaseCheck.armed (h : ReleaseCheck s t) (hnone : ∀ us u vs, OldestHeld s us u vs → ¬ Releasable s u) :
    HoldArmed s t := by
  rcases h with ⟨-, harmed⟩ | ⟨hold, hrel, -, -⟩
  · exact harmed
  · exact absurd hrel (hnone _ _ _ hold)

/-- A release check whose oldest HELD unit may be released releases it first. -/
theorem ReleaseCheck.releases (h : ReleaseCheck s t) (hold : OldestHeld s us u vs) (hrel : Releasable s u) :
    ∃ m, UnitReleased s m us u vs ∧ ReleaseCheck m t := by
  rcases h with ⟨hnone, -⟩ | ⟨hold', -, hunit, hcheck⟩
  · exact absurd hrel (hnone _ _ _ hold)
  · obtain ⟨rfl, rfl, rfl⟩ := hold.unique hold'
    exact ⟨_, hunit, hcheck⟩

/-- With every unit RELEASED the release check stops the hold-back timer, and that is all. -/
theorem ReleaseCheck.allReleased (h : ReleaseCheck s t) (hall : ∀ v ∈ s.translator.history, v.released = true) :
    t = { s with release := { s.release with holdTimer := none } } := by
  obtain ⟨hkept, hstopped, -⟩ := h.armed fun us u vs ⟨hhistory, _, hheld⟩ => by
    have := hall u (by rw [hhistory]; simp)
    rw [hheld] at this; cases this
  rw [hkept, hstopped hall]

/-- A due unit that waits for a floor outcome holds the release check up, with the hold-back timer stopped (R112). -/
theorem ReleaseCheck.blocked (h : ReleaseCheck s t) (hold : OldestHeld s us u vs) (hdue : due s u = true)
    (hpending : u.stream = .pending) : t = { s with release := { s.release with holdTimer := none } } := by
  obtain ⟨hkept, -, htimer⟩ := h.armed fun us' u' vs' hold' ⟨_, _, hfree⟩ => by
    obtain ⟨-, rfl, -⟩ := hold.unique hold'
    exact hfree hpending
  rw [hkept, (htimer _ _ _ hold).2 (.inr hdue)]

/-- The last unit of a history, when it may be released, is released, and no timer runs after it. -/
theorem ReleaseCheck.lastReleased (h : ReleaseCheck s t) (hold : OldestHeld s us u []) (hrel : Releasable s u) :
    ∃ m, UnitReleased s m us u [] ∧ t = { m with release := { m.release with holdTimer := none } } := by
  obtain ⟨m, hunit, hcheck⟩ := h.releases hold hrel
  obtain ⟨-, hbefore, -⟩ := hold
  obtain ⟨seq, hhistory⟩ := hunit.history hrel.2.2
  refine ⟨m, hunit, hcheck.allReleased fun v hv => ?_⟩
  rw [hhistory] at hv
  rcases List.mem_append.1 hv with hv | hv
  · exact hbefore v hv
  · rw [List.mem_singleton.1 hv]

/-! ### A release outside DRAINING (R113, R162) -/

/-- Outside DRAINING the drain check does nothing. -/
theorem DrainChecked.undrained (h : DrainChecked s t) (hfloor : s.floor.state ≠ .draining) : t = s :=
  h.1 fun hdrained => hfloor hdrained.1

/-- With room for its frame a release sets no flag. -/
theorem UnitReleased.status_eq (h : UnitReleased s t us u vs) (hs : u.stream ≠ .pending)
    (hfloor : s.floor.state ≠ .draining) (hrun : s.seq.phase = .run) (hroom : s.bus.queue.length < 20) :
    t.status = s.status := by
  obtain ⟨m, hdrain, hofficial, hshadow, hformat, hkept⟩ := h
  obtain rfl := hdrain.undrained (by rw [hkept]; exact hfloor)
  by_cases hk : u.kind = .format
  · obtain ⟨-, -, -, hstatus⟩ := hformat hk
    exact hstatus
  · cases hst : u.stream with
    | pending => exact absurd hst hs
    | official =>
      obtain ⟨-, -, hlow, -⟩ := hofficial hk hst
      exact (hlow hrun hroom).2
    | shadow =>
      obtain ⟨-, -, hlow, -⟩ := hshadow hk hst
      exact (hlow hrun hroom).2

end

/-! ### The statement -/

/-- The hold-back timer's expiry is a release check on the state in which the timer's ms have passed. -/
theorem exec_holdBackTimerExpiry {s : State} {n : Nat} (h : s.release.holdTimer = some n) :
    exec .holdBackTimerExpiry s = .next (holdBackExpired (elapse n s)) := by
  show Host.Outcome.next (onExpiry s.release.holdTimer holdBackExpired s) = _
  rw [h]; rfl

/-- Settles O35: the release check by its first act, with the history's last unit as the only HELD one. -/
theorem holdBackReleasesOldestUnit : Obligations.HoldBackReleasesOldestUnit := by
  refine ⟨?_, ?_, ?_⟩
  · intro s n us u htimer hhistory hreleased hheld hactive hrun hfloor hroom hdue official body
    refine ⟨_, exec_holdBackTimerExpiry htimer, ?_⟩
    have hcheck : ReleaseCheck _ (holdBackExpired (elapse n s)) := settle_check _
    generalize holdBackExpired (elapse n s) = t at hcheck ⊢
    have hold : OldestHeld { elapse n s with release := { s.release with holdTimer := none } } us u [] :=
      ⟨hhistory, hreleased, hheld⟩
    have hunitDue : due { elapse n s with release := { s.release with holdTimer := none } } u = true :=
      decide_eq_true hdue
    by_cases hp : u.stream = .pending
    · obtain rfl := hcheck.blocked hold hunitDue hp
      refine ⟨fun _ h => ?_, fun _ h => ?_, fun _ h => absurd hp h, fun _ => ⟨rfl, rfl, rfl⟩, rfl⟩
      · rw [hp] at h; cases h
      · rw [hp] at h; cases h
    · obtain ⟨m, hunit, rfl⟩ := hcheck.lastReleased hold ⟨hactive, hunitDue, hp⟩
      have hstatus := hunit.status_eq hp hfloor hrun hroom
      have hstopped : ∀ r, m.release = r → { m.release with holdTimer := none } = { r with holdTimer := none } :=
        fun _ h => by rw [h]
      obtain ⟨x, hdrain, hofficial, hshadow, hformat, hkept⟩ := hunit
      obtain rfl := hdrain.undrained (by rw [hkept]; exact hfloor)
      refine ⟨fun hk hst => ?_, fun hk hst => ?_, fun hk _ => ?_, fun h => absurd h hp, ?_⟩
      · obtain ⟨hunits, hrelease, hlow, -⟩ := hofficial hk hst
        exact ⟨hunits, (hstopped _ hrelease :), (hlow hrun hroom).1⟩
      · obtain ⟨hunits, hrelease, hlow, -⟩ := hshadow hk hst
        exact ⟨hunits, (hstopped _ hrelease :), (hlow hrun hroom).1⟩
      · obtain ⟨hunits, hrelease, hbus, -⟩ := hformat hk
        exact ⟨hunits, (hstopped _ hrelease :), hbus⟩
      · rw [hstatus] at hkept
        exact congrArg (fun x : State => { x with release := { m.release with holdTimer := none } }) hkept
  · intro s n htimer e
    exact ⟨_, exec_holdBackTimerExpiry htimer, settle_check _⟩
  · intro s htimer
    show Host.Outcome.next (onExpiry s.release.holdTimer holdBackExpired s) = _
    rw [htimer]; rfl

end Sys2Proof.Machine
end

section
/-! PROOFS. TEXT_RECEIVED: the sequence raises the known, and the floor controller hears a holding station (R118, R153,
R154, R157, R167). -/

namespace Sys2Proof.Machine

/-! ### The conflict lost (R167) -/

/-- A holding station's answer to its partner when it loses the conflict. -/
def partnerRefused (s : State) : State :=
  match s.floor.partner with
  | some p => sendTo p (.reliefBusy true) s
  | none => s

/-- The higher address leaves the floor, before the release check. -/
def conflictLost (a : Station) (s : State) : State :=
  enterOff (setHolder a (setFlag .floorConflict (partnerRefused (restream .official (fun _ => .shadow) s))))

theorem conflict_eq (a : Station) (s : State) :
    conflict a s = if s.seq.addr < a then s else settle (conflictLost a s) := rfl

theorem partnerRefused_act (s : State) : FloorAct s (partnerRefused s) := by
  unfold partnerRefused; split
  · exact sendTo_act _ _ s
  · exact .refl s

theorem partnerRefused_floor (s : State) : (partnerRefused s).floor = s.floor := by
  unfold partnerRefused; split
  · exact sendTo_floor _ _ s
  · rfl

theorem partnerRefused_notes (s : State) : (partnerRefused s).notes = s.notes := by
  unfold partnerRefused; split
  · exact sendTo_notes _ _ s
  · rfl

theorem partnerRefused_none {s : State} (h : s.floor.partner = none) : partnerRefused s = s := by
  unfold partnerRefused; rw [h]

theorem partnerRefused_some {s : State} {p : Station} (h : s.floor.partner = some p) (hroom : RoomToSend s) :
    partnerRefused s = setQueue (s.bus.queue ++ [waitingFrame (.reliefBusy true) (some p)]) s := by
  unfold partnerRefused; rw [h]
  exact handFrame_room hroom.1 hroom.2 (show FrameKind.cls .reliefBusy < 2 by decide)

/-- Beside the units' streams a conflict lost is an act of the floor controller. -/
theorem conflictLost_act (a : Station) (s : State) :
    FloorAct (restream .official (fun _ => .shadow) s) (conflictLost a s) :=
  (partnerRefused_act _).trans ((setFlag_act _ _).trans ((setHolder_act _ _).trans (enterOff_act _)))

section
variable {a : Station} {s : State}

theorem conflictLost_floor : (conflictLost a s).floor = heldBy s a (offRecord s) := by
  have hact := (partnerRefused_act (restream .official (fun _ => .shadow) s)).trans (setFlag_act .floorConflict _)
  unfold conflictLost; rw [enterOff_floor]
  simp only [offRecord, vacancyMs, heldBy, setHolder_floor, setHolder_settings, setFlag_floor, partnerRefused_floor,
    hact.core.settings, hact.core.seq]
  rfl

theorem conflictLost_flag : (conflictLost a s).status.isSet .floorConflict = true := by
  unfold conflictLost
  rw [enterOff_isSet _ (by decide), setHolder_status, isSet_setFlag]; simp

theorem conflictLost_noted : Noted s (conflictLost a s) (.floor false (knownField s)) := by
  have hact := (partnerRefused_act (restream .official (fun _ => .shadow) s)).trans (setFlag_act .floorConflict _)
  have hknown : knownField (setHolder a (setFlag .floorConflict
      (partnerRefused (restream .official (fun _ => .shadow) s)))) = knownField s := by
    unfold knownField; rw [setHolder_release, hact.release]; rfl
  rw [← hknown]
  exact enterOff_noted (by rw [setHolder_notes, setFlag_notes, partnerRefused_notes]; rfl)

theorem conflictLost_bus :
    (conflictLost a s).bus = (partnerRefused (restream .official (fun _ => .shadow) s)).bus := by
  unfold conflictLost; rw [enterOff_bus, setHolder_bus, setFlag_bus]

theorem conflictLost_queue_partner {p : Station} (hp : s.floor.partner = some p) (hroom : RoomToSend s) :
    (conflictLost a s).bus.queue = s.bus.queue ++ [waitingFrame (.reliefBusy true) (some p)] := by
  rw [conflictLost_bus, partnerRefused_some (s := restream _ _ s) hp hroom]; rfl

theorem conflictLost_queue_alone (hp : s.floor.partner = none) : (conflictLost a s).bus.queue = s.bus.queue := by
  rw [conflictLost_bus, partnerRefused_none (s := restream _ _ s) hp]; rfl

/-! ### A holding station heard (R153, R154, R157, R167) -/

theorem inRun_of_run (h : s.seq.phase = .run) : inRun s = true := decide_eq_true h

/-- A holding station heard, before the release check. -/
def holdingTaken (a : Station) (s : State) : State :=
  if s.seq.phase = .run then
    match s.floor.state with
    | .off => holderShown a s
    | .claiming => setHolder a (pendingLost s)
    | .requesting => setHolder a s
    | .on | .yielding | .draining => if s.seq.addr < a then s else conflictLost a s
  else setHolder a s

theorem holdingTaken_idle (h : s.seq.phase ≠ .run) : holdingTaken a s = setHolder a s := if_neg h

theorem holdingTaken_off (hrun : s.seq.phase = .run) (h : s.floor.state = .off) :
    holdingTaken a s = holderShown a s := by
  unfold holdingTaken; rw [if_pos hrun, h]

theorem holdingTaken_claiming (hrun : s.seq.phase = .run) (h : s.floor.state = .claiming) :
    holdingTaken a s = setHolder a (pendingLost s) := by
  unfold holdingTaken; rw [if_pos hrun, h]

theorem holdingTaken_requesting (hrun : s.seq.phase = .run) (h : s.floor.state = .requesting) :
    holdingTaken a s = setHolder a s := by
  unfold holdingTaken; rw [if_pos hrun, h]

theorem holdingTaken_holding (hrun : s.seq.phase = .run) (h : Holding s) :
    holdingTaken a s = if s.seq.addr < a then s else conflictLost a s := by
  unfold holdingTaken; rw [if_pos hrun]
  rcases h with h | h | h <;> rw [h]

/-- Beside the units' streams a claim lost to a holding station is an act of the floor controller. -/
theorem claimLost_act (a : Station) (s : State) :
    FloorAct (restream .pending (fun _ => .shadow) s) (setHolder a (pendingLost s)) :=
  (enterOff_act _).trans (setHolder_act _ _)

theorem claimLost_floor : (setHolder a (pendingLost s)).floor = heldBy s a (offRecord s) := by
  rw [setHolder_floor, (pendingLost_act s).core.seq]
  unfold pendingLost; rw [enterOff_floor]
  rfl

/-- An act of the floor controller makes no unit due. -/
theorem FloorAct.nothingDue {t : State} (h : FloorAct s t) (hnone : NothingDue s) : NothingDue t :=
  hnone.of_eq (by rw [h.translator]) h.core.settings h.core.seq

/-- What a holding station heard can do before the release check: an act of the floor controller, behind HELD units
that have become SHADOW where a claim or a conflict is lost. -/
theorem holdingTaken_act (a : Station) (s : State) :
    FloorAct s (holdingTaken a s) ∨ ∃ was, FloorAct (restream was (fun _ => .shadow) s) (holdingTaken a s) := by
  by_cases hrun : s.seq.phase = .run
  · cases h : s.floor.state with
    | off => rw [holdingTaken_off hrun h]; exact .inl (holderShown_act a s)
    | claiming => rw [holdingTaken_claiming hrun h]; exact .inr ⟨_, claimLost_act a s⟩
    | requesting => rw [holdingTaken_requesting hrun h]; exact .inl (setHolder_act a s)
    | on | yielding | draining =>
      rw [holdingTaken_holding hrun (by simp [Holding, h])]
      split
      · exact .inl (.refl s)
      · exact .inr ⟨_, conflictLost_act a s⟩
  · rw [holdingTaken_idle hrun]; exact .inl (setHolder_act a s)

theorem holdingTaken_release (a : Station) (s : State) : (holdingTaken a s).release = s.release := by
  rcases holdingTaken_act a s with h | ⟨was, h⟩ <;> exact h.release

theorem holdingTaken_outside (a : Station) (s : State) : OutsideFloor s (holdingTaken a s) := by
  have hact : ReleaseAct s (holdingTaken a s) := by
    rcases holdingTaken_act a s with h | ⟨was, h⟩
    · exact h.toRelease
    · exact (restream_act was _ s).trans h.toRelease
  exact hact.outsideFloor (by rw [holdingTaken_release])

theorem holdingTaken_nothingDue (hnone : NothingDue s) : NothingDue (holdingTaken a s) := by
  rcases holdingTaken_act a s with h | ⟨was, h⟩
  · exact h.nothingDue hnone
  · exact h.nothingDue (hnone.restream was _)

/-! ### The release check behind it (R113) -/

/-- A holding station heard takes the stream of HELD units: a claim or a conflict is lost. -/
def StreamsLost (a : Station) (s : State) : Prop :=
  s.seq.phase = .run ∧ (s.floor.state = .claiming ∨ (Holding s ∧ a < s.seq.addr))

theorem holdingHeard_holding (hrun : s.seq.phase = .run) (h : Holding s) : holdingHeard a s = conflict a s := by
  unfold holdingHeard; rw [if_pos (inRun_of_run hrun)]
  rcases h with h | h | h <;> rw [h]

theorem holdingHeard_lost (h : StreamsLost a s) : holdingHeard a s = settle (holdingTaken a s) := by
  obtain ⟨hrun, hclaiming | ⟨hholding, hhigher⟩⟩ := h
  · rw [holdingTaken_claiming hrun hclaiming]
    unfold holdingHeard; rw [if_pos (inRun_of_run hrun), hclaiming]
  · have hnot : ¬ s.seq.addr < a := BitVec.not_lt.2 (BitVec.le_of_lt hhigher)
    rw [holdingHeard_holding hrun hholding, holdingTaken_holding hrun hholding, conflict_eq, if_neg hnot, if_neg hnot]

theorem holdingHeard_kept (hne : a ≠ s.seq.addr) (hkept : ¬ StreamsLost a s) :
    holdingHeard a s = holdingTaken a s := by
  by_cases hrun : s.seq.phase = .run
  · cases h : s.floor.state with
    | off => rw [holdingTaken_off hrun h]; unfold holdingHeard; rw [if_pos (inRun_of_run hrun), h]
    | claiming => exact absurd ⟨hrun, .inl h⟩ hkept
    | requesting => rw [holdingTaken_requesting hrun h]; unfold holdingHeard; rw [if_pos (inRun_of_run hrun), h]
    | on | yielding | draining =>
      have hholding : Holding s := by simp [Holding, h]
      have hlower : s.seq.addr < a := by
        have : ¬ a < s.seq.addr := fun hhigher => hkept ⟨hrun, .inr ⟨hholding, hhigher⟩⟩
        bv_omega
      rw [holdingHeard_holding hrun hholding, holdingTaken_holding hrun hholding, conflict_eq, if_pos hlower,
        if_pos hlower]
  · rw [holdingTaken_idle hrun]
    unfold holdingHeard; rw [if_neg (by simpa [inRun] using hrun)]

/-- A holding station heard: its own act, and the release check where units have lost their stream. -/
theorem holdingHeard_releases (hne : a ≠ s.seq.addr) :
    ReleasesWhere (StreamsLost a s) s (holdingTaken a s) (holdingHeard a s) := by
  refine ⟨fun hlost => ?_, holdingHeard_kept hne⟩
  rw [holdingHeard_lost hlost]; exact settle_then holdingTaken_nothingDue

end

/-! ### The statement -/

/-- A station takes no frame that names itself as its source (R135). -/
theorem Accepts.source_ne {s : State} {f : LineFrame} {a : Station} {m : Msg} (h : Accepts s f a m) :
    a ≠ s.seq.addr := by
  obtain ⟨-, hjudge⟩ := h
  unfold LineFrame.judge at hjudge
  split at hjudge
  · cases hjudge
  · split at hjudge
    · cases hjudge
    · rename_i hsource
      repeat' split at hjudge
      · cases hjudge
      · cases hjudge
      · cases hjudge; exact hsource

/-- An accepted TEXT raises the known, and the floor controller then hears its sender (R118, R153). -/
theorem exec_textReceived {s : State} {f : LineFrame} {a : Station} {body : TextBody} (h : Accepts s f a (.text body)) :
    exec (.textReceived f) s = .next (holdingHeard a (raiseKnown body.seq (frameEnded f s))) :=
  congrArg Host.Outcome.next (receive_accepted takeText h)

/-- Settles O49: the holder heard with the known just raised, state by state. -/
theorem textRaisesKnownAndSettlesConflict : Obligations.TextRaisesKnownAndSettlesConflict := by
  intro s f a body haccepts
  let r := raiseKnown body.seq (frameEnded f s)
  have hreleases : ReleasesWhere (StreamsLost a r) r (holdingTaken a r) (holdingHeard a r) :=
    holdingHeard_releases (s := r) haccepts.source_ne
  refine ⟨_, holdingTaken a r, exec_textReceived haccepts, hreleases, by rw [holdingTaken_release]; rfl,
    holdingTaken_outside a r, fun hidle => ?_, fun hrun => ⟨fun hoff => ?_, fun hasking => ?_, fun hclaiming => ?_,
      fun hholding hlower => ?_, fun hholding hhigher => ?_⟩⟩
  · rw [holdingTaken_idle (s := r) hidle]; rfl
  · rw [holdingTaken_off (s := r) hrun hoff]
    unfold holderShown
    rw [restartVacancy_off (s := setHolder a r) (inRun_of_run hrun) hoff]; rfl
  · rw [holdingTaken_requesting (s := r) hrun hasking]; rfl
  · rw [holdingTaken_claiming (s := r) hrun hclaiming]
    exact ⟨claimLost_floor (s := r), by rw [(claimLost_act a r).translator, restream_history]; rfl⟩
  · rw [holdingTaken_holding (s := r) hrun hholding, if_pos (show r.seq.addr < a from hlower)]
    exact ⟨rfl, rfl, rfl, rfl⟩
  · rw [holdingTaken_holding (s := r) hrun hholding,
      if_neg (show ¬ r.seq.addr < a from BitVec.not_lt.2 (BitVec.le_of_lt hhigher))]
    refine ⟨conflictLost_floor (s := r), conflictLost_flag, ?_, conflictLost_noted (s := r), fun p hp hroom => ?_,
      fun hp => ?_⟩
    · rw [(conflictLost_act a r).translator, restream_history]; rfl
    · exact conflictLost_queue_partner (s := r) hp ⟨hrun, hroom⟩
    · exact conflictLost_queue_alone (s := r) hp

end Sys2Proof.Machine
end

section
/-! PROOFS. Frames that no block takes: the end of a frame for the follower, and the clash of addresses (R126, R127,
R134 to R136). -/

namespace Sys2Proof.Machine

/-! ### The frame as read (R126, R127, R135) -/

/-- A frame is whole when it is not broken off: its length is in range and all its end bits are recessive. -/
theorem brokenOff_eq_false_iff (f : LineFrame) :
    brokenOff f = false ↔ f.length.toNat ≤ 160 ∧ f.endBits = BitVec.allOnes 7 := by
  simp [brokenOff]

theorem intact_iff (f : LineFrame) :
    f.intact = true ↔
      (f.length.toNat ≤ 160 ∧ f.endBits = BitVec.allOnes 7) ∧ f.payload.length = f.length.toNat ∧
        f.crc = crc16 f.covered := by
  simp only [LineFrame.intact, Bool.and_eq_true, decide_eq_true_eq, beq_iff_eq]
  tauto

/-- The verdict of an address clash is that of an intact frame with this station's own source (R135 step 2). -/
theorem judge_eq_clash_iff (me : Station) (f : LineFrame) :
    f.judge me = .clash ↔ f.intact = true ∧ f.source = me := by
  unfold LineFrame.judge
  by_cases hintact : f.intact = true
  · by_cases hsource : f.source = me
    · simp [hintact, hsource]
    · simp only [hintact, hsource, and_false, iff_false, Bool.not_true, if_false]
      repeat' split
      all_goals nofun
  · simp [hintact]

theorem frameEnded_bus_whole {f : LineFrame} (h : brokenOff f = false) (s : State) :
    (frameEnded f s).bus = { s.bus with follower := .waitIdle, recessive := 7, stuckTimer := 0 } := by
  simp [frameEnded, h]

theorem frameEnded_bus_brokenOff {f : LineFrame} (h : brokenOff f = true) (s : State) :
    (frameEnded f s).bus = { s.bus with follower := .waitIdle, recessive := 0 } := by
  simp [frameEnded, h]

/-! ### Flags and the bus -/

/-- The flag a block sets does not depend on the bus. -/
theorem setFlag_withBus (g : Flag) (s : State) (b : BusController) :
    setFlag g { s with bus := b } = { s with bus := b, status := (setFlag g s).status } := by
  have hstatus : (setFlag g { s with bus := b }).status = (setFlag g s).status := setFlag_status_congr g rfl rfl
  rw [← hstatus]
  exact setFlag_eq g _

/-! ### A frame that no block takes (R136) -/

/-- Without a footing at the start bit nothing is read (R126). -/
theorem receive_unfooted {s : State} (h : canReceive s = false) (f : LineFrame)
    (take : Station → Msg → State → State) : receive f take s = s := by
  unfold receive; rw [h]; rfl

/-- A frame with this station's own source sets ADDRESS_CLASH at its end (R135). -/
theorem receive_clash {s : State} {f : LineFrame} (h : canReceive s = true) (hjudge : f.judge s.seq.addr = .clash)
    (take : Station → Msg → State → State) :
    receive f take s = { s with bus := (frameEnded f s).bus, status := (setFlag .addressClash s).status } := by
  unfold receive
  simp only [h, if_true, frameEnded_seq, hjudge]
  exact setFlag_withBus _ s _

/-- Any other frame that no block takes only ends for the follower. -/
theorem receive_takenByNone {s : State} {f : LineFrame} (h : canReceive s = true)
    (hjudge : f.judge s.seq.addr ≠ .clash) : receive f takenByNone s = { s with bus := (frameEnded f s).bus } := by
  unfold receive
  simp only [h, if_true, frameEnded_seq]
  cases hverdict : f.judge s.seq.addr with
  | discarded => rfl
  | clash => exact absurd hverdict hjudge
  | accepted a m => rfl

/-- The four commands whose frames are handed to no block are one act. -/
theorem exec_frameForNoBlock {f : LineFrame} {c : Instr}
    (h : c ∈ [.frameDiscarded f, .retractReceived f, .replaceReceived f, .shadowReceived f]) (s : State) :
    exec c s = .next (receive f takenByNone s) := by
  simp only [List.mem_cons, List.not_mem_nil, or_false] at h
  rcases h with rfl | rfl | rfl | rfl <;> rfl

/-- Settles O38: the verdict of a clash apart, such a frame only ends for the follower. -/
theorem framesForNoBlockChangeNothing : Obligations.FramesForNoBlockChangeNothing := by
  intro s f c hcommand whole clash
  have hwhole : brokenOff f = false ↔ whole := brokenOff_eq_false_iff f
  have hclash : f.judge s.seq.addr = .clash ↔ clash := by
    rw [judge_eq_clash_iff, intact_iff]
    exact ⟨fun ⟨⟨hw, hlength, hcrc⟩, hsource⟩ => ⟨hw, hlength, hcrc, hsource⟩,
      fun ⟨hw, hlength, hcrc, hsource⟩ => ⟨⟨hw, hlength, hcrc⟩, hsource⟩⟩
  have hended (h : whole) := frameEnded_bus_whole (hwhole.2 h) s
  have hbroken (h : ¬ whole) := frameEnded_bus_brokenOff (Bool.eq_true_of_not_eq_false (mt hwhole.1 h)) s
  rw [exec_frameForNoBlock hcommand]
  refine ⟨fun hfooted => ?_, fun hunfooted => by rw [receive_unfooted hunfooted]⟩
  by_cases hown : clash
  · rw [receive_clash hfooted (hclash.2 hown)]
    exact ⟨_, rfl, fun _ => rfl, fun h => absurd hown h, hended, hbroken, rfl⟩
  · rw [receive_takenByNone hfooted (mt hclash.1 hown)]
    exact ⟨_, rfl, fun h => absurd h hown, fun _ => rfl, hended, hbroken, rfl⟩

end Sys2Proof.Machine
end

section
/-! PROOFS. The events of the line: the ends of the frame in flight with their drain check, the stuck line and the idle
bus (R126, R132 to R134, R162). -/

namespace Sys2Proof.Machine

/-! ### The frame in flight leaves the queue (R133, R162) -/

/-- The bus once the frame in flight has left the queue. -/
def frameGone (b : BusController) : BusController :=
  { b with inFlight := none, queue := b.queue.filter fun f => !f.sending }

section
variable {s : State}

theorem leaveQueue_eq (s : State) :
    leaveQueue s =
      if s.bus.queue.any fun f => f.sending && f.kind == .text then drainCheck { s with bus := frameGone s.bus }
      else { s with bus := frameGone s.bus } := rfl

/-- A TEXT that leaves is followed by the drain check (R162). -/
theorem leaveQueue_text (h : ∃ f ∈ s.bus.queue, f.sending = true ∧ f.kind = .text) :
    DrainChecked { s with bus := frameGone s.bus } (leaveQueue s) := by
  rw [leaveQueue_eq, if_pos (by simpa [List.any_eq_true] using h)]
  exact drainCheck_checked _

/-- Outside DRAINING, and where no TEXT leaves, nothing but the bus changes. -/
theorem leaveQueue_undrained
    (h : s.floor.state ≠ .draining ∨ ∀ f ∈ s.bus.queue, f.sending = true → f.kind ≠ .text) :
    leaveQueue s = { s with bus := frameGone s.bus } := by
  rcases h with hfloor | hother
  · rw [leaveQueue_eq]; split
    · exact (drainCheck_checked _).undrained hfloor
    · rfl
  · rw [leaveQueue_eq, if_neg (by simpa [List.any_eq_true] using hother)]

/-! ### A readback mismatch (R126, R133) -/

/-- The bus as the follower stands after a readback mismatch: a start bit read back recessive was no start bit. -/
def misreadBus (startBit : Bool) (b : BusController) : BusController :=
  if startBit = true ∧ b.follower = .frame then { b with follower := .idle, recessive := 11, stuckTimer := 0 } else b

theorem misreadBus_eq (startBit : Bool) (b : BusController) :
    (if startBit then noStartBit b else b) = misreadBus startBit b := by
  cases startBit with
  | false => rfl
  | true => simp [misreadBus, noStartBit]

@[simp] theorem misreadBus_queue (startBit : Bool) (b : BusController) : (misreadBus startBit b).queue = b.queue := by
  unfold misreadBus; split <;> rfl

theorem frameGone_misreadBus (startBit : Bool) (b : BusController) :
    frameGone (misreadBus startBit b) =
      { misreadBus startBit b with inFlight := none, queue := b.queue.filter fun f => !f.sending } := by
  rw [frameGone, misreadBus_queue]

/-! ### The commands while a frame is in flight, and while none is (R132, R133) -/

theorem loseArbitration_inFlight (h : s.bus.inFlight ≠ none) :
    loseArbitration s =
      { s with
        bus := { s.bus with inFlight := none, queue := s.bus.queue.map fun f => { f with sending := false } } } := by
  unfold loseArbitration; split
  · contradiction
  · rfl

theorem abandonFrame_inFlight (h : s.bus.inFlight ≠ none) (startBit : Bool) :
    abandonFrame startBit s =
      leaveQueue { s with bus := misreadBus startBit s.bus, status := (setFlag .txError s).status } := by
  unfold abandonFrame; split
  · contradiction
  · rw [misreadBus_eq, setFlag_withBus]

theorem finishFrame_inFlight (h : s.bus.inFlight ≠ none) :
    finishFrame s =
      leaveQueue { s with bus := { s.bus with follower := .waitIdle, recessive := 7, stuckTimer := 0 } } := by
  unfold finishFrame; split
  · contradiction
  · rfl

theorem loseArbitration_none (h : s.bus.inFlight = none) : loseArbitration s = s := by
  unfold loseArbitration; rw [h]

theorem abandonFrame_none (h : s.bus.inFlight = none) (startBit : Bool) : abandonFrame startBit s = s := by
  unfold abandonFrame; rw [h]

theorem finishFrame_none (h : s.bus.inFlight = none) : finishFrame s = s := by
  unfold finishFrame; rw [h]

/-! ### The stuck line and the idle bus (R125, R126, R134) -/

theorem receiverActive_iff (s : State) :
    receiverActive s = true ↔ s.seq.phase = .scan ∨ s.seq.phase = .listen ∨ s.seq.phase = .run := by
  unfold receiverActive; cases s.seq.phase <;> decide

/-- Before the end of LOAD and in FAULT the receiver is not active. -/
theorem receiver_inactive (h : s.seq.phase = .reset ∨ s.seq.phase = .load ∨ s.seq.phase = .fault) :
    ¬ receiverActive s = true := by
  unfold receiverActive; rcases h with h | h | h <;> rw [h] <;> nofun

theorem lineStuck_active (h : receiverActive s = true) {ms : Nat} (hms : 10 < ms) :
    lineStuck ms s =
      { s with
        bus := { s.bus with stuckTimer := ms, stuckSpell := true, follower := .waitIdle, recessive := 0 }
        status := if s.bus.stuckSpell then s.status else (setFlag .busStuck s).status } := by
  unfold lineStuck; rw [if_pos ⟨h, hms⟩]
  cases s.bus.stuckSpell with
  | true => rfl
  | false => simp only [Bool.false_eq_true, if_false]; rw [setFlag_eq]

theorem lineStuck_inactive (h : ¬ receiverActive s = true) (ms : Nat) : lineStuck ms s = s :=
  if_neg fun hstuck => h hstuck.1

theorem lineIdle_waiting (h : receiverActive s = true) (hwait : s.bus.follower = .waitIdle) :
    lineIdle s =
      { s with bus := { s.bus with follower := .idle, recessive := 11, stuckTimer := 0, stuckSpell := false } } :=
  if_pos ⟨h, hwait⟩

theorem lineIdle_unchanged (h : receiverActive s = true → s.bus.follower ≠ .waitIdle) : lineIdle s = s :=
  if_neg fun hidle => h hidle.1 hidle.2

end

/-! ### The statement -/

/-- Settles O37: each event from what its act does with a frame in flight and with the receiver active. -/
theorem lineEventsEndFramesAndSpells : Obligations.LineEventsEndFramesAndSpells := by
  intro s misread
  refine ⟨fun hnone => ?_, fun hsome => ⟨?_, fun hundrained => ⟨fun startBit => ?_, ?_⟩,
    fun _ htext => ⟨fun startBit => ⟨_, rfl, ?_⟩, _, rfl, ?_⟩⟩, fun hphase => ?_, fun hphase => ?_⟩
  · exact ⟨congrArg Host.Outcome.next (loseArbitration_none hnone),
      fun startBit => congrArg Host.Outcome.next (abandonFrame_none hnone startBit),
      congrArg Host.Outcome.next (finishFrame_none hnone)⟩
  · exact congrArg Host.Outcome.next (loseArbitration_inFlight hsome)
  · refine congrArg Host.Outcome.next ((abandonFrame_inFlight hsome startBit).trans ?_)
    rw [leaveQueue_undrained (by simpa using hundrained), frameGone_misreadBus]; rfl
  · exact congrArg Host.Outcome.next ((finishFrame_inFlight hsome).trans (leaveQueue_undrained hundrained))
  · rw [abandonFrame_inFlight hsome startBit]
    have hleft := leaveQueue_text
      (s := { s with bus := misreadBus startBit s.bus, status := (setFlag .txError s).status }) (by simpa using htext)
    rwa [frameGone_misreadBus] at hleft
  · rw [finishFrame_inFlight hsome]
    exact leaveQueue_text
      (s := { s with bus := { s.bus with follower := .waitIdle, recessive := 7, stuckTimer := 0 } }) htext
  · have hactive := (receiverActive_iff s).2 hphase
    exact ⟨fun ms hms => congrArg Host.Outcome.next (lineStuck_active hactive hms),
      fun hwait => congrArg Host.Outcome.next (lineIdle_waiting hactive hwait),
      fun hwait => congrArg Host.Outcome.next (lineIdle_unchanged fun _ => hwait)⟩
  · have hinactive := receiver_inactive hphase
    exact ⟨fun ms => congrArg Host.Outcome.next (lineStuck_inactive hinactive ms),
      congrArg Host.Outcome.next (lineIdle_unchanged fun h => absurd h hinactive)⟩

end Sys2Proof.Machine
end

section
/-! PROOFS. PRESENCE_RECEIVED: the sender's record, its offset estimate, the known, and a holding sender heard (R118,
R142, R143, R146, R153, R154, R157, R167). -/

namespace Sys2Proof.Machine

/-! ### The sender's record (R142, R143) -/

section
variable {p : Peer} {b : PresenceBody} {tr : Word}

/-- A kept restart count and a count in a frame that is another one (R143). -/
def RestartChanged (p : Peer) (count : BitVec 16) : Prop := count ≠ 0 ∧ ∃ old, p.restart = some old ∧ old ≠ count

theorem takeRestart_restart (p : Peer) (count : BitVec 16) :
    (p.takeRestart count).restart = if count = 0 then p.restart else some count := by
  unfold Peer.takeRestart
  split
  · rfl
  · cases hold : p.restart with
    | none => rfl
    | some old =>
      dsimp only; split
      · rename_i hsame; rw [hold, hsame]
      · rfl

theorem takeRestart_changed {count : BitVec 16} (h : RestartChanged p count) :
    p.takeRestart count = { p with restart := some count, offset := none, definitionsEnabled := true } := by
  obtain ⟨hcount, old, hold, hne⟩ := h
  unfold Peer.takeRestart
  rw [if_neg hcount, hold]; exact if_neg hne

theorem takeRestart_unchanged {count : BitVec 16} (h : ¬ RestartChanged p count) :
    (p.takeRestart count).offset = p.offset ∧ (p.takeRestart count).definitionsEnabled = p.definitionsEnabled := by
  unfold Peer.takeRestart
  split
  · exact ⟨rfl, rfl⟩
  · rename_i hcount
    cases hold : p.restart with
    | none => exact ⟨rfl, rfl⟩
    | some old =>
      have hsame : old = count := by_contra fun hne => h ⟨hcount, old, hold, hne⟩
      dsimp only; rw [if_pos hsame]; exact ⟨rfl, rfl⟩

theorem takePresence_offset :
    (p.takePresence b tr).offset = some (nextOffset (p.takeRestart b.restart).offset (sample b.time tr)) := rfl

/-- With a changed restart count the frame gives a first sample, and definitions are enabled. -/
theorem takePresence_changed (h : RestartChanged p b.restart) :
    (p.takePresence b tr).offset = some (16 * sample b.time tr) ∧
      (p.takePresence b tr).definitionsEnabled = true := by
  unfold Peer.takePresence
  rw [takeRestart_changed h]; exact ⟨rfl, rfl⟩

theorem takePresence_unchanged (h : ¬ RestartChanged p b.restart) :
    (p.takePresence b tr).offset = some (nextOffset p.offset (sample b.time tr)) ∧
      (p.takePresence b tr).definitionsEnabled = p.definitionsEnabled := by
  obtain ⟨hoffset, hdefinitions⟩ := takeRestart_unchanged h
  exact ⟨by rw [takePresence_offset, hoffset], hdefinitions⟩

/-! ### The offset estimate (R146) -/

theorem nextOffset_steps {e d : Int} (h : 8000 < |16 * d - e|) : nextOffset (some e) d = 16 * d :=
  if_pos ((lt_abs.1 h).imp_right fun hlow => by omega)

theorem nextOffset_slews {e d : Int} (h : |16 * d - e| ≤ 8000) :
    nextOffset (some e) d = max (-(2 ^ 35)) (min (2 ^ 35 - 1) (e + max (-16) (min 16 ((16 * d - e) / 8)))) := by
  obtain ⟨hlow, hhigh⟩ := abs_le.1 h
  exact if_neg (by omega)

end

/-! ### The frame taken (R118, R142, R153) -/

/-- A PRESENCE on its sender's record and on the known, before the floor controller hears it. -/
def presenceNoted (tr : Word) (a : Station) (b : PresenceBody) (s : State) : State :=
  raiseKnown b.known (setPeer a ((s.peers.record a).takePresence b tr) s)

/-- What a PRESENCE does before any release check. -/
def presenceTaken (tr : Word) (a : Station) (b : PresenceBody) (s : State) : State :=
  if b.floor.holding then holdingTaken a (presenceNoted tr a b s) else presenceNoted tr a b s

/-- A PRESENCE with the release check that follows where units have lost their stream. -/
def presenceHeard (tr : Word) (a : Station) (b : PresenceBody) (s : State) : State :=
  if b.floor.holding then holdingHeard a (presenceNoted tr a b s) else presenceNoted tr a b s

section
variable {s : State} {f : LineFrame} {a : Station} {b : PresenceBody} {tr : Word}

theorem holding_iff (x : FloorState) : x.holding = true ↔ x = .on ∨ x = .yielding ∨ x = .draining := by
  cases x <;> decide

/-- An accepted PRESENCE is heard once the follower has gone to WAIT_IDLE, at the time of its start bit. -/
theorem exec_presenceReceived (h : Accepts s f a (.presence b)) :
    exec (.presenceReceived f) s = .next (presenceHeard (receiveTime f s) a b (frameEnded f s)) :=
  congrArg Host.Outcome.next (receive_accepted (takePresence (receiveTime f s)) h)

theorem presenceTaken_holding (h : b.floor.holding = true) :
    presenceTaken tr a b s = holdingTaken a (presenceNoted tr a b s) := if_pos h

theorem presenceTaken_other (h : ¬ b.floor.holding = true) : presenceTaken tr a b s = presenceNoted tr a b s := if_neg h

/-- The floor controller's part leaves the peer table, the release unit and the rest of the part as noted. -/
theorem presenceTaken_kept : OutsideFloor (presenceNoted tr a b s) (presenceTaken tr a b s) ∧
    (presenceTaken tr a b s).release = (presenceNoted tr a b s).release := by
  by_cases h : b.floor.holding = true
  · rw [presenceTaken_holding h]; exact ⟨holdingTaken_outside _ _, holdingTaken_release _ _⟩
  · rw [presenceTaken_other h]; exact ⟨(ReleaseAct.refl _).outsideFloor rfl, rfl⟩

/-- The release check of a PRESENCE follows where a holding sender has taken the stream of HELD units. -/
theorem presenceTaken_releases (hne : a ≠ s.seq.addr) :
    ReleasesWhere (b.floor.holding = true ∧ StreamsLost a (presenceNoted tr a b s)) (presenceNoted tr a b s)
      (presenceTaken tr a b s) (presenceHeard tr a b s) := by
  unfold presenceHeard
  by_cases h : b.floor.holding = true
  · rw [presenceTaken_holding h, if_pos h]
    have hreleases := holdingHeard_releases (s := presenceNoted tr a b s) hne
    exact ⟨fun hlost => hreleases.1 hlost.2, fun hkept => hreleases.2 fun hlost => hkept ⟨h, hlost⟩⟩
  · rw [presenceTaken_other h, if_neg h]
    exact ⟨fun hlost => absurd hlost.1 h, fun _ => rfl⟩

/-! ### A holding sender, by the state of the floor (R153, R154, R157, R167) -/

theorem holdingTaken_setHolder (h : s.seq.phase ≠ .run ∨ s.floor.state = .requesting) :
    holdingTaken a s = setHolder a s := by
  by_cases hrun : s.seq.phase = .run
  · exact holdingTaken_requesting hrun (h.resolve_left (not_not_intro hrun))
  · exact holdingTaken_idle hrun

theorem holdingTaken_off_floor (hrun : s.seq.phase = .run) (h : s.floor.state = .off) :
    (holdingTaken a s).floor = { heldBy s a s.floor with vacancyTimer := some (vacancyMs s) } := by
  rw [holdingTaken_off hrun h]
  unfold holderShown
  rw [restartVacancy_off (s := setHolder a s) (inRun_of_run hrun) h]; rfl

/-- A claim lost to a holding station: OFF with it as known holder, the PENDING units SHADOW, the FLOOR note. -/
theorem holdingTaken_claimLost (hrun : s.seq.phase = .run) (h : s.floor.state = .claiming) :
    (holdingTaken a s).floor = heldBy s a (offRecord s) ∧
      (holdingTaken a s).translator.history = Restreamed .pending (fun _ => .shadow) s.translator.history ∧
      Noted s (holdingTaken a s) (.floor false (knownField s)) := by
  rw [holdingTaken_claiming hrun h]
  refine ⟨claimLost_floor, by rw [(claimLost_act a s).translator, restream_history], ?_⟩
  exact enterOff_noted (s' := restream .pending (fun _ => .shadow) s) rfl

theorem holdingTaken_conflictWon (hrun : s.seq.phase = .run) (h : Holding s) (hlower : s.seq.addr < a) :
    holdingTaken a s = s := by
  rw [holdingTaken_holding hrun h, if_pos hlower]

theorem holdingTaken_conflictLost (hrun : s.seq.phase = .run) (h : Holding s) (hhigher : a < s.seq.addr) :
    holdingTaken a s = conflictLost a s := by
  rw [holdingTaken_holding hrun h, if_neg (BitVec.not_lt.2 (BitVec.le_of_lt hhigher))]

end

/-! ### The statement -/

theorem ReleasesWhere.peers_eq {c : Prop} {s m t : State} (h : ReleasesWhere c s m t) : t.peers = m.peers := by
  by_cases hc : c
  · obtain ⟨-, ⟨-, -, -, hpeers, -⟩, -⟩ := h.1 hc
    exact hpeers
  · rw [h.2 hc]

/-- Settles O52: the sender's record by the restart count, then the holding sender state by state. -/
theorem presenceUpdatesPeerRecord : Obligations.PresenceUpdatesPeerRecord := by
  intro s f a b haccepts htable old heard d changed holds
  have hholds : b.floor.holding = true ↔ holds := holding_iff b.floor
  let r := presenceNoted heard a b (frameEnded f s)
  let m := presenceTaken heard a b (frameEnded f s)
  let t := presenceHeard heard a b (frameEnded f s)
  have hreleases : ReleasesWhere (b.floor.holding = true ∧ StreamsLost a r) r m t :=
    presenceTaken_releases (s := frameEnded f s) haccepts.source_ne
  obtain ⟨⟨hframe, -, -, hmpeers, -⟩, hrelease⟩ : OutsideFloor r m ∧ m.release = r.release := presenceTaken_kept
  have hpeers : t.peers = r.peers := hreleases.peers_eq.trans hmpeers
  have hrecord : r.peers.record a = old.takePresence b heard := PeerUnit.record_set_same (u := s.peers) htable _
  refine ⟨t, m, exec_presenceReceived haccepts,
    ⟨fun hc => hreleases.1 ⟨hholds.2 hc.1, hc.2⟩, fun hc => hreleases.2 fun h => hc ⟨hholds.1 h.1, h.2⟩⟩,
    hframe, hreleases.peers_eq, ?_⟩
  rw [hpeers, hrecord]
  refine ⟨rfl, rfl, rfl, rfl, takeRestart_restart _ _, takePresence_changed, fun hsame => ?_,
    fun c hc => PeerUnit.record_set_ne s.peers _ hc, rfl, by rw [hrelease]; rfl, fun hidle => ?_, fun hh => ?_⟩
  · obtain ⟨hoffset, hdefinitions⟩ := takePresence_unchanged (tr := heard) hsame
    rw [show sample b.time heard = d from rfl] at hoffset
    refine ⟨hdefinitions, fun hnone => by rw [hoffset, hnone]; rfl, fun e he => ⟨fun hstep => ?_, fun hslew _ _ => ?_⟩⟩
    · rw [hoffset, he, nextOffset_steps hstep]
    · rw [hoffset, he, nextOffset_slews hslew]
  · have hm : m = r := presenceTaken_other (by rcases hidle with h | h | h <;> rw [h] <;> decide)
    rw [hm]; exact ⟨rfl, rfl⟩
  · have hm : m = holdingTaken a r := presenceTaken_holding (hholds.2 hh)
    rw [hm]
    refine ⟨fun h => ?_, fun hrun hoff => holdingTaken_off_floor (s := r) hrun hoff,
      fun hrun hclaiming => holdingTaken_claimLost (s := r) hrun hclaiming, fun hrun hholding hlower => ?_,
      fun hrun hholding hhigher => ?_⟩
    · rw [holdingTaken_setHolder (s := r) h]; rfl
    · rw [holdingTaken_conflictWon (s := r) hrun hholding hlower]; exact ⟨rfl, rfl, rfl, rfl⟩
    · rw [holdingTaken_conflictLost (s := r) hrun hholding hhigher]
      exact ⟨conflictLost_floor (s := r), conflictLost_flag,
        by rw [(conflictLost_act a r).translator, restream_history]; rfl, conflictLost_noted (s := r),
        fun p hp hroom => conflictLost_queue_partner (s := r) hp ⟨hrun, hroom⟩,
        fun hp => conflictLost_queue_alone (s := r) hp⟩

end Sys2Proof.Machine
end

section
/-! PROOFS. PRESENCE_TIMER_EXPIRY: the absence check station by station, what an absence does on the floor, the PRESENCE
handed, and the entry to RUN (R140, R144, R153, R166, R176). -/

namespace Sys2Proof.Machine

/-! ### A PRESENCE handed (R130, R140) -/

/-- A PRESENCE as it waits in the transmit queue. -/
def waitingPresence : TxFrame := ⟨.presence, none, false⟩

section
variable {s : State}

/-- A handed PRESENCE joins the queue or is dropped without a flag, and displaces nothing (R130). -/
theorem handPresence_cases (s : State) :
    handFrame waitingPresence s = s ∨ handFrame waitingPresence s = setQueue (s.bus.queue ++ [waitingPresence]) s := by
  unfold handFrame
  split
  · exact .inl rfl
  · rw [if_pos (show waitingPresence.kind = .presence from rfl)]
    split
    · exact .inl rfl
    · exact .inr rfl

/-- The frames in the queue stay in front of a handed PRESENCE. -/
theorem handPresence_behind (s : State) :
    ∃ more, (handFrame waitingPresence s).bus.queue = s.bus.queue ++ more := by
  rcases handPresence_cases s with h | h <;> rw [h]
  · exact ⟨[], (List.append_nil _).symm⟩
  · exact ⟨_, rfl⟩

theorem handPresence_joins (hrun : s.seq.phase = .run) (hnone : ∀ g ∈ s.bus.queue, g.kind ≠ .presence)
    (hroom : s.bus.queue.length < 20) :
    handFrame waitingPresence s = setQueue (s.bus.queue ++ [waitingPresence]) s := by
  have hlow : lowClassCount s.bus.queue ≤ s.bus.queue.length := List.countP_le_length
  have hslot : noLowSlot s.bus.queue = false := by
    unfold noLowSlot; rw [decide_eq_false (by omega), decide_eq_false (by omega)]; rfl
  have hwaits : (s.bus.queue.any fun g => g.kind == .presence && !g.sending) = false :=
    List.any_eq_false.2 fun g hg => by simp [hnone g hg]
  unfold handFrame
  rw [if_neg (not_not_intro hrun), if_pos (show waitingPresence.kind = .presence from rfl), hwaits, hslot]; rfl

/-- Behind a PRESENCE that waits already none is handed. -/
theorem handPresence_waiting (h : ∃ g ∈ s.bus.queue, g.kind = .presence ∧ g.sending = false) :
    handFrame waitingPresence s = s := by
  obtain ⟨g, hg, hkind, hsending⟩ := h
  have hwaits : (s.bus.queue.any fun g => g.kind == .presence && !g.sending) = true :=
    List.any_eq_true.2 ⟨g, hg, by simp [hkind, hsending]⟩
  unfold handFrame
  rw [if_pos (show waitingPresence.kind = .presence from rfl), hwaits, Bool.true_or, if_pos rfl, ite_self]

theorem handPresence_status (s : State) : (handFrame waitingPresence s).status = s.status := by
  rcases handPresence_cases s with h | h <;> rw [h]; rfl

end

/-! ### The absence check, station by station (R144) -/

/-- A station's record is found absent now. -/
def silentNow (s : State) (a : Station) : Bool :=
  (s.peers.record a).silent s.seq.clock (s.settings.loss * s.settings.presence)

/-- The absence check of one station. -/
def absenceStep (s : State) (i : Nat) : State :=
  if silentNow s (BitVec.ofNat 4 i) then
    absenceReported (BitVec.ofNat 4 i) (setPeer (BitVec.ofNat 4 i) (s.peers.record (BitVec.ofNat 4 i)).gone s)
  else s

theorem absenceCheck_eq (s : State) : absenceCheck s = (List.range 16).foldl absenceStep s := rfl

section
variable {s : State} {a b : Station} {i : Nat}

theorem absenceStep_present (h : silentNow s (BitVec.ofNat 4 i) = false) : absenceStep s i = s := by
  unfold absenceStep; rw [h]; rfl

theorem absenceStep_silent (h : silentNow s (BitVec.ofNat 4 i) = true) :
    absenceStep s i =
      absenceReported (BitVec.ofNat 4 i) (setPeer (BitVec.ofNat 4 i) (s.peers.record (BitVec.ofNat 4 i)).gone s) :=
  if_pos h

/-- The check of stations of which none is silent changes nothing. -/
theorem foldl_absenceStep_present (l : List Nat) (h : ∀ i ∈ l, silentNow s (BitVec.ofNat 4 i) = false) :
    l.foldl absenceStep s = s := by
  induction l with
  | nil => rfl
  | cons i l ih =>
    rw [List.foldl_cons, absenceStep_present (h i List.mem_cons_self)]
    exact ih fun j hj => h j (List.mem_cons_of_mem _ hj)

/-- A record cleared on absence is silent no longer. -/
theorem gone_silent (p : Peer) (now : Word) (limit : Nat) : p.gone.silent now limit = false := rfl

/-- What one step of the check leaves alone. -/
theorem absenceStep_kept (s : State) (i : Nat) :
    (absenceStep s i).seq = s.seq ∧ (absenceStep s i).settings = s.settings ∧
      (absenceStep s i).peers.table.length = s.peers.table.length := by
  unfold absenceStep; split
  · have hact := absenceReported_act (BitVec.ofNat 4 i)
      (setPeer (BitVec.ofNat 4 i) (s.peers.record (BitVec.ofNat 4 i)).gone s)
    exact ⟨hact.core.seq, hact.core.settings, by rw [hact.core.peers]; simp⟩
  · exact ⟨rfl, rfl, rfl⟩

/-- One step of the check clears the record of its own station where that is silent. -/
theorem absenceStep_record (htable : s.peers.table.length = 16) (i : Nat) (b : Station) :
    (absenceStep s i).peers.record b =
      if BitVec.ofNat 4 i = b ∧ silentNow s b = true then (s.peers.record b).gone else s.peers.record b := by
  cases hsilent : silentNow s (BitVec.ofNat 4 i) with
  | false =>
    rw [absenceStep_present hsilent, if_neg]
    rintro ⟨rfl, h⟩
    rw [h] at hsilent; cases hsilent
  | true =>
    rw [absenceStep_silent hsilent, (absenceReported_act _ _).core.peers, setPeer_peers]
    by_cases hb : BitVec.ofNat 4 i = b
    · subst hb
      rw [PeerUnit.record_set_same htable, if_pos ⟨rfl, hsilent⟩]
    · rw [PeerUnit.record_set_ne _ _ (Ne.symm hb), if_neg fun h => hb h.1]

/-- The check clears the record of each silent station it comes to, and no other. -/
theorem foldl_absenceStep_record (l : List Nat) (b : Station) : ∀ s : State, s.peers.table.length = 16 →
    (l.foldl absenceStep s).peers.record b =
      if b ∈ l.map (BitVec.ofNat 4) ∧ silentNow s b = true then (s.peers.record b).gone else s.peers.record b := by
  induction l with
  | nil => intro s _; simp
  | cons i l ih =>
    intro s htable
    obtain ⟨hseq, hsettings, hlength⟩ := absenceStep_kept s i
    have hrecord := absenceStep_record htable i b
    have hsilent : silentNow (absenceStep s i) b =
        ((absenceStep s i).peers.record b).silent s.seq.clock (s.settings.loss * s.settings.presence) := by
      unfold silentNow; rw [hseq, hsettings]
    rw [List.foldl_cons, ih _ (hlength.trans htable), hsilent, hrecord]
    simp only [List.map_cons, List.mem_cons]
    by_cases hcleared : BitVec.ofNat 4 i = b ∧ silentNow s b = true
    · rw [if_pos hcleared, gone_silent, if_neg (by simp), if_pos ⟨.inl hcleared.1.symm, hcleared.2⟩]
    · rw [if_neg hcleared]
      exact if_congr ⟨fun h => ⟨.inr h.1, h.2⟩,
        fun h => ⟨h.1.resolve_left fun hb => hcleared ⟨hb.symm, h.2⟩, h.2⟩⟩ rfl rfl

theorem mem_stations (a : Station) : a ∈ (List.range 16).map (BitVec.ofNat 4) :=
  List.mem_map.2 ⟨a.toNat, List.mem_range.2 a.isLt, by simp⟩

theorem absenceCheck_record (htable : s.peers.table.length = 16) (h : silentNow s a = true) :
    (absenceCheck s).peers.record a = (s.peers.record a).gone := by
  rw [absenceCheck_eq, foldl_absenceStep_record _ _ _ htable, if_pos ⟨mem_stations a, h⟩]

theorem absenceCheck_none (h : ∀ a, silentNow s a = false) : absenceCheck s = s :=
  foldl_absenceStep_present _ fun _ _ => h _

/-- The check with one silent station is the report of its absence. -/
theorem absenceCheck_one (htable : s.peers.table.length = 16) (ha : silentNow s a = true)
    (hothers : ∀ b, b ≠ a → silentNow s b = false) :
    absenceCheck s = absenceReported a (setPeer a (s.peers.record a).gone s) := by
  obtain ⟨before, behind, hsplit⟩ := List.append_of_mem (List.mem_range.2 a.isLt : a.toNat ∈ List.range 16)
  have hback : BitVec.ofNat 4 a.toNat = a := by simp
  have hbefore : ∀ i ∈ before, BitVec.ofNat 4 i ≠ a := by
    intro i hi hia
    have hnodup : (List.range 16).Nodup := List.nodup_range
    have hlt : i < 16 := List.mem_range.1 (hsplit ▸ List.mem_append_left _ hi)
    have heq : i = a.toNat := by rw [← hia, BitVec.toNat_ofNat, Nat.mod_eq_of_lt hlt]
    rw [hsplit, List.nodup_append] at hnodup
    exact hnodup.2.2 i hi a.toNat List.mem_cons_self heq
  rw [absenceCheck_eq, hsplit, List.foldl_append, foldl_absenceStep_present before fun i hi => hothers _ (hbefore i hi),
    List.foldl_cons]
  have hstep := absenceStep_silent (s := s) (i := a.toNat) (by rw [hback]; exact ha)
  rw [hback] at hstep
  obtain ⟨hseq, hsettings, -⟩ := absenceStep_kept s a.toNat
  rw [foldl_absenceStep_present behind, hstep]
  intro i _
  unfold silentNow
  rw [hseq, hsettings, absenceStep_record htable, hback]
  split
  · rfl
  · rename_i h
    exact hothers _ fun hia => h ⟨hia.symm, by rw [hia]; exact ha⟩

end

/-! ### An absence on the floor, by its state (R153, R166) -/

/-- The floor record in which station a is the known holder no more. -/
def holderDropped (a : Station) (r : FloorRecord) : FloorRecord :=
  if r.holder = some a then { r with holder := none } else r

section
variable {s : State} {a : Station}

theorem dropHolder_eq (a : Station) (s : State) : dropHolder a s = setFloor (holderDropped a s.floor) s := by
  unfold dropHolder holderDropped; split <;> rfl

theorem absenceReported_off (hrun : s.seq.phase = .run) (h : s.floor.state = .off) :
    (absenceReported a s).floor =
      if s.floor.holder = some a then waitStarted s { s.floor with holder := none } else s.floor := by
  unfold absenceReported
  rw [if_pos (inRun_of_run hrun), h]; dsimp only
  split
  · rw [(vacancyFound_floor (s := clearHolder s) (inRun_of_run hrun)).1, if_pos ⟨h, rfl⟩]; rfl
  · rfl

theorem absenceReported_claiming (hrun : s.seq.phase = .run) (h : s.floor.state = .claiming) :
    absenceReported a s = setFloor (holderDropped a s.floor) s := by
  unfold absenceReported
  rw [if_pos (inRun_of_run hrun), h, ← dropHolder_eq]

theorem absenceReported_requesting (hrun : s.seq.phase = .run) (h : s.floor.state = .requesting) :
    absenceReported a s =
      if s.floor.partner = some a then claimFromRequest s else setFloor (holderDropped a s.floor) s := by
  unfold absenceReported
  rw [if_pos (inRun_of_run hrun), h, ← dropHolder_eq]

theorem absenceReported_on (hrun : s.seq.phase = .run) (h : s.floor.state = .on) : absenceReported a s = s := by
  unfold absenceReported
  rw [if_pos (inRun_of_run hrun), h]

theorem absenceReported_yielding (hrun : s.seq.phase = .run) (h : s.floor.state = .yielding) :
    absenceReported a s =
      if s.floor.partner = some a then setFloor { s.floor with state := .on, partner := none, yieldTimer := none } s
      else s := by
  unfold absenceReported
  rw [if_pos (inRun_of_run hrun), h]

theorem absenceReported_draining (hrun : s.seq.phase = .run) (h : s.floor.state = .draining) :
    absenceReported a s = if s.floor.partner = some a then setFloor { s.floor with partner := none } s else s := by
  unfold absenceReported
  rw [if_pos (inRun_of_run hrun), h]

/-- A holding station whose partner is another keeps its floor record. -/
theorem absenceReported_otherPartner (hrun : s.seq.phase = .run)
    (h : s.floor.state = .on ∨ (s.floor.state = .yielding ∨ s.floor.state = .draining) ∧ s.floor.partner ≠ some a) :
    absenceReported a s = s := by
  rcases h with hon | ⟨hyielding | hdraining, hne⟩
  · exact absenceReported_on hrun hon
  · rw [absenceReported_yielding hrun hyielding, if_neg hne]
  · rw [absenceReported_draining hrun hdraining, if_neg hne]

/-- A requester whose partner is absent claims the floor (R155, R166). -/
theorem claimFromRequest_floor (s : State) :
    (claimFromRequest s).floor =
      { s.floor with
        state := .claiming, holder := none, partner := none, reliefTimer := none,
        claimWindow := some s.settings.claimWindow, vacancyTimer := none } := rfl

theorem claimFromRequest_queue (hroom : RoomToSend s) :
    (claimFromRequest s).bus.queue = s.bus.queue ++ [waitingFrame (.claim (knownField s) false) none] := by
  have hclass : (waitingFrame (.claim (knownField s) false) none).cls < 2 := show FrameKind.cls .claim < 2 by decide
  let r : FloorRecord := { s.floor with reliefTimer := none, partner := none, holder := none }
  exact congrArg (fun t : State => t.bus.queue) (handFrame_room (s := setFloor r s) hroom.1 hroom.2 hclass)

end

/-! ### The entry to RUN (R154, R176) -/

/-- The entry to RUN up to its release check, which is made in RUN with release active. -/
def runSettled (s : State) : State := settle (setPhase .run { s with release := { s.release with active := true } })

/-- The entry to RUN up to its vacancy timer. -/
def runPresent (s : State) : State :=
  { handFrame waitingPresence (runSettled s) with
    peers := { (runSettled s).peers with timer := some (runSettled s).settings.presence } }

section
variable {s : State}

theorem vacancyFound_eq (s : State) : vacancyFound s = { s with floor := (vacancyFound s).floor } := by
  unfold vacancyFound; split <;> rfl

theorem restartVacancy_eq (s : State) : restartVacancy s = { s with floor := (restartVacancy s).floor } := by
  unfold restartVacancy; split <;> rfl

theorem enterRun_steps (s : State) : enterRun s = vacancyFound (restartVacancy (runPresent s)) := by
  have hact := handFrame_act waitingPresence (runSettled s)
  unfold enterRun runPresent
  rw [← hact.core.peers, ← hact.core.settings]; rfl

theorem enterRun_eq (s : State) : enterRun s = { runPresent s with floor := (enterRun s).floor } := by
  rw [enterRun_steps, vacancyFound_eq, restartVacancy_eq]

theorem runSettled_act (s : State) :
    ReleaseAct (setPhase .run { s with release := { s.release with active := true } }) (runSettled s) := settle_act _

theorem enterRun_peers (s : State) :
    (enterRun s).peers = { s.peers with timer := some s.settings.presence } := by
  rw [enterRun_eq]
  show ({ (runSettled s).peers with timer := some (runSettled s).settings.presence } : PeerUnit) = _
  rw [(runSettled_act s).core.peers, (runSettled_act s).core.settings]; rfl

/-- The entry to RUN makes the release check, and hands its PRESENCE behind what that has handed. -/
theorem enterRun_release (s : State) :
    (enterRun s).translator = (runSettled s).translator ∧ (enterRun s).release = (runSettled s).release ∧
      (enterRun s).bus = (handFrame waitingPresence (runSettled s)).bus := by
  have hact := handFrame_act waitingPresence (runSettled s)
  rw [enterRun_eq]
  exact ⟨hact.translator, hact.release, rfl⟩

theorem runSettled_run (s : State) : (runSettled s).seq.phase = .run := by rw [(runSettled_act s).core.seq]; rfl


theorem runPresent_kept (s : State) :
    (runPresent s).seq = { s.seq with phase := .run } ∧ (runPresent s).settings = s.settings := by
  have hact := (runSettled_act s).core
  have hhand := (handFrame_act waitingPresence (runSettled s)).core
  exact ⟨hhand.seq.trans hact.seq, hhand.settings.trans hact.settings⟩

theorem enterRun_seq (s : State) : (enterRun s).seq = { s.seq with phase := .run } := by
  rw [enterRun_eq]; exact (runPresent_kept s).1

/-- Where nothing is due the release check at the entry to RUN moves the hold-back timer only. -/
theorem runSettled_nothingDue (h : NothingDue s) : ∃ x,
    runSettled s = setPhase .run { s with release := { s.release with active := true, holdTimer := x } } :=
  settle_none (s := setPhase .run { s with release := { s.release with active := true } }) h

/-- The claim wait that a vacancy starts depends on the clock, the address, the settings and the last stroke time. -/
theorem waitStarted_congr {t : State} (hclock : t.seq.clock = s.seq.clock) (haddr : t.seq.addr = s.seq.addr)
    (hsettings : t.settings = s.settings) (hstroke : t.floor.lastStroke = s.floor.lastStroke) (r : FloorRecord) :
    waitStarted t r = waitStarted s r := by
  unfold waitStarted reporterActive
  rw [hclock, haddr, hsettings, hstroke]

theorem waitStarted_vacancyTimer (s : State) (r : FloorRecord) :
    (waitStarted s r).vacancyTimer = r.vacancyTimer := by
  unfold waitStarted; split <;> rfl

/-- The floor at the entry to RUN: the vacancy timer, and the claim wait where there is no known holder. -/
theorem enterRun_floor (hoff : s.floor.state = .off) (h : NothingDue s) :
    (enterRun s).floor =
      if s.floor.holder = none then waitStarted s { s.floor with vacancyTimer := some (vacancyMs s) }
      else { s.floor with vacancyTimer := some (vacancyMs s) } := by
  obtain ⟨x, hx⟩ := runSettled_nothingDue h
  obtain ⟨hseq, hsettings⟩ := runPresent_kept s
  have hfloor : (runPresent s).floor = s.floor := (handFrame_floor _ _).trans (by rw [hx]; rfl)
  have hrun : inRun (runPresent s) = true := inRun_of_run (by rw [hseq])
  have hvacancy : vacancyMs (runPresent s) = vacancyMs s := by unfold vacancyMs; rw [hsettings]
  rw [enterRun_steps, restartVacancy_off hrun (by rw [hfloor]; exact hoff), hfloor, hvacancy]
  refine (vacancyFound_floor (by exact hrun)).1.trans ?_
  refine if_congr (and_iff_right hoff) ?_ rfl
  refine waitStarted_congr ?_ ?_ ?_ ?_ _
  · show (runPresent s).seq.clock = _; rw [hseq]
  · show (runPresent s).seq.addr = _; rw [hseq]
  · exact hsettings
  · rfl

end

/-! ### The period's acts behind the absence check (R140, R176) -/

/-- The presence timer starts again. -/
def periodStarted (s : State) : State := { s with peers := { s.peers with timer := some s.settings.presence } }

/-- What an expiry of the presence timer does behind the absence check. -/
def periodActs (s : State) : State :=
  match s.seq.phase with
  | .run => handFrame waitingPresence s
  | .listen =>
    let counted := { s with seq := { s.seq with listenExpiries := s.seq.listenExpiries + 1 } }
    if counted.seq.listenExpiries = 2 then enterRun counted else counted
  | .reset | .load | .fault | .scan => s

theorem presenceExpired_eq (s : State) : presenceExpired s = periodActs (absenceCheck (periodStarted s)) := by
  unfold presenceExpired periodStarted
  generalize absenceCheck _ = t
  rfl

section
variable {s : State} {n : Nat}

/-- An expiry command with its timer running acts when the ms left have passed. -/
theorem onExpiry_some (n : Nat) (act : State → State) (s : State) : onExpiry (some n) act s = act (elapse n s) := rfl

theorem exec_presenceTimerExpiry (h : s.peers.timer = some n) :
    exec .presenceTimerExpiry s = .next (periodActs (absenceCheck (periodStarted (elapse n s)))) := by
  show Host.Outcome.next (onExpiry s.peers.timer presenceExpired s) = _
  rw [h, onExpiry_some, presenceExpired_eq]

theorem periodActs_run (h : s.seq.phase = .run) : periodActs s = handFrame waitingPresence s := by
  unfold periodActs; rw [h]

/-- In RUN the absence of one station is reported, and a PRESENCE handed. -/
theorem periodActs_absence {a : Station} (hrun : s.seq.phase = .run) (htable : s.peers.table.length = 16)
    (ha : silentNow s a = true) (hothers : ∀ b, b ≠ a → silentNow s b = false) :
    periodActs (absenceCheck s) =
      handFrame waitingPresence (absenceReported a (setPeer a (s.peers.record a).gone s)) := by
  rw [absenceCheck_one htable ha hothers, periodActs_run]
  rw [(absenceReported_act _ _).core.seq]; exact hrun

theorem periodActs_first (h : s.seq.phase = .listen) (hcount : s.seq.listenExpiries = 0) :
    periodActs s = { s with seq := { s.seq with listenExpiries := 1 } } := by
  unfold periodActs; rw [h]; dsimp only; rw [hcount]; rfl

theorem periodActs_second (h : s.seq.phase = .listen) (hcount : s.seq.listenExpiries = 1) :
    periodActs s = enterRun { s with seq := { s.seq with listenExpiries := 2 } } := by
  unfold periodActs; rw [h]; dsimp only; rw [hcount]; rfl

/-- The peer table stands, and the timer at most starts again. -/
theorem periodActs_peers (s : State) :
    (periodActs s).peers = s.peers ∨ (periodActs s).peers = { s.peers with timer := some s.settings.presence } := by
  unfold periodActs
  split
  · exact .inl (handFrame_act _ s).core.peers
  · dsimp only; split
    · exact .inr (enterRun_peers _)
    · exact .inl rfl
  · exact .inl rfl
  · exact .inl rfl
  · exact .inl rfl
  · exact .inl rfl

theorem periodActs_record (s : State) (a : Station) : (periodActs s).peers.record a = s.peers.record a := by
  rcases periodActs_peers s with h | h <;> rw [h]; rfl

end

/-! ### The statement -/

/-- Settles O53: the period with every peer heard by phase, and an absence by the state of the floor. -/
theorem presencePeriodDrivesListenAndRun : Obligations.PresencePeriodDrivesListenAndRun := by
  refine ⟨?_, ?_, fun s htimer => ?_⟩
  · intro s n htimer e hpresent
    let p := periodStarted e
    let c : State := { p with seq := { p.seq with listenExpiries := 2 } }
    have hexec := exec_presenceTimerExpiry htimer
    rw [absenceCheck_none (s := p) hpresent] at hexec
    have hpeers : (periodActs p).peers = p.peers := (periodActs_peers p).elim id id
    have hsecond : s.seq.phase = .listen → s.seq.listenExpiries = 1 → periodActs p = enterRun c :=
      periodActs_second (s := p)
    refine ⟨_, hexec, hpeers, fun hrun hnone hroom => ?_, fun hrun hwaiting => ?_, fun hlisten hcount => ?_,
      fun hlisten hcount hqueue hoff hdue => ?_, fun hlisten hcount hoff => ?_⟩
    · rw [periodActs_run (s := p) hrun, handPresence_joins (s := p) hrun hnone hroom]; rfl
    · rw [periodActs_run (s := p) hrun, handPresence_waiting (s := p) hwaiting]; rfl
    · rw [periodActs_first (s := p) hlisten hcount]; rfl
    · obtain ⟨x, hx⟩ := runSettled_nothingDue (s := c) hdue
      obtain ⟨-, hrelease, hbus⟩ := enterRun_release c
      have hfloor := enterRun_floor (s := c) hoff hdue
      have hempty : (runSettled c).bus.queue = [] := by rw [hx]; exact hqueue
      rw [handPresence_joins (runSettled_run c) (by simp [hempty]) (by simp [hempty])] at hbus
      rw [hsecond hlisten hcount]
      refine ⟨enterRun_seq c, by rw [hrelease, hx]; rfl, by rw [hbus, setQueue_bus, hempty]; rfl, ?_,
        fun hheld => hfloor.trans (if_neg hheld), fun hfree => hfloor.trans (if_pos hfree)⟩
      rw [hfloor]; split
      · exact waitStarted_vacancyTimer _ _
      · rfl
    · obtain ⟨htranslator, hrelease, hbus⟩ := enterRun_release c
      rw [hpeers, hsecond hlisten hcount]
      refine ⟨runSettled c, settle_check _, htranslator, hrelease, fun hnone hroom => ?_⟩
      rw [hbus, handPresence_joins (runSettled_run c) hnone hroom]; rfl
  · intro s n a htimer htable hsilent
    let p := periodStarted (elapse n s)
    let w := setPeer a (p.peers.record a).gone p
    have hexec := exec_presenceTimerExpiry htimer
    refine ⟨_, hexec, ?_, ?_⟩
    · have hgone := absenceCheck_record (s := p) (a := a) htable hsilent
      rw [periodActs_record, hgone]; rfl
    · intro hrun hothers e unheld
      have hact := absenceReported_act a w
      have hhand := handFrame_act waitingPresence (absenceReported a w)
      rw [periodActs_absence (s := p) hrun htable hsilent hothers, handFrame_floor, handFrame_notes,
        handPresence_status]
      refine ⟨hhand.translator.trans hact.translator, hhand.release.trans hact.release,
        absenceReported_off (s := w) hrun, fun h => ?_, fun h hother => ?_, fun h hpartner => ⟨?_, fun hroom => ?_⟩,
        fun h => ?_, fun h hpartner => ?_, fun h hpartner => ?_⟩
      · rw [absenceReported_claiming (s := w) hrun h]; rfl
      · rw [absenceReported_requesting (s := w) hrun h, if_neg (by exact hother)]; rfl
      · rw [absenceReported_requesting (s := w) hrun h, if_pos (by exact hpartner), claimFromRequest_floor]; rfl
      · rw [absenceReported_requesting (s := w) hrun h, if_pos (by exact hpartner)]
        have hqueue := claimFromRequest_queue (s := w) ⟨hrun, hroom⟩
        obtain ⟨more, hmore⟩ := handPresence_behind (claimFromRequest w)
        exact ⟨more, hmore.trans (by rw [hqueue, List.append_assoc]; rfl)⟩
      · rw [absenceReported_otherPartner (s := w) hrun h]; rfl
      · rw [absenceReported_yielding (s := w) hrun h, if_pos (by exact hpartner)]; exact ⟨rfl, rfl, rfl⟩
      · rw [absenceReported_draining (s := w) hrun h, if_pos (by exact hpartner)]; rfl
  · show Host.Outcome.next (onExpiry s.peers.timer presenceExpired s) = _
    rw [htimer]; rfl

end Sys2Proof.Machine
end

section
/-! PROOFS. Floor outcomes: PENDING units given their stream, ON or OFF entered, and the release check that follows
(R111, R113, R152, R157, R165). -/

namespace Sys2Proof.Machine

/-! ### Units given another stream, then an act of the floor controller (R111, R113) -/

section
variable {s m : State} {was : Stream} {now : TextUnit → Stream}

theorem FloorAct.restreamed_history (h : FloorAct (restream was now s) m) :
    m.translator.history = Restreamed was now s.translator.history := by
  rw [h.translator, restream_history]

theorem FloorAct.restreamed_outside (h : FloorAct (restream was now s) m) : OutsideFloor s m :=
  ((restream_act was now s).trans h.toRelease).outsideFloor (by rw [h.release]; rfl)

theorem FloorAct.outsideFloor (h : FloorAct s m) : OutsideFloor s m :=
  h.toRelease.outsideFloor (by rw [h.release])

theorem FloorAct.restreamed_nothingDue (h : FloorAct (restream was now s) m) (hnone : NothingDue s) : NothingDue m :=
  h.nothingDue (hnone.restream was now)

/-- The release check behind it. -/
theorem FloorAct.restreamed_then (h : FloorAct (restream was now s) m) : ThenReleases s m (Machine.settle m) :=
  settle_then h.restreamed_nothingDue

end

/-! ### The floor gained (R152, R157, R163) -/

/-- PENDING units are given their stream and ON is entered, before the release check. -/
def floorGained (now : TextUnit → Stream) (s : State) : State := enterOn (restream .pending now s)

section
variable {s : State} {now : TextUnit → Stream}

theorem claimWon_eq (s : State) : claimWon s = settle (floorGained (fun _ => .official) s) := rfl

theorem floorGained_act (now : TextUnit → Stream) (s : State) :
    FloorAct (restream .pending now s) (floorGained now s) := enterOn_act _

theorem floorGained_floor : (floorGained now s).floor = onRecord s := enterOn_floor _

theorem floorGained_bus : (floorGained now s).bus = s.bus := enterOn_bus _

/-- Its FLOOR note, where only the flush timer has run since s. -/
theorem floorGained_noted {t : State} (h : t.notes = { s.notes with flushTimer := t.notes.flushTimer }) :
    Noted s (floorGained now t) (.floor true (knownField t)) :=
  enterOn_noted (s' := restream .pending now t) h

theorem requestPattern_run (p : Pattern) (h : s.seq.phase = .run) :
    requestPattern p s = { s with status := s.status.request p } :=
  if_neg (by rw [h]; decide)

/-- With room for its note a gain of the floor only requests its pattern. -/
theorem floorGained_status (hrun : s.seq.phase = .run) (hopened : s.notes.opened = true) (hroom : RoomForNotes s 8) :
    (floorGained now s).status = s.status.request .floorGained := by
  let r := setFloor (onRecord s) (restream .pending now s)
  have hphase : (floorNote true r).seq.phase = .run := by
    unfold floorNote; rw [(handNote_act _ r).core.seq]; exact hrun
  have hstatus : (floorNote true r).status = s.status := handNote_status (s := r) _ hopened hroom
  show (requestPattern .floorGained (floorNote true r)).status = _
  rw [requestPattern_run _ hphase, ← hstatus]

/-! ### Timers that run in one state of the floor -/

/-- The timer's expiry in its state, in RUN: its ms have passed, and it acts. -/
theorem floorExpiry_some {x : FloorState} {timer : Option Nat} {n : Nat} (act : State → State)
    (hrun : s.seq.phase = .run) (hstate : s.floor.state = x) (htimer : timer = some n) :
    (if inRun s ∧ s.floor.state = x then onExpiry timer act s else s) = act (elapse n s) := by
  rw [if_pos ⟨inRun_of_run hrun, hstate⟩, htimer, onExpiry_some]

/-- Outside RUN, in another state or with the timer stopped an expiry does nothing. -/
theorem floorExpiry_idle {x : FloorState} {timer : Option Nat} (act : State → State)
    (h : s.seq.phase ≠ .run ∨ s.floor.state ≠ x ∨ timer = none) :
    (if inRun s ∧ s.floor.state = x then onExpiry timer act s else s) = s := by
  split
  · rename_i hactive
    obtain ⟨hrun, hstate⟩ := hactive
    rcases h with hphase | hother | htimer
    · exact absurd (of_decide_eq_true hrun) hphase
    · exact absurd hstate hother
    · rw [htimer]; rfl
  · rfl

theorem exec_claimWindowExpiry {n : Nat} (hrun : s.seq.phase = .run) (hclaiming : s.floor.state = .claiming)
    (htimer : s.floor.claimWindow = some n) :
    exec .claimWindowExpiry s = .next (settle (floorGained (fun _ => .official) (elapse n s))) :=
  congrArg Host.Outcome.next (floorExpiry_some claimWon hrun hclaiming htimer)

end

/-- Settles O45: the gain of the floor when the window has passed; a stopped window, or a window of no claim, does
nothing. -/
theorem claimWindowWinsTheFloor : Obligations.ClaimWindowWinsTheFloor := by
  refine ⟨?_, fun s hother => ?_⟩
  · intro s n hrun hclaiming htimer e
    have hact := floorGained_act (fun _ => .official) e
    exact ⟨_, _, exec_claimWindowExpiry hrun hclaiming htimer, hact.restreamed_then, floorGained_floor,
      hact.restreamed_history, floorGained_noted (t := e) rfl,
      fun hroom hopened => floorGained_status (s := e) hrun hopened hroom, hact.release, floorGained_bus,
      hact.restreamed_outside⟩
  · exact congrArg Host.Outcome.next (floorExpiry_idle claimWon hother)

end Sys2Proof.Machine
end

section
/-! PROOFS. A relief request that ends without the floor: RELIEF_BUSY_RECEIVED and RELIEF_TIMER_EXPIRY (R113, R153,
R165). -/

namespace Sys2Proof.Machine

/-! ### The request ended (R165) -/

section
variable {s : State} {f : Flag}

/-- Beside the units' streams a request ended is an act of the floor controller. -/
theorem requestEnded_floorAct (f : Flag) (s : State) :
    FloorAct (restream .pending (fun _ => .shadow) s) (requestEnded f s) :=
  (setFlag_act _ _).trans (enterOff_act _)

theorem requestEnded_floor : (requestEnded f s).floor = offRecord s := by
  unfold requestEnded
  rw [enterOff_floor]
  simp only [offRecord, vacancyMs, setFlag_floor, (setFlag_act _ _).core.settings]
  rfl

theorem requestEnded_isSet (h : f ≠ .noteLost) : (requestEnded f s).status.isSet f = true := by
  unfold requestEnded
  rw [enterOff_isSet _ h, isSet_setFlag]; simp

/-- Its FLOOR note, where only the flush timer has run since s. -/
theorem requestEnded_noted {t : State} (h : t.notes = { s.notes with flushTimer := t.notes.flushTimer }) :
    Noted s (requestEnded f t) (.floor false (knownField t)) := by
  let r := setFlag f (restream .pending (fun _ => .shadow) t)
  have hnotes : r.notes = t.notes := setFlag_notes _ _
  have hknown : knownField r = knownField t := by unfold knownField; rw [(setFlag_act _ _).release]; rfl
  rw [← hknown]
  exact enterOff_noted (s' := r) (by rw [hnotes]; exact h)

/-! ### The answer NOT_HOLDER (R153, R154) -/

/-- The floor record of a vacancy found in OFF. -/
theorem vacancyFound_vacant (hrun : s.seq.phase = .run) (hoff : s.floor.state = .off) (hnone : s.floor.holder = none) :
    (vacancyFound s).floor = waitStarted s s.floor :=
  (vacancyFound_floor (inRun_of_run hrun)).1.trans (if_pos ⟨hoff, hnone⟩)

theorem vacancyFound_held (hrun : s.seq.phase = .run) (h : s.floor.state ≠ .off ∨ s.floor.holder ≠ none) :
    (vacancyFound s).floor = s.floor :=
  (vacancyFound_floor (inRun_of_run hrun)).1.trans (if_neg (by tauto))

/-- The known holder says that it holds no floor: it is cleared, and vacancy is found. -/
def notHolderHeard (a : Station) (notHolder : Bool) (s : State) : State :=
  if notHolder ∧ s.floor.holder = some a then vacancyFound (clearHolder s) else s

variable {a : Station} {notHolder : Bool}

theorem notHolderHeard_act (a : Station) (notHolder : Bool) (s : State) :
    FloorAct s (notHolderHeard a notHolder s) := by
  unfold notHolderHeard; split
  · exact (clearHolder_act s).trans (vacancyFound_act _)
  · exact .refl s

/-- It touches the floor record only. -/
theorem notHolderHeard_eq (a : Station) (notHolder : Bool) (s : State) :
    notHolderHeard a notHolder s = { s with floor := (notHolderHeard a notHolder s).floor } := by
  unfold notHolderHeard; split
  · rw [vacancyFound_eq]; rfl
  · rfl

theorem notHolderHeard_vacant (hrun : s.seq.phase = .run) (hoff : s.floor.state = .off)
    (hholder : s.floor.holder = some a) :
    (notHolderHeard a true s).floor = waitStarted s { s.floor with holder := none } := by
  unfold notHolderHeard
  rw [if_pos ⟨rfl, hholder⟩, vacancyFound_vacant (s := clearHolder s) hrun hoff rfl]
  exact waitStarted_congr rfl rfl rfl rfl _

theorem notHolderHeard_kept (h : notHolder = false ∨ s.floor.holder ≠ some a) : notHolderHeard a notHolder s = s :=
  if_neg fun ⟨hanswer, hholder⟩ => h.elim (fun hbusy => by rw [hbusy] at hanswer; cases hanswer) (absurd hholder)

/-! ### The partner's refusal, before the release check (R165) -/

/-- The request is ended by its partner's refusal. -/
def requestRefused (a : Station) (notHolder : Bool) (s : State) : State :=
  notHolderHeard a notHolder (requestEnded .reliefRefused s)

theorem requestRefused_act (a : Station) (notHolder : Bool) (s : State) :
    FloorAct (restream .pending (fun _ => .shadow) s) (requestRefused a notHolder s) :=
  (requestEnded_floorAct _ s).trans (notHolderHeard_act _ _ _)

theorem requestRefused_isSet : (requestRefused a notHolder s).status.isSet .reliefRefused = true := by
  unfold requestRefused
  rw [notHolderHeard_eq]; exact requestEnded_isSet (by decide)

theorem requestRefused_noted : Noted s (requestRefused a notHolder s) (.floor false (knownField s)) := by
  unfold requestRefused
  rw [notHolderHeard_eq]; exact requestEnded_noted (s := s) (t := s) rfl

/-- After NOT_HOLDER from the known holder vacancy is found at once. -/
theorem requestRefused_vacant (hrun : s.seq.phase = .run) (hholder : s.floor.holder = some a) :
    (requestRefused a true s).floor = waitStarted s { offRecord s with holder := none } := by
  have hact := requestEnded_floorAct .reliefRefused s
  have hfloor : (requestEnded .reliefRefused s).floor = offRecord s := requestEnded_floor
  unfold requestRefused
  rw [notHolderHeard_vacant (by rw [hact.core.seq]; exact hrun) (by rw [hfloor]; rfl) (by rw [hfloor]; exact hholder),
    hfloor]
  exact waitStarted_congr (by rw [hact.core.seq]) (by rw [hact.core.seq]) hact.core.settings
    (by rw [hfloor]; rfl) _

theorem requestRefused_floor (h : notHolder = false ∨ s.floor.holder ≠ some a) :
    (requestRefused a notHolder s).floor = offRecord s := by
  have hfloor : (requestEnded .reliefRefused s).floor = offRecord s := requestEnded_floor
  unfold requestRefused
  rw [notHolderHeard_kept (h.imp_right fun hother => by rw [hfloor]; exact hother), hfloor]

theorem reliefRefused_partner (hrun : s.seq.phase = .run) (hasking : s.floor.state = .requesting)
    (hpartner : s.floor.partner = some a) :
    reliefRefused a notHolder s = settle (requestRefused a notHolder s) :=
  if_pos ⟨inRun_of_run hrun, hasking, hpartner⟩

theorem reliefRefused_ignored (h : ¬ (s.seq.phase = .run ∧ s.floor.state = .requesting ∧ s.floor.partner = some a)) :
    reliefRefused a notHolder s = s :=
  if_neg fun ⟨hrun, hasking⟩ => h ⟨of_decide_eq_true hrun, hasking⟩

/-! ### The statement -/

theorem exec_reliefBusyReceived {f : LineFrame} (h : Accepts s f a (.reliefBusy notHolder)) :
    exec (.reliefBusyReceived f) s = .next (reliefRefused a notHolder (frameEnded f s)) :=
  congrArg Host.Outcome.next (receive_accepted takeReliefBusy h)

theorem exec_reliefTimerExpiry {n : Nat} (hrun : s.seq.phase = .run) (hasking : s.floor.state = .requesting)
    (htimer : s.floor.reliefTimer = some n) :
    exec .reliefTimerExpiry s = .next (settle (requestEnded .reliefTimeout (elapse n s))) :=
  congrArg Host.Outcome.next (floorExpiry_some reliefExpired hrun hasking htimer)

end

/-- Settles O41: the refusal of the partner and the end of the timer, each a request ended; else nothing moves. -/
theorem reliefRequestEnds : Obligations.ReliefRequestEnds := by
  refine ⟨?_, ?_, fun s hother => ?_⟩
  · intro s f a notHolder haccepts ends
    let r := frameEnded f s
    have hexec := exec_reliefBusyReceived haccepts
    by_cases hends : ends
    · obtain ⟨hrun, hasking, hpartner⟩ := hends
      have hact := requestRefused_act a notHolder r
      rw [reliefRefused_partner (s := r) hrun hasking hpartner] at hexec
      refine ⟨_, _, hexec, ⟨fun _ => hact.restreamed_then, fun hc => absurd ⟨hrun, hasking, hpartner⟩ hc⟩,
        hact.restreamed_outside, fun _ => ⟨hact.restreamed_history, requestRefused_isSet, ?_,
          requestRefused_floor (s := r), requestRefused_noted (s := r)⟩, fun hc => absurd ⟨hrun, hasking, hpartner⟩ hc⟩
      rintro rfl hholder
      exact requestRefused_vacant (s := r) hrun hholder
    · rw [reliefRefused_ignored (s := r) hends] at hexec
      exact ⟨r, r, hexec, ⟨fun hc => absurd hc hends, fun _ => rfl⟩, (ReleaseAct.refl r).outsideFloor rfl,
        fun hc => absurd hc hends, fun _ => rfl⟩
  · intro s n hrun hasking htimer e
    have hact := requestEnded_floorAct .reliefTimeout e
    exact ⟨_, _, exec_reliefTimerExpiry hrun hasking htimer, hact.restreamed_then, requestEnded_floor,
      requestEnded_isSet (by decide), hact.restreamed_history, requestEnded_noted (t := e) rfl, hact.restreamed_outside⟩
  · exact congrArg Host.Outcome.next (floorExpiry_idle reliefExpired (hother.imp_right .inl))

end Sys2Proof.Machine
end

section
/-! PROOFS. PASS_RECEIVED naming this station: the known, the converted cut, and the floor gained (R113, R119, R147,
R152, R163). -/

namespace Sys2Proof.Machine

/-! ### The known and the cut of a PASS (R119, R147) -/

section
variable {known : Option Word} {k v cut : Word} {u : PeerUnit} {a : Station}

theorem passed_zero (known : Option Word) : passed known 0 = known := if_pos rfl

theorem passed_none (hv : v ≠ 0) : passed none v = some v := if_neg hv

/-- A known that is higher than the value passed stands. -/
theorem passed_lower (hv : v ≠ 0) (h : 0 < (k - v).toInt) : passed (some k) v = some k := by
  unfold passed
  rw [if_neg hv]; exact if_pos (decide_eq_true h)

theorem passed_taken (hv : v ≠ 0) (h : (k - v).toInt ≤ 0) : passed (some k) v = some v := by
  unfold passed
  rw [if_neg hv]; exact if_neg (by simpa [higher] using h)

theorem convertTime_estimated {e : Int} (h : (u.record a).offset = some e) :
    convertTime u a cut = (convertWith e cut, true) := by
  unfold convertTime; rw [h]

theorem convertTime_missing (h : (u.record a).offset = none) : convertTime u a cut = (cut, false) := by
  unfold convertTime; rw [h]

theorem streamAtCut_eq (cut : Word) :
    streamAtCut cut = fun u => if 0 < (u.start - cut).toInt then .official else .shadow := by
  funext u; simp [streamAtCut, after, interval]

end

/-! ### The PASS heard, before the release check (R163) -/

/-- A PASS by which the floor is gained, noted before that: the known it passes, and NO_OFFSET where its cut could not
be converted. -/
def passNoted (a : Station) (known cut : Word) (s : State) : State :=
  passKnown known { s with status := (setFlagIf (!(convertTime s.peers a cut).2) .noOffset s).status }

/-- The PASS gives the floor, or only its known to a holding station; before RUN the known holder is cleared. -/
def passHeard (a : Station) (known cut : Word) (s : State) : State :=
  if s.seq.phase = .run then
    match s.floor.state with
    | .off | .claiming | .requesting =>
      floorGained (streamAtCut (convertTime s.peers a cut).1) (passNoted a known cut s)
    | .on | .yielding | .draining => passKnown known s
  else clearHolder (passKnown known s)

section
variable {s : State} {a : Station} {known cut : Word}

theorem not_holding_iff (s : State) :
    ¬ Holding s ↔ s.floor.state = .off ∨ s.floor.state = .claiming ∨ s.floor.state = .requesting := by
  unfold Holding; cases s.floor.state <;> decide

theorem passGained_eq (a : Station) (known cut : Word) (s : State) :
    passGained a known cut s =
      settle (floorGained (streamAtCut (convertTime s.peers a cut).1) (passNoted a known cut s)) := by
  unfold passGained passNoted
  rw [← setFlagIf_eq]; rfl

theorem passHeard_gained (hrun : s.seq.phase = .run) (h : ¬ Holding s) :
    passHeard a known cut s =
      floorGained (streamAtCut (convertTime s.peers a cut).1) (passNoted a known cut s) := by
  unfold passHeard; rw [if_pos hrun]
  rcases (not_holding_iff s).1 h with h | h | h <;> rw [h]

theorem passHeard_holding (hrun : s.seq.phase = .run) (h : Holding s) :
    passHeard a known cut s = passKnown known s := by
  unfold passHeard; rw [if_pos hrun]
  rcases h with h | h | h <;> rw [h]

theorem passHeard_idle (h : s.seq.phase ≠ .run) : passHeard a known cut s = clearHolder (passKnown known s) := if_neg h

theorem passTaken_gained (hrun : s.seq.phase = .run) (h : ¬ Holding s) :
    passTaken a known cut s = settle (passHeard a known cut s) := by
  rw [passHeard_gained hrun h, ← passGained_eq]
  unfold passTaken; rw [if_pos (inRun_of_run hrun)]
  rcases (not_holding_iff s).1 h with h | h | h <;> rw [h]

theorem passTaken_kept (h : ¬ (s.seq.phase = .run ∧ ¬ Holding s)) :
    passTaken a known cut s = passHeard a known cut s := by
  unfold passTaken
  by_cases hrun : s.seq.phase = .run
  · have hholding : Holding s := not_not.1 fun hother => h ⟨hrun, hother⟩
    rw [passHeard_holding hrun hholding, if_pos (inRun_of_run hrun)]
    rcases hholding with h | h | h <;> rw [h]
  · rw [passHeard_idle hrun, if_neg (by simpa [inRun] using hrun)]

/-- In every state the PASS gives its known, and leaves alone what a floor frame does. -/
theorem passHeard_kept (a : Station) (known cut : Word) (s : State) :
    (passHeard a known cut s).release = { s.release with known := passed s.release.known known } ∧
      OutsideFloor s (passHeard a known cut s) := by
  by_cases hrun : s.seq.phase = .run
  · by_cases hholding : Holding s
    · rw [passHeard_holding hrun hholding]
      exact ⟨rfl, (passKnown_act known s).outsideFloor rfl⟩
    · have hact := floorGained_act (streamAtCut (convertTime s.peers a cut).1) (passNoted a known cut s)
      rw [passHeard_gained hrun hholding]
      exact ⟨hact.release, hact.restreamed_outside⟩
  · rw [passHeard_idle hrun]
    exact ⟨rfl, ((passKnown_act known s).trans (clearHolder_act _).toRelease).outsideFloor rfl⟩

theorem passTaken_releases (a : Station) (known cut : Word) (s : State) :
    ReleasesWhere (s.seq.phase = .run ∧ ¬ Holding s) s (passHeard a known cut s) (passTaken a known cut s) := by
  refine ⟨fun ⟨hrun, hother⟩ => ?_, passTaken_kept⟩
  have hact := floorGained_act (streamAtCut (convertTime s.peers a cut).1) (passNoted a known cut s)
  rw [passTaken_gained hrun hother, passHeard_gained hrun hother]
  exact hact.restreamed_then

theorem floorGained_isSet {now : TextUnit → Stream} {g : Flag} (h : g ≠ .noteLost) :
    (floorGained now s).status.isSet g = s.status.isSet g := enterOn_isSet _ h

/-- NO_OFFSET becomes set by a gain of the floor whose cut could not be converted. -/
theorem passHeard_noOffset (hrun : s.seq.phase = .run) (h : ¬ Holding s) :
    (passHeard a known cut s).status.isSet .noOffset =
      (s.status.isSet .noOffset || !(convertTime s.peers a cut).2) := by
  rw [passHeard_gained hrun h, floorGained_isSet (by decide)]
  exact (isSet_setFlagIf _ _ _ _).trans (by simp)

theorem passHeard_noted (hrun : s.seq.phase = .run) (h : ¬ Holding s) :
    Noted s (passHeard a known cut s) (.floor true ((passHeard a known cut s).release.known.getD 0)) := by
  rw [passHeard_gained hrun h, (floorGained_act _ _).release]
  exact floorGained_noted (t := passNoted a known cut s) rfl

theorem passHeard_history (hrun : s.seq.phase = .run) (h : ¬ Holding s) :
    (passHeard a known cut s).translator.history =
      Restreamed .pending (streamAtCut (convertTime s.peers a cut).1) s.translator.history := by
  rw [passHeard_gained hrun h]
  exact (floorGained_act _ (passNoted a known cut s)).restreamed_history

theorem passHeard_floor (hrun : s.seq.phase = .run) (h : ¬ Holding s) :
    (passHeard a known cut s).floor = onRecord s := by
  rw [passHeard_gained hrun h]
  exact floorGained_floor (s := passNoted a known cut s)

/-! ### The statement -/

theorem exec_passReceived {f : LineFrame} (h : Accepts s f a (.pass s.seq.addr known cut)) :
    exec (.passReceived f) s = .next (passTaken a known cut (frameEnded f s)) := by
  refine congrArg Host.Outcome.next ((receive_accepted takePass h).trans ?_)
  exact if_pos rfl

end

/-- Settles O42: the PASS heard by phase and by whether the station holds the floor, the release check behind a gain. -/
theorem passGivesTheFloor : Obligations.PassGivesTheFloor := by
  intro s f a known cut haccepts
  let r := frameEnded f s
  obtain ⟨hrelease, houtside⟩ := passHeard_kept a known cut r
  have hknown : (passHeard a known cut r).release.known = passed s.release.known known := by rw [hrelease]; rfl
  refine ⟨_, passHeard a known cut r, exec_passReceived haccepts, passTaken_releases a known cut r, houtside,
    fun k hk hne hlower => ?_, fun k hk hne htaken => ?_, fun hnone hne => ?_, ?_, fun hrun hother => ?_,
    fun hrun hholding => ?_, fun hidle => ?_⟩
  · rw [hknown, hk, passed_lower hne hlower]
  · rw [hknown, hk, passed_taken hne htaken]
  · rw [hknown, hnone, passed_none hne]
  · rintro rfl
    rw [hknown, passed_zero]
  · have hflag := passHeard_noOffset (a := a) (known := known) (cut := cut) (s := r) hrun hother
    have hhistory := passHeard_history (a := a) (known := known) (cut := cut) (s := r) hrun hother
    rw [streamAtCut_eq] at hhistory
    refine ⟨passHeard_floor (s := r) hrun hother, ?_, fun hnone => ?_, fun hsome => ?_,
      passHeard_noted (s := r) hrun hother⟩
    · cases hoffset : (s.peers.record a).offset with
      | none => rw [convertTime_missing (u := r.peers) hoffset] at hhistory; exact hhistory
      | some e => rw [convertTime_estimated (u := r.peers) hoffset] at hhistory; exact hhistory
    · rw [hflag, convertTime_missing (u := r.peers) hnone]; exact Bool.or_true _
    · obtain ⟨e, he⟩ := Option.ne_none_iff_exists'.1 hsome
      rw [hflag, convertTime_estimated (u := r.peers) he]; exact Bool.or_false _
  · rw [passTaken_kept (s := r) fun h => h.2 hholding, passHeard_holding (s := r) hrun hholding]
    exact ⟨rfl, rfl, rfl⟩
  · rw [passTaken_kept (s := r) fun h => hidle h.1, passHeard_idle (s := r) hidle]
    exact ⟨rfl, rfl⟩

end Sys2Proof.Machine
end

section
/-! PROOFS. Floor frames answered: RELIEF_REQ_RECEIVED and CLAIM_RECEIVED (R113, R118, R130, R153, R156, R157, R159,
R162). -/

namespace Sys2Proof.Machine

/-! ### A frame of class 0 or 1 handed, and the drain check behind it (R130, R162) -/

section
variable {s t : State} {m : Msg} {a : Station}

theorem reliefBusy_urgent (notHolder : Bool) : (Msg.reliefBusy notHolder).kind.cls < 2 :=
  show FrameKind.cls .reliefBusy < 2 by decide

theorem claim_urgent (known : Word) (held : Bool) : (Msg.claim known held).kind.cls < 2 :=
  show FrameKind.cls .claim < 2 by decide

theorem sendTo_room (hclass : m.kind.cls < 2) (hroom : RoomToSend s) :
    sendTo a m s = setQueue (s.bus.queue ++ [waitingFrame m (some a)]) s :=
  handFrame_room (f := waitingFrame m (some a)) hroom.1 hroom.2 hclass

theorem broadcast_room (hclass : m.kind.cls < 2) (hroom : RoomToSend s) :
    broadcast m s = setQueue (s.bus.queue ++ [waitingFrame m none]) s :=
  handFrame_room (f := waitingFrame m none) hroom.1 hroom.2 hclass

/-- With a slot free the drain check at most hands one frame more behind the others. -/
theorem DrainChecked.queue_behind (h : DrainChecked s t) (hroom : RoomToSend s) :
    ∃ more, t.bus.queue = s.bus.queue ++ more := by
  by_cases hdrained : s.floor.state = .draining ∧
      (∀ u ∈ s.translator.history, u.released = false → u.stream ≠ .official) ∧ ∀ f ∈ s.bus.queue, f.kind ≠ .text
  · obtain ⟨-, -, -, hpass, hfree, -⟩ := h.2 hdrained
    cases hpartner : s.floor.partner with
    | none => exact ⟨_, (hfree hpartner).2 hroom⟩
    | some p => exact ⟨_, (hpass p hpartner).2 hroom⟩
  · rw [h.1 hdrained]; exact ⟨[], (List.append_nil _).symm⟩

/-- With two slots free the frame handed waits in front of what the drain check hands. -/
theorem urgent_queue {hand : State → State} {f : TxFrame} (hhand : hand s = setQueue (s.bus.queue ++ [f]) s)
    (hrun : s.seq.phase = .run) (hroom : s.bus.queue.length < 23) :
    ∃ more, (urgent hand s).bus.queue = s.bus.queue ++ f :: more := by
  have hslot : RoomToSend (setQueue (s.bus.queue ++ [f]) s) := ⟨hrun, by simp; omega⟩
  obtain ⟨more, hmore⟩ := (drainCheck_checked _).queue_behind hslot
  refine ⟨more, ?_⟩
  unfold urgent
  rw [hhand, hmore]; simp

/-- Outside DRAINING it is only handed. -/
theorem urgent_undrained {hand : State → State} (h : (hand s).floor.state ≠ .draining) : urgent hand s = hand s :=
  (drainCheck_checked _).undrained h

/-! ### A request for relief (R159) -/

theorem reliefAsked_idle (h : s.seq.phase ≠ .run) : reliefAsked a s = s := if_neg (by simpa [inRun] using h)

theorem reliefAsked_on (hrun : s.seq.phase = .run) (h : s.floor.state = .on) :
    reliefAsked a s =
      { s with
        floor :=
          { s.floor with state := .yielding, partner := some a, yieldTimer := some (s.settings.yieldTime * 1000) }
        status := s.status.request .reliefAsked } := by
  unfold reliefAsked
  rw [if_pos (inRun_of_run hrun), h]
  exact requestPattern_run _ hrun

theorem reliefAsked_promised (hrun : s.seq.phase = .run) (h : s.floor.state = .yielding ∨ s.floor.state = .draining) :
    reliefAsked a s = if s.floor.partner = some a then s else urgent (sendTo a (.reliefBusy false)) s := by
  unfold reliefAsked
  rw [if_pos (inRun_of_run hrun)]
  rcases h with h | h <;> rw [h]

theorem reliefAsked_notHolder (hrun : s.seq.phase = .run) (h : ¬ Holding s) :
    reliefAsked a s = urgent (sendTo a (.reliefBusy true)) s := by
  unfold reliefAsked
  rw [if_pos (inRun_of_run hrun)]
  rcases (not_holding_iff s).1 h with h | h | h <;> rw [h]

/-- Outside DRAINING a refusal is handed and the floor record stands. -/
theorem refusal_undrained (notHolder : Bool) (h : s.floor.state ≠ .draining) :
    (urgent (sendTo a (.reliefBusy notHolder)) s).floor = s.floor ∧
      (RoomToSend s → (urgent (sendTo a (.reliefBusy notHolder)) s).bus.queue =
        s.bus.queue ++ [waitingFrame (.reliefBusy notHolder) (some a)]) := by
  have hfloor : (sendTo a (.reliefBusy notHolder) s).floor = s.floor := sendTo_floor _ _ _
  rw [urgent_undrained (hand := sendTo a (.reliefBusy notHolder)) (by rw [hfloor]; exact h)]
  exact ⟨hfloor, fun hroom => by rw [sendTo_room (reliefBusy_urgent notHolder) hroom, setQueue_bus]⟩

theorem exec_reliefReqReceived {f : LineFrame} (h : Accepts s f a .reliefReq) :
    exec (.reliefReqReceived f) s = .next (reliefAsked a (frameEnded f s)) :=
  congrArg Host.Outcome.next (receive_accepted takeReliefReq h)

end

/-- Settles O40: the request by the state of the floor, with the drain check behind a refusal. -/
theorem reliefRequestIsAnswered : Obligations.ReliefRequestIsAnswered := by
  intro s f a haccepts
  let r := frameEnded f s
  refine ⟨_, exec_reliefReqReceived haccepts, (reliefAsked_act a r).outsideFloor, reliefAsked_idle (s := r),
    fun hrun => ⟨fun hon => ?_, fun hpromised hpartner => ?_, fun hyielding hother => ?_,
      fun hdraining hother hroom => ?_, fun hnot => ?_⟩⟩
  · rw [reliefAsked_on (s := r) hrun hon]; exact ⟨rfl, rfl, rfl⟩
  · exact (reliefAsked_promised (s := r) hrun hpromised).trans (if_pos hpartner)
  · rw [reliefAsked_promised (s := r) hrun (.inl hyielding), if_neg (by exact hother)]
    exact refusal_undrained (s := r) false (by rw [show r.floor.state = .yielding from hyielding]; decide)
  · rw [reliefAsked_promised (s := r) hrun (.inr hdraining), if_neg (by exact hother)]
    have hslot : RoomToSend r := ⟨hrun, Nat.lt_succ_of_lt hroom⟩
    exact urgent_queue (s := r) (sendTo_room (reliefBusy_urgent false) hslot) hrun hroom
  · rw [reliefAsked_notHolder (s := r) hrun hnot]
    exact refusal_undrained (s := r) true fun hdraining => hnot (.inr (.inr hdraining))

/-! ### A CLAIM heard in OFF (R153, R154, R156) -/

/-- The floor record of a station in OFF after a CLAIM: in vacancy it stands down, with a hold-off. -/
def stoodDown (s : State) : FloorRecord :=
  if s.floor.holder = none then { s.floor with claimWait := none, holdOff := some (holdOffMs s) } else s.floor

section
variable {s : State} {a : Station} {held : Bool}

theorem stoodDown_state (s : State) : (stoodDown s).state = s.floor.state := by unfold stoodDown; split <;> rfl

theorem holderShown_floor (hrun : s.seq.phase = .run) (hoff : s.floor.state = .off) :
    (holderShown a s).floor = { heldBy s a s.floor with vacancyTimer := some (vacancyMs s) } := by
  unfold holderShown
  rw [restartVacancy_off (s := setHolder a s) (inRun_of_run hrun) hoff]; rfl

theorem claimHeard_off (hrun : s.seq.phase = .run) (hoff : s.floor.state = .off) :
    claimHeard a held s =
      if held then holderShown a (setFloor (stoodDown s) s) else setFloor (stoodDown s) s := by
  have hdown : (if vacant s then startHoldOff (setFloor { s.floor with claimWait := none } s) else s) =
      setFloor (stoodDown s) s := by
    by_cases hholder : s.floor.holder = none
    · have hvacant : vacant s = true := by simp [vacant, hoff, hholder]
      unfold stoodDown
      rw [if_pos hvacant, if_pos hholder]; rfl
    · have hvacant : ¬ vacant s = true := by simp [vacant, hholder]
      unfold stoodDown
      rw [if_neg hvacant, if_neg hholder]; rfl
  unfold claimHeard
  rw [if_pos (inRun_of_run hrun), hoff]; dsimp only
  rw [hdown]

/-! ### A CLAIM heard by a claimer (R156, R157) -/

/-- The CLAIM takes the claim of this station. -/
abbrev ClaimLost (a : Station) (held : Bool) (s : State) : Prop :=
  s.seq.phase = .run ∧ s.floor.state = .claiming ∧ (held = true ∨ a < s.seq.addr)

/-- The claim is given up: PENDING units SHADOW, OFF, with a hold-off; a Held CLAIM shows the holder. -/
def claimGivenUp (a : Station) (held : Bool) (s : State) : State :=
  startHoldOff (if held then setHolder a (pendingLost s) else pendingLost s)

/-- What a CLAIM does before any release check. -/
def claimTaken (a : Station) (held : Bool) (s : State) : State :=
  if ClaimLost a held s then claimGivenUp a held s else claimHeard a held s

theorem claimTaken_lost (h : ClaimLost a held s) : claimTaken a held s = claimGivenUp a held s := if_pos h

theorem claimTaken_kept (h : ¬ ClaimLost a held s) : claimTaken a held s = claimHeard a held s := if_neg h

theorem claimHeard_lost (h : ClaimLost a held s) : claimHeard a held s = settle (claimGivenUp a held s) := by
  obtain ⟨hrun, hclaiming, hlost⟩ := h
  unfold claimHeard claimGivenUp
  rw [if_pos (inRun_of_run hrun), hclaiming]; dsimp only
  cases held with
  | true => rfl
  | false => exact if_pos (hlost.resolve_left Bool.false_ne_true)

theorem claimHeard_won (hrun : s.seq.phase = .run) (hclaiming : s.floor.state = .claiming) (h : ¬ a < s.seq.addr) :
    claimHeard a false s = s := by
  unfold claimHeard
  rw [if_pos (inRun_of_run hrun), hclaiming]
  exact if_neg h

theorem claimGivenUp_act (a : Station) (held : Bool) (s : State) :
    FloorAct (restream .pending (fun _ => .shadow) s) (claimGivenUp a held s) := by
  cases held with
  | true => exact (claimLost_act a s).trans (startHoldOff_act _)
  | false => exact (enterOff_act _).trans (startHoldOff_act _)

theorem pendingLost_floor (s : State) : (pendingLost s).floor = offRecord s := enterOff_floor _

theorem claimGivenUp_unheld :
    (claimGivenUp a false s).floor = { offRecord s with holdOff := some (holdOffMs s) } := by
  show (startHoldOff (pendingLost s)).floor = _
  rw [startHoldOff_floor, pendingLost_floor, holdOffPeriod, (pendingLost_act s).core.settings]; rfl

theorem claimGivenUp_held :
    (claimGivenUp a true s).floor = { heldBy s a (offRecord s) with holdOff := some (holdOffMs s) } := by
  show (startHoldOff (setHolder a (pendingLost s))).floor = _
  rw [startHoldOff_floor, claimLost_floor, holdOffPeriod, setHolder_settings, (pendingLost_act s).core.settings]; rfl

/-! ### A CLAIM heard otherwise (R153, R156) -/

theorem claimHeard_idle (h : s.seq.phase ≠ .run) : claimHeard a held s = if held then setHolder a s else s := by
  unfold claimHeard; rw [if_neg (by simpa [inRun] using h)]

theorem claimHeard_requesting (hrun : s.seq.phase = .run) (h : s.floor.state = .requesting) :
    claimHeard a held s = if held then setHolder a s else s := by
  unfold claimHeard; rw [if_pos (inRun_of_run hrun), h]

theorem claimHeard_holding (hrun : s.seq.phase = .run) (h : Holding s) : claimHeard a held s = urgent heldReply s := by
  unfold claimHeard; rw [if_pos (inRun_of_run hrun)]
  rcases h with h | h | h <;> rw [h]

theorem shownHolder_floor (a : Station) (held : Bool) (s : State) :
    (if held then setHolder a s else s).floor = if held then heldBy s a s.floor else s.floor := by
  cases held <;> rfl

theorem heldReply_queue (hrun : s.seq.phase = .run) (hroom : s.bus.queue.length < 23) :
    ∃ more, (urgent heldReply s).bus.queue = s.bus.queue ++ waitingFrame (.claim (knownField s) true) none :: more :=
  urgent_queue (broadcast_room (claim_urgent _ _) ⟨hrun, Nat.lt_succ_of_lt hroom⟩) hrun hroom

theorem heldReply_undrained (h : s.floor.state ≠ .draining) : (urgent heldReply s).floor = s.floor := by
  have hfloor : (heldReply s).floor = s.floor := broadcast_floor _ _
  rw [urgent_undrained (by rw [hfloor]; exact h), hfloor]

/-- A CLAIM that takes no claim is an act of the floor controller. -/
theorem claimHeard_kept (h : ¬ ClaimLost a held s) : FloorAct s (claimHeard a held s) := by
  have hshown : FloorAct s (if held then setHolder a s else s) := by
    cases held with
    | true => exact setHolder_act a s
    | false => exact .refl s
  by_cases hrun : s.seq.phase = .run
  · cases hstate : s.floor.state with
    | off =>
      rw [claimHeard_off hrun hstate]
      split
      · exact (setFloor_act _ s).trans (holderShown_act a _)
      · exact setFloor_act _ s
    | claiming =>
      obtain ⟨hheld, hhigher⟩ := not_or.1 fun hlost => h ⟨hrun, hstate, hlost⟩
      obtain rfl := Bool.eq_false_of_not_eq_true hheld
      rw [claimHeard_won hrun hstate hhigher]; exact .refl s
    | requesting => rw [claimHeard_requesting hrun hstate]; exact hshown
    | on | yielding | draining =>
      rw [claimHeard_holding hrun (by simp [Holding, hstate])]
      exact urgent_act _ heldReply_act s
  · rw [claimHeard_idle hrun]; exact hshown

/-- In every state the CLAIM leaves the release unit, and what a floor frame leaves alone. -/
theorem claimTaken_outside (a : Station) (held : Bool) (s : State) :
    (claimTaken a held s).release = s.release ∧ OutsideFloor s (claimTaken a held s) := by
  by_cases h : ClaimLost a held s
  · rw [claimTaken_lost h]
    exact ⟨(claimGivenUp_act a held s).release, (claimGivenUp_act a held s).restreamed_outside⟩
  · rw [claimTaken_kept h]
    exact ⟨(claimHeard_kept h).release, (claimHeard_kept h).outsideFloor⟩

theorem claimTaken_releases (a : Station) (held : Bool) (s : State) :
    ReleasesWhere (ClaimLost a held s) s (claimTaken a held s) (claimHeard a held s) := by
  refine ⟨fun h => ?_, fun h => (claimTaken_kept h).symm⟩
  rw [claimTaken_lost h, claimHeard_lost h]
  exact (claimGivenUp_act a held s).restreamed_then

theorem not_claimLost {x : FloorState} (hstate : s.floor.state = x) (hx : x ≠ .claiming) : ¬ ClaimLost a held s :=
  fun ⟨_, hclaiming, _⟩ => hx (hstate.symm.trans hclaiming)

/-- A holding station has no claim to lose: it answers. -/
theorem claimTaken_holding (hrun : s.seq.phase = .run) (h : Holding s) :
    claimTaken a held s = urgent heldReply s := by
  rw [claimTaken_kept, claimHeard_holding hrun h]
  exact fun ⟨_, hclaiming, _⟩ => (not_holding_iff s).2 (.inr (.inl hclaiming)) h

/-- A CLAIM accepted is heard with the known it has raised (R118). -/
theorem exec_claimReceived {f : LineFrame} {known : Word} (h : Accepts s f a (.claim known held)) :
    exec (.claimReceived f) s = .next (claimHeard a held (raiseKnown known (frameEnded f s))) :=
  congrArg Host.Outcome.next (receive_accepted takeClaim h)

end

/-- Settles O39: the CLAIM by the state of the floor, the known raised before it and the release check behind a claim
lost. -/
theorem claimIsTakenByState : Obligations.ClaimIsTakenByState := by
  intro s f a known held haccepts
  let r := raiseKnown known (frameEnded f s)
  obtain ⟨hrelease, houtside⟩ := claimTaken_outside a held r
  refine ⟨_, claimTaken a held r, exec_claimReceived haccepts, claimTaken_releases a held r, by rw [hrelease]; rfl,
    houtside, fun hidle => ?_, fun hrun => ⟨fun hoff hnone hheld => ?_, fun hoff hsome hheld => ?_,
      fun hoff hheld => ?_, fun hclaiming hheld hlower => ?_, fun hclaiming hheld hhigher => ?_,
      fun hclaiming hheld => ?_, fun hasking => ?_, fun hholding hroom => ?_, fun hstate => ?_⟩⟩
  · rw [claimTaken_kept (s := r) fun h => hidle h.1, claimHeard_idle (s := r) hidle]
    exact shownHolder_floor a held r
  · subst hheld
    rw [claimTaken_kept (not_claimLost (s := r) hoff (by decide)), claimHeard_off (s := r) hrun hoff]
    exact if_pos hnone
  · subst hheld
    rw [claimTaken_kept (not_claimLost (s := r) hoff (by decide)), claimHeard_off (s := r) hrun hoff]
    exact if_neg hsome
  · subst hheld
    rw [claimTaken_kept (not_claimLost (s := r) hoff (by decide)), claimHeard_off (s := r) hrun hoff]
    exact holderShown_floor (s := setFloor (stoodDown r) r) hrun ((stoodDown_state r).trans hoff)
  · subst hheld
    have hnot : ¬ a < r.seq.addr := BitVec.not_lt.2 (BitVec.le_of_lt hlower)
    rw [claimTaken_kept (s := r) fun ⟨_, _, hlost⟩ => hlost.elim Bool.false_ne_true hnot,
      claimHeard_won (s := r) hrun hclaiming hnot]
    exact ⟨rfl, rfl⟩
  · subst hheld
    rw [claimTaken_lost (s := r) ⟨hrun, hclaiming, .inr hhigher⟩]
    exact ⟨claimGivenUp_unheld (s := r), (claimGivenUp_act a false r).restreamed_history⟩
  · subst hheld
    rw [claimTaken_lost (s := r) ⟨hrun, hclaiming, .inl rfl⟩]
    exact ⟨claimGivenUp_held (s := r), (claimGivenUp_act a true r).restreamed_history⟩
  · rw [claimTaken_kept (not_claimLost (s := r) hasking (by decide)), claimHeard_requesting (s := r) hrun hasking]
    exact shownHolder_floor a held r
  · rw [claimTaken_holding (s := r) hrun hholding]
    exact heldReply_queue (s := r) hrun hroom
  · rw [claimTaken_holding (s := r) hrun (hstate.imp_right .inl)]
    exact heldReply_undrained (s := r) fun hdraining => by
      rcases hstate with h | h <;> exact absurd (h.symm.trans hdraining) (by decide)

end Sys2Proof.Machine
end

section
/-! PROOFS. The way to a claim or a request: VACANCY_TIMER_EXPIRY, CLAIM_WAIT_END, CLAIM_HOLD_OFF_END and the RELIEF
command (R75, R153 to R156, R158). -/

namespace Sys2Proof.Machine

/-! ### The holder shown in the peer table (R154) -/

/-- A present WRITER that advertises a holding state. -/
def showsHolding (p : Peer) : Bool :=
  p.present && decide (p.kind = some .writer) && (p.floor.map FloorState.holding).getD false

theorem showsHolding_iff (p : Peer) :
    showsHolding p = true ↔ p.present = true ∧ p.kind = some .writer ∧
      (p.floor = some .on ∨ p.floor = some .yielding ∨ p.floor = some .draining) := by
  cases h : p.floor with
  | none => simp [showsHolding, h]
  | some x => simp [showsHolding, h, holding_iff, and_assoc]

/-- Station h is shown as a holding one. -/
def ShownHolding (table : List Peer) (h : Nat) : Prop :=
  ∃ p, table[h]? = some p ∧ p.present = true ∧ p.kind = some .writer ∧
    (p.floor = some .on ∨ p.floor = some .yielding ∨ p.floor = some .draining)

theorem shownHolding_iff (table : List Peer) (h : Nat) :
    ShownHolding table h ↔ ∃ hlt : h < table.length, showsHolding table[h] = true := by
  simp [ShownHolding, showsHolding_iff, List.getElem?_eq_some_iff]

/-- The lowest station shown is the holder. -/
theorem shownHolder_some {table : List Peer} {h : Nat} (hshown : ShownHolding table h)
    (hlowest : ∀ j < h, ¬ ShownHolding table j) : shownHolder table = some (BitVec.ofNat 4 h) := by
  obtain ⟨hlt, hholds⟩ := (shownHolding_iff table h).1 hshown
  have hfound : table.findIdx? showsHolding = some h :=
    List.findIdx?_eq_some_iff_getElem.2 ⟨hlt, hholds, fun j hj hbelow =>
      hlowest j hj ((shownHolding_iff table j).2 ⟨Nat.lt_trans hj hlt, hbelow⟩)⟩
  exact congrArg (Option.map (BitVec.ofNat 4)) hfound

theorem shownHolder_none {table : List Peer} (h : ∀ j, ¬ ShownHolding table j) : shownHolder table = none := by
  have hnone : table.findIdx? showsHolding = none := by
    refine List.findIdx?_eq_none_iff.2 fun p hp => Bool.eq_false_of_not_eq_true fun hholds => ?_
    obtain ⟨j, hj, rfl⟩ := List.getElem_of_mem hp
    exact h j ((shownHolding_iff table j).2 ⟨hj, hholds⟩)
  exact congrArg (Option.map (BitVec.ofNat 4)) hnone

/-! ### The vacancy timer (R153, R154) -/

section
variable {s : State} {a : Station} {n : Nat}

theorem vacancyExpired_shown (h : shownHolder s.peers.table = some a) : vacancyExpired s = holderShown a s := by
  unfold vacancyExpired; rw [h]; rfl

theorem vacancyExpired_vacant (h : shownHolder s.peers.table = none) :
    vacancyExpired s = restartVacancy (vacancyFound (clearHolder s)) := by
  unfold vacancyExpired; rw [h]

/-- The vacancy timer's expiry moves the floor record only. -/
theorem vacancyExpired_eq (s : State) : vacancyExpired s = { s with floor := (vacancyExpired s).floor } := by
  cases h : shownHolder s.peers.table with
  | none => rw [vacancyExpired_vacant h, restartVacancy_eq, vacancyFound_eq]; rfl
  | some a => rw [vacancyExpired_shown h, holderShown, restartVacancy_eq]; rfl

theorem waitStarted_state (s : State) (r : FloorRecord) : (waitStarted s r).state = r.state := by
  unfold waitStarted; split <;> rfl

theorem vacancyExpired_floor (hrun : s.seq.phase = .run) (hoff : s.floor.state = .off)
    (h : shownHolder s.peers.table = none) :
    (vacancyExpired s).floor =
      { waitStarted s { s.floor with holder := none } with vacancyTimer := some (vacancyMs s) } := by
  have hact := (clearHolder_act s).trans (vacancyFound_act _)
  have hfloor : (vacancyFound (clearHolder s)).floor = waitStarted s { s.floor with holder := none } :=
    (vacancyFound_vacant (s := clearHolder s) hrun hoff rfl).trans (waitStarted_congr rfl rfl rfl rfl _)
  have hkept : (vacancyFound (clearHolder s)).floor.state = .off := by rw [hfloor, waitStarted_state]; exact hoff
  rw [vacancyExpired_vacant h, restartVacancy_off (inRun_of_run (by rw [hact.core.seq]; exact hrun)) hkept, hfloor,
    vacancyMs, hact.core.settings]; rfl

theorem exec_vacancyTimerExpiry (hrun : s.seq.phase = .run) (hoff : s.floor.state = .off)
    (htimer : s.floor.vacancyTimer = some n) :
    exec .vacancyTimerExpiry s = .next (vacancyExpired (elapse n s)) :=
  congrArg Host.Outcome.next (floorExpiry_some vacancyExpired hrun hoff htimer)

/-! ### A claim made (R155, R158) -/

theorem claimNow_eq (s : State) :
    claimNow s =
      { s with
        floor := { s.floor with state := .claiming, claimWindow := some s.settings.claimWindow, vacancyTimer := none }
        bus := (claimNow s).bus, status := (claimNow s).status } := by
  unfold claimNow broadcast
  rw [handFrame_eq]; rfl

theorem claimNow_room (hroom : RoomToSend s) :
    claimNow s =
      { s with
        floor := { s.floor with state := .claiming, claimWindow := some s.settings.claimWindow, vacancyTimer := none }
        bus := { s.bus with queue := s.bus.queue ++ [waitingFrame (.claim (knownField s) false) none] } } := by
  unfold claimNow
  rw [broadcast_room (claim_urgent _ _) hroom]; rfl

/-! ### The claim wait and the hold-off (R155, R156) -/

theorem vacant_iff (s : State) : vacant s = true ↔ s.floor.state = .off ∧ s.floor.holder = none := by
  simp [vacant]

theorem claimWaitEnded_vacant (hoff : s.floor.state = .off) (hnone : s.floor.holder = none) :
    claimWaitEnded s = claimNow (setFloor { s.floor with claimWait := none } s) :=
  if_pos ((vacant_iff (setFloor _ s)).2 ⟨hoff, hnone⟩)

theorem claimWaitEnded_held (h : s.floor.state ≠ .off ∨ s.floor.holder ≠ none) :
    claimWaitEnded s = setFloor { s.floor with claimWait := none } s :=
  if_neg fun hvacant => not_and_or.2 h ((vacant_iff (setFloor _ s)).1 hvacant)

theorem holdOffEnded_eq (s : State) : holdOffEnded s = { s with floor := (holdOffEnded s).floor } := by
  unfold holdOffEnded; rw [vacancyFound_eq]; rfl

theorem holdOffEnded_vacant (hrun : s.seq.phase = .run) (hoff : s.floor.state = .off) (hnone : s.floor.holder = none) :
    (holdOffEnded s).floor = waitStarted s { s.floor with holdOff := none } := by
  have hfound := vacancyFound_vacant (s := setFloor { s.floor with holdOff := none } s) hrun hoff hnone
  exact hfound.trans (waitStarted_congr rfl rfl rfl rfl _)

theorem holdOffEnded_held (hrun : s.seq.phase = .run) (h : s.floor.state ≠ .off ∨ s.floor.holder ≠ none) :
    (holdOffEnded s).floor = { s.floor with holdOff := none } :=
  vacancyFound_held (s := setFloor { s.floor with holdOff := none } s) hrun h

/-- A timer that runs in every state of the floor, in RUN. -/
theorem runExpiry_some {timer : Option Nat} (act : State → State) (hrun : s.seq.phase = .run)
    (htimer : timer = some n) : (if inRun s then onExpiry timer act s else s) = act (elapse n s) := by
  rw [if_pos (inRun_of_run hrun), htimer, onExpiry_some]

theorem runExpiry_none {timer : Option Nat} (act : State → State) (htimer : timer = none) :
    (if inRun s then onExpiry timer act s else s) = s := by
  rw [htimer]; exact ite_self s

theorem exec_claimWaitEnd (hrun : s.seq.phase = .run) (htimer : s.floor.claimWait = some n) :
    exec .claimWaitEnd s = .next (claimWaitEnded (elapse n s)) :=
  congrArg Host.Outcome.next (runExpiry_some claimWaitEnded hrun htimer)

theorem exec_claimHoldOffEnd (hrun : s.seq.phase = .run) (htimer : s.floor.holdOff = some n) :
    exec .claimHoldOffEnd s = .next (holdOffEnded (elapse n s)) :=
  congrArg Host.Outcome.next (runExpiry_some holdOffEnded hrun htimer)

/-! ### An entry of one command (R72, R75, R76) -/

/-- An entry whose text is one command code hands that command, and creates no unit. -/
theorem assembleAndHand_command {b : Byte} {c : Code} (htokens : tokens [b] = [.code c])
    (hcommand : c.isPlainCommand = true) (hopen : c ≠ .defOpen) (strokes : List Word) (start : Word) (s : State) :
    assembleAndHand [b] strokes start s = runCommand s c := by
  have hformat : c.isFormat = false := by revert hcommand; cases c <;> decide
  have hbefore : commandsBefore [.code c] = [c] := by
    simp [commandsBefore, commandsOf, leading, Token.isLit, hformat, hcommand]
  have hafter : commandsAfter [.code c] = [] := by
    simp [commandsAfter, commandsOf, leading, Token.isLit, hformat, hopen]
  have hunit : ∀ labels f, assembleEntry labels f [b] = none := by
    intro labels f
    unfold assembleEntry
    simp [htokens, literals, Token.byte?, leadingSpeaker, leading, Token.isLit, hasFormat, hformat, commandsOf]
  unfold assembleAndHand
  simp only [htokens, hbefore, hafter, hunit, List.foldl_cons, List.foldl_nil]

theorem assemble_relief (strokes : List Word) (start : Word) (s : State) :
    assembleAndHand [0x0B] strokes start s = reliefCommand s :=
  assembleAndHand_command (c := .relief) (by decide) (by decide) (by decide) strokes start s

/-! ### The RELIEF command (R158) -/

/-- The floor record of a station that asks h for the floor. -/
def askingRecord (h : Station) (s : State) : FloorRecord :=
  { s.floor with
    state := .requesting, withdrawn := false, partner := some h,
    reliefTimer := some (s.settings.relief * 1000), vacancyTimer := none }

/-- The known holder, another station, is asked. -/
theorem reliefCommand_asks (hrun : s.seq.phase = .run) (hoff : s.floor.state = .off)
    (hholder : s.floor.holder = some a) (hne : a ≠ s.seq.addr) :
    reliefCommand s = setFloor (askingRecord a s) (sendTo a .reliefReq s) := by
  unfold reliefCommand
  rw [if_pos (by simp [inRun_of_run hrun, hoff]), hholder]
  exact if_neg hne

theorem asked_eq (a : Station) (s : State) :
    setFloor (askingRecord a s) (sendTo a .reliefReq s) =
      { s with
        floor := askingRecord a s
        bus := (sendTo a .reliefReq s).bus, status := (sendTo a .reliefReq s).status } := by
  unfold sendTo
  rw [handFrame_eq]; rfl

/-- The withdrawal ends, and no wait to claim runs. -/
def withdrawalEnded (s : State) : State :=
  setFloor { s.floor with withdrawn := false, claimWait := none, holdOff := none } s

theorem reliefCommand_claims (hrun : s.seq.phase = .run) (hoff : s.floor.state = .off)
    (hnone : s.floor.holder = none) :
    reliefCommand s = claimNow (withdrawalEnded s) := by
  unfold reliefCommand
  rw [if_pos (by simp [inRun_of_run hrun, hoff]), hnone]; rfl

theorem reliefCommand_ignored
    (h : s.seq.phase ≠ .run ∨ s.floor.state ≠ .off ∨ s.floor.holder = some s.seq.addr) : reliefCommand s = s := by
  unfold reliefCommand
  split
  · rename_i hacts
    obtain ⟨hrun, hoff⟩ : s.seq.phase = .run ∧ s.floor.state = .off := by simpa [inRun] using hacts
    have hself := (h.resolve_left (not_not_intro hrun)).resolve_left (not_not_intro hoff)
    rw [hself]; exact if_pos rfl
  · rfl

end

/-! ### The statement -/

/-- Settles O44: each timer's expiry by whether the station is vacant, the RELIEF command by its known holder. -/
theorem vacancyLeadsToClaim : Obligations.VacancyLeadsToClaim := by
  refine ⟨?_, ?_, ?_, ?_, fun s => ⟨fun htimer => ?_, fun htimer => ?_, fun htimer => ?_⟩⟩
  · intro s n hrun hoff htimer e shown
    refine ⟨_, exec_vacancyTimerExpiry hrun hoff htimer, fun h _ hshown hlowest => ?_, fun hnone => ?_,
      vacancyExpired_eq _⟩
    · rw [vacancyExpired_shown (s := e) (shownHolder_some (table := s.peers.table) hshown hlowest)]
      exact holderShown_floor (s := e) hrun hoff
    · exact vacancyExpired_floor (s := e) hrun hoff (shownHolder_none (table := s.peers.table) hnone)
  · intro s n hrun htimer e
    refine ⟨_, exec_claimWaitEnd hrun htimer, fun hoff hnone => ?_, claimWaitEnded_held (s := e)⟩
    rw [claimWaitEnded_vacant (s := e) hoff hnone]
    exact ⟨rfl, fun hroom => claimNow_room (s := setFloor _ e) ⟨hrun, hroom⟩⟩
  · intro s n hrun htimer e
    exact ⟨_, exec_claimHoldOffEnd hrun htimer, holdOffEnded_eq e, holdOffEnded_vacant (s := e) hrun,
      holdOffEnded_held (s := e) hrun⟩
  · intro s strokes start t
    have ht : t = reliefCommand s := assemble_relief strokes start s
    rw [ht]
    refine ⟨fun h hrun hoff hholder hne => ?_, fun hrun hoff hnone => ?_, reliefCommand_ignored⟩
    · rw [reliefCommand_asks hrun hoff hholder hne]
      refine ⟨asked_eq h s, fun hroom => ?_⟩
      rw [sendTo_room (by decide) ⟨hrun, hroom⟩]; exact ⟨rfl, rfl⟩
    · rw [reliefCommand_claims hrun hoff hnone]
      refine ⟨claimNow_eq _, fun hroom => ?_⟩
      rw [claimNow_room (s := withdrawalEnded s) ⟨hrun, hroom⟩]; exact ⟨rfl, rfl⟩
  · exact congrArg Host.Outcome.next (floorExpiry_idle vacancyExpired (.inr (.inr htimer)))
  · exact congrArg Host.Outcome.next (runExpiry_none claimWaitEnded htimer)
  · exact congrArg Host.Outcome.next (runExpiry_none holdOffEnded htimer)

end Sys2Proof.Machine
end

section
/-! PROOFS. The cut and the drain: YIELD_TIMER_EXPIRY, the YIELD and FREE commands and the auto-cut (R160 to R162). -/

namespace Sys2Proof.Machine

/-! ### The cut time (R160) -/

section
variable {s : State}

/-- The cut time is the start of the newest OFFICIAL unit. -/
theorem cutTime_official {us vs : List TextUnit} {u : TextUnit} (hhistory : s.translator.history = us ++ u :: vs)
    (hofficial : u.stream = .official) (hnewest : ∀ v ∈ vs, v.stream ≠ .official) : cutTime s = u.start := by
  have hbehind : (vs.filter fun v => decide (v.stream = .official)) = [] :=
    List.filter_eq_nil_iff.2 fun v hv => by simpa using hnewest v hv
  unfold cutTime
  rw [hhistory, List.filter_append, List.filter_cons_of_pos (by simpa using hofficial), hbehind,
    List.getLast?_append_cons]; rfl

/-- With no OFFICIAL unit it is the local time. -/
theorem cutTime_local (h : ∀ u ∈ s.translator.history, u.stream ≠ .official) : cutTime s = s.seq.clock := by
  have hnone : (s.translator.history.filter fun u => decide (u.stream = .official)) = [] :=
    List.filter_eq_nil_iff.2 fun u hu => by simpa using h u hu
  unfold cutTime
  rw [hnone]; rfl

/-! ### The cut (R160, R161) -/

/-- The station drains, for a partner or for none. -/
theorem startDrain_cut (partner : Option Station) (s : State) :
    CutMade s (startDrain (setFloor { s.floor with partner := partner } s)) partner :=
  ⟨cutTime s, fun _ _ _ => cutTime_official, cutTime_local, drainCheck_checked _⟩

theorem makeCut_yielding (h : s.floor.state = .yielding) : CutMade s (makeCut s) s.floor.partner := by
  unfold makeCut
  rw [if_pos h]; exact startDrain_cut s.floor.partner s

theorem makeCut_other (h : s.floor.state ≠ .yielding) : makeCut s = s := if_neg h

/-! ### The YIELD and FREE commands (R75, R160, R161) -/

theorem assemble_yield (strokes : List Word) (start : Word) (s : State) :
    assembleAndHand [0x0C] strokes start s = yieldCommand s :=
  assembleAndHand_command (c := .yieldCut) (by decide) (by decide) (by decide) strokes start s

theorem assemble_free (strokes : List Word) (start : Word) (s : State) :
    assembleAndHand [0x0D] strokes start s = freeCommand s :=
  assembleAndHand_command (c := .free) (by decide) (by decide) (by decide) strokes start s

theorem yieldCommand_run (h : s.seq.phase = .run) : yieldCommand s = makeCut s := if_pos (inRun_of_run h)

theorem yieldCommand_ignored (h : s.seq.phase ≠ .run ∨ s.floor.state ≠ .yielding) : yieldCommand s = s := by
  by_cases hrun : s.seq.phase = .run
  · rw [yieldCommand_run hrun, makeCut_other (h.resolve_left (not_not_intro hrun))]
  · exact if_neg (by simpa [inRun] using hrun)

theorem freeCommand_on (hrun : s.seq.phase = .run) (hon : s.floor.state = .on) : CutMade s (freeCommand s) none := by
  unfold freeCommand
  rw [if_pos (by simp [inRun_of_run hrun, hon])]; exact startDrain_cut none s

theorem freeCommand_ignored (h : s.seq.phase ≠ .run ∨ s.floor.state ≠ .on) : freeCommand s = s :=
  if_neg fun hacts => not_and_or.2 h (by simpa [inRun] using hacts)

/-! ### The auto-cut (R84, R160) -/

/-- The creation of a unit that is no UNTRAN is reported to the floor controller alone, where it has a speaker. -/
theorem reportUnit_translated {u : TextUnit} (h : u.kind ≠ .untran) :
    reportUnit u s = if u.speaker.isSome then speakerCreated s else s := by
  unfold reportUnit; rw [if_neg h]

theorem speakerCreated_ignored (h : s.settings.autoCut = false ∨ s.floor.state ≠ .yielding) : speakerCreated s = s := by
  unfold speakerCreated
  split
  · rename_i hauto
    exact makeCut_other (h.resolve_left fun hoff => by rw [hoff] at hauto; cases hauto)
  · rfl

theorem exec_yieldTimerExpiry {n : Nat} (hrun : s.seq.phase = .run) (hyielding : s.floor.state = .yielding)
    (htimer : s.floor.yieldTimer = some n) : exec .yieldTimerExpiry s = .next (makeCut (elapse n s)) :=
  congrArg Host.Outcome.next (floorExpiry_some makeCut hrun hyielding htimer)

end

/-! ### The statement -/

/-- Settles O46: the cut in YIELDING from each of its causes, the FREE command's in ON, and nothing elsewhere. -/
theorem cutDrainsTheFloor : Obligations.CutDrainsTheFloor := by
  refine ⟨fun s n hrun hyielding htimer => ?_, fun s hother => ?_, fun s strokes start => ?_,
    fun s u n hkind => ⟨fun hspeaker hauto hyielding => ?_, fun hother => ?_⟩⟩
  · exact ⟨_, exec_yieldTimerExpiry hrun hyielding htimer, makeCut_yielding (s := elapse n s) hyielding⟩
  · exact congrArg Host.Outcome.next (floorExpiry_idle makeCut hother)
  · rw [assemble_yield, assemble_free]
    refine ⟨fun hrun hyielding => ?_, yieldCommand_ignored, freeCommand_on, freeCommand_ignored⟩
    rw [yieldCommand_run hrun]; exact makeCut_yielding hyielding
  · rw [reportUnit_translated hkind, hspeaker, speakerCreated, hauto]
    exact makeCut_yielding hyielding
  · rw [reportUnit_translated hkind]
    split
    · rename_i hspeaker
      exact speakerCreated_ignored (hother.resolve_left (Option.isSome_iff_ne_none.1 hspeaker))
    · rfl

end Sys2Proof.Machine
end

section
/-! PROOFS. POWER_ON_RESET and PIN_RESET: what the devices hold after each (R17, R18, R35, R170). -/

namespace Sys2Proof.Machine

/-! ### A device image -/

section
variable {space : Nat} {cells : List Host.Cell} (hfits : imageFits space cells = true)
  (hnodup : (cells.map Prod.fst).Nodup)
include hfits hnodup

theorem Memory.ofCells_reads :
    (∀ c ∈ cells, Memory.read (Memory.ofCells space cells) c.1 = c.2) ∧
      ∀ a, a ∉ cells.map Prod.fst → Memory.read (Memory.ofCells space cells) a = 0xFF :=
  foldlCells_read space cells [] Memory.wf_nil (by simpa [imageFits] using hfits) hnodup

end

/-! ### A program cut off (R17, R18) -/

section
variable {s : State}

theorem leaveResidue_idle (h : s.notes.burst = none) : leaveResidue s = s := by
  unfold leaveResidue; rw [h]

/-- What a cut-off program leaves is in the flash, and counted as a free value; nothing else has changed. -/
theorem leaveResidue_eq (s : State) :
    leaveResidue s =
      { s with
        freeCount := (leaveResidue s).freeCount
        port := { s.port with flashMem := (leaveResidue s).port.flashMem } } := by
  unfold leaveResidue; split <;> rfl

theorem leaveResidue_clears (hwf : Memory.wf s.port.flashMem) (a : Nat) :
    Memory.read (leaveResidue s).port.flashMem a &&& Memory.read s.port.flashMem a =
      Memory.read (leaveResidue s).port.flashMem a := by
  unfold leaveResidue; split
  · exact BitVec.and_self
  · exact Memory.programPartly_clears hwf _ _ _ a

theorem exec_pinReset (straps : Straps) (s : State) :
    exec (.pinReset straps) s =
      .next (State.started .pin straps (leaveResidue s).port.flashMem s.port.ramMem s.pending
        (leaveResidue s).freeCount) := by
  show execPinReset straps s = _
  unfold execPinReset; dsimp only; rw [leaveResidue_eq]

end

/-! ### The statement -/

/-- Settles O4: both resets end in the started state, over the image given with the command or what the flash reached.
-/
theorem resetsRestartEveryBlock : Obligations.ResetsRestartEveryBlock := by
  refine fun straps s => ⟨fun flash ram hflash hram hwell => ?_, ?_⟩
  · obtain ⟨hfitsFlash, hfitsRam⟩ := Bool.and_eq_true_iff.1 hwell
    obtain ⟨hflashListed, hflashRest⟩ := Memory.ofCells_reads hfitsFlash hflash
    obtain ⟨hramListed, hramRest⟩ := Memory.ofCells_reads hfitsRam hram
    exact ⟨_, rfl, rfl, hflashListed, hramListed, hflashRest, hramRest⟩
  · exact ⟨_, exec_pinReset straps s, rfl, fun hidle => congrArg (·.port.flashMem) (leaveResidue_idle hidle),
      leaveResidue_clears⟩

end Sys2Proof.Machine
end

section
/-! PROOFS. CONFIG_READ_DONE: the block refused, with FAULT entered, and the block accepted, with its regions installed
and the first header read due (R33, R42, R171 to R175). -/

namespace Sys2Proof.Machine

/-! ### CONFIG_CLAMPED (R172) -/

theorem setFlagIf_flags (c : Bool) (f : Flag) (s : State) : (setFlagIf c f s).status.flags = flagsWith s c f := by
  cases c with
  | false => rfl
  | true => exact setFlag_flags f s

/-- Beside the flag, setting it reaches the player alone. -/
theorem setFlagIf_besidePlayer (c : Bool) (f : Flag) (s : State) (playing : Option (Pattern × Nat))
    (waiting : Option Pattern) :
    { (setFlagIf c f s).status with playing := playing, waiting := waiting } =
      { s.status with flags := flagsWith s c f, playing := playing, waiting := waiting } := by
  cases c with
  | false => rfl
  | true =>
    obtain ⟨hmask, henables⟩ := setFlag_kept f s
    show StatusUnit.mk (setFlag f s).status.flags (setFlag f s).status.mask (setFlag f s).status.enables _ _ = _
    rw [hmask, henables, setFlag_flags]; rfl

/-! ### FAULT (R174) -/

theorem attnDriven_of_fault {s : State} (h : s.seq.phase = .fault) : attnDriven s = true := by
  simp [attnDriven, h]

/-- Of a flag set on the way into FAULT the flag alone is left: the FAULT pattern begins anew. -/
theorem enterFault_setFlagIf (c : Bool) (f : Flag) (s : State) :
    enterFault (setFlagIf c f s) =
      { s with
        seq := { s.seq with phase := .fault, loadStep := .done }
        port := { s.port with flash := .free }
        status := { s.status with flags := flagsWith s c f, playing := some (.fault, 500), waiting := none } } := by
  unfold enterFault
  rw [setFlagIf_besidePlayer, setFlagIf_eq]; rfl

/-! ### The judgement of the block (R171 to R173) -/

section
variable {s : State}

theorem exec_configReadDone (h : Loading s .config) : exec .configReadDone s = .next (configRead s) :=
  congrArg Host.Outcome.next (if_pos h)

theorem configRead_unsound (h : ¬ (s.port.deviceReady = true ∧ BlockSound (configBlock s))) :
    configRead s = enterFault s :=
  if_neg (mt (blockGood_iff _ _).1 h)

variable (hsound : s.port.deviceReady = true ∧ BlockSound (configBlock s))
include hsound

/-- A sound block's clamps are flagged before its regions are judged. -/
theorem configRead_badRegions
    (h : ¬ RegionsAllowed (configBlock s) (readSettings (configBlock s)).1 s.seq.ramFit) :
    configRead s = enterFault (setFlagIf (readSettings (configBlock s)).2 .configClamped s) :=
  (if_pos ((blockGood_iff _ _).2 hsound)).trans (if_neg (mt (regionsGood_iff _ _ _).1 h))

theorem configRead_accepted (h : RegionsAllowed (configBlock s) (readSettings (configBlock s)).1 s.seq.ramFit) :
    configRead s =
      readHeaders (accept (configBlock s) (readSettings (configBlock s)).1
        (setFlagIf (readSettings (configBlock s)).2 .configClamped s)) :=
  (if_pos ((blockGood_iff _ _).2 hsound)).trans (if_pos ((regionsGood_iff _ _ _).2 h))

end

/-- Settles O6: whichever check fails, FAULT is entered from a state that differs in CONFIG_CLAMPED at most. -/
theorem refusedConfigurationEntersFault : Obligations.RefusedConfigurationEntersFault := by
  intro s hload hdefault blk sound hrefused
  have hblk : configBlock s = blk := configBlock_default s hdefault
  have hexec := exec_configReadDone hload
  by_cases hsound : sound
  · have hregions := hrefused.resolve_left (not_not_intro hsound)
    rw [configRead_badRegions (hblk ▸ hsound) (hblk ▸ hregions), hblk, enterFault_setFlagIf] at hexec
    exact ⟨_, hexec, attnDriven_of_fault rfl, fun h => absurd hsound h, fun _ => rfl, rfl⟩
  · rw [configRead_unsound (hblk ▸ hsound)] at hexec
    exact ⟨_, hexec, attnDriven_of_fault rfl, fun _ => rfl, fun h => absurd h hsound, rfl⟩

/-! ### The installed regions (R33) -/

/-- The entry of a region in the table of an accepted block, as R33 and the block's layout give it. -/
def installedEntry (blk : List Byte) (ramFit : Bool) : RegionName → Option Region
  | .default => none
  | .config => some ⟨.config, .flash, 0, 4096, [.flashRead]⟩
  | .main =>
    if fieldAt blk 10 4 = 0 then none else some ⟨.main, .flash, fieldAt blk 6 4, fieldAt blk 10 4, [.flashRead]⟩
  | .job =>
    if fieldAt blk 18 4 = 0 then none else some ⟨.job, .flash, fieldAt blk 14 4, fieldAt blk 18 4, [.flashRead]⟩
  | .notes => some ⟨.notes, .flash, fieldAt blk 22 4, fieldAt blk 26 4, [.flashRead, .flashProgram]⟩
  | .overlay =>
    if ramFit then some ⟨.overlay, .ram, fieldAt blk 30 4, fieldAt blk 34 4, [.ramRead, .ramWrite]⟩ else none

theorem installedRegions_eq (blk : List Byte) (ramFit : Bool) :
    installedRegions blk ramFit =
      [RegionName.config, .main, .job, .notes, .overlay].filterMap (installedEntry blk ramFit) := by
  rw [List.filterMap_eq_flatMap_toList]
  simp [installedRegions, installedEntry, Span.present, apply_ite Option.toList, configSpan, mainSpan, jobSpan,
    notesSpan, overlaySpan, spanAt]

/-- An entry of the table stands under its own region's name. -/
theorem installedEntry_name {blk : List Byte} {ramFit : Bool} {n : RegionName} {r : Region}
    (h : installedEntry blk ramFit n = some r) : r.name = n := by
  unfold installedEntry at h; repeat' split at h
  all_goals cases h <;> rfl

theorem region_installed {p : MemoryPort} {blk : List Byte} {ramFit : Bool}
    (h : p.regions = installedRegions blk ramFit) (n : RegionName) : p.region n = installedEntry blk ramFit n := by
  have hnamed : ∀ m, (installedEntry blk ramFit m).any (fun r => r.name == n) =
      (decide (m = n) && (installedEntry blk ramFit m).isSome) := fun m => by
    cases hentry : installedEntry blk ramFit m with
    | none => simp
    | some r => simp [installedEntry_name hentry, beq_eq_decide]
  rw [MemoryPort.region, h, installedRegions_eq, List.find?_filterMap]
  simp only [hnamed]
  cases hentry : installedEntry blk ramFit n with
  | none => cases n <;> simp [hentry]
  | some r =>
    cases n
    case default => cases hentry
    all_goals simp [hentry]

/-! ### The headers come next (R42, R91, R173, R175) -/

/-- Which read comes next is a matter of the sequencer and the flash, and of the resume scan where SCAN begins. -/
theorem readHeaders_eq (s : State) :
    readHeaders s =
      { s with
        seq := { s.seq with phase := (readHeaders s).seq.phase, loadStep := (readHeaders s).seq.loadStep }
        notes := (readHeaders s).notes
        port := { s.port with flash := (readHeaders s).port.flash } } := by
  unfold readHeaders afterJob afterMain; repeat' split
  all_goals rfl

theorem readHeaders_notes {s : State} (h : s.seq.phase = .load) :
    (readHeaders s).notes = scanBegun s (readHeaders s) := by
  unfold readHeaders afterJob afterMain scanBegun; repeat' split
  all_goals simp_all [enterScan]

section
variable {s : State} {blk : List Byte} (hregions : s.port.regions = installedRegions blk s.seq.ramFit)
include hregions

theorem readHeaders_next (hload : s.seq.phase = .load) :
    ((readHeaders s).seq.phase, (readHeaders s).seq.loadStep, (readHeaders s).port.flash) =
      if fieldAt blk 18 4 ≠ 0 then (.load, .jobHeader, s.port.flash)
      else if fieldAt blk 10 4 ≠ 0 then (.load, .mainHeader, s.port.flash)
      else if s.seq.ramFit then (.load, .overlayHeader, .free)
      else (.scan, .done, .reading) := by
  have hjob : (s.port.region .job).isSome = true ↔ fieldAt blk 18 4 ≠ 0 := by
    rw [region_installed hregions]; simp [installedEntry]
  have hmain : (s.port.region .main).isSome = true ↔ fieldAt blk 10 4 ≠ 0 := by
    rw [region_installed hregions]; simp [installedEntry]
  unfold readHeaders afterJob afterMain
  simp only [hjob, hmain]; repeat' split
  all_goals simp [hload, enterScan]

end

/-! ### The statement of acceptance -/

/-- A flag set before acceptance shows in the status unit alone. -/
theorem accept_setFlagIf (blk : List Byte) (t : Settings) (c : Bool) (f : Flag) (s : State) :
    accept blk t (setFlagIf c f s) = { accept blk t s with status := (accept blk t (setFlagIf c f s)).status } := by
  unfold accept; rw [setFlagIf_eq]

/-- Settles O7: what acceptance installs stands while the first header's read, or the resume scan, begins. -/
theorem acceptedConfigurationIsInstalled : Obligations.AcceptedConfigurationIsInstalled := by
  intro s hload hdefault blk hready hsound hallowed
  have hblk : configBlock s = blk := configBlock_default s hdefault
  have hexec := exec_configReadDone hload
  rw [configRead_accepted (hblk ▸ ⟨hready, hsound⟩) (hblk ▸ hallowed), hblk, accept_setFlagIf] at hexec
  generalize hstatus : (accept blk (readSettings blk).1 (setFlagIf (readSettings blk).2 .configClamped s)).status = u
    at hexec
  let a := { accept blk (readSettings blk).1 s with status := u }
  have heq := readHeaders_eq a
  have hregion : ∀ n, (readHeaders a).port.region n = installedEntry blk s.seq.ramFit n :=
    region_installed (congrArg (·.port.regions) heq)
  have hflags : u.flags = flagsWith s (readSettings blk).2 .configClamped := by
    rw [← hstatus]; exact setFlagIf_flags _ _ _
  have hunit : (readHeaders a).status = u := congrArg (·.status) heq
  refine ⟨readHeaders a, hexec, congrArg (·.settings) heq, congrArg (·.seq.accepted) heq, hregion .config,
    hregion .notes, hregion .main, hregion .job, hregion .overlay, hregion .default, ?_, ?_, hunit ▸ hflags,
    congrArg (·.scanner) heq, readHeaders_next (s := a) rfl hload.1,
    ⟨congrArg (·.port.flashMem) heq, congrArg (·.port.ramMem) heq⟩, readHeaders_notes (s := a) hload.1, ?_⟩
  · rw [hunit, ← hstatus]; rfl
  · rw [hunit, ← hstatus]; rfl
  · rw [heq]; rfl

end Sys2Proof.Machine
end

section
/-! PROOFS. A status flag set: what it asks of the player, and that it is carried in PRESENCE (R141, R174, R177, R180,
R181). -/

namespace Sys2Proof.Machine

/-! ### A pattern request at the player (R180) -/

section
variable {p : Pattern} {u : StatusUnit} (henabled : u.enables.getLsbD p.place = true)
include henabled

theorem StatusUnit.request_idle (h : u.playing = none) :
    u.request p = { u with playing := some (p, p.length) } := by
  unfold StatusUnit.request; rw [if_pos henabled, h]

theorem StatusUnit.request_busy (h : u.playing ≠ none) : u.request p = { u with waiting := some p } := by
  obtain ⟨now, hnow⟩ := Option.ne_none_iff_exists'.1 h
  unfold StatusUnit.request; rw [if_pos henabled, hnow]

end

/-- The player takes no notice of the flags. -/
theorem StatusUnit.request_withFlags (p : Pattern) (u : StatusUnit) (w : Word) :
    { u with flags := w }.request p = { u.request p with flags := w } := by
  unfold StatusUnit.request; dsimp only; repeat' split
  all_goals rfl

/-! ### A flag set (R177, R181) -/

section
variable {f : Flag} {s : State}

theorem setFlag_quiet (h : s.status.isSet f = true ∨ s.status.mask.getLsbD f.position = false) :
    (setFlag f s).status = { s.status with flags := s.status.flags ||| f.mask } :=
  congrArg State.status (if_pos (by simpa using h))

theorem setFlag_requests (hphase : s.seq.phase ≠ .fault) (hclear : s.status.isSet f = false)
    (hmask : s.status.mask.getLsbD f.position = true) :
    (setFlag f s).status = { s.status.request .fault with flags := s.status.flags ||| f.mask } := by
  unfold setFlag requestPattern; dsimp only
  rw [if_neg (by simp [hclear, hmask]), if_neg hphase]
  exact StatusUnit.request_withFlags _ _ _

theorem presenceBody_flag (g : Flag) (s : State) : (presenceBody s).flags.getLsbD g.position = s.status.isSet g := rfl

end

/-! ### The statement -/

/-- Settles O55, from the flags after setting one and from what the request does at an idle and at a busy player. -/
theorem faultPatternOnNewFlag : Obligations.FaultPatternOnNewFlag := by
  intro f s hphase
  have hset : (setFlag f s).status.isSet f = true := by simp [isSet_setFlag]
  refine ⟨hset, fun g hg => by simp [isSet_setFlag, hg], fun hclear hmask => ?_,
    (presenceBody_flag f _).trans hset, setFlag_quiet, setFlag_eq f s⟩
  have hrequests := setFlag_requests hphase hclear hmask
  refine ⟨hrequests, fun henabled hidle => ?_, fun henabled hbusy => ?_⟩
  · rw [hrequests, StatusUnit.request_idle henabled hidle]; exact ⟨rfl, rfl⟩
  · rw [hrequests, StatusUnit.request_busy henabled hbusy]; exact ⟨rfl, rfl⟩

end Sys2Proof.Machine
end

section
/-! PROOFS. What every command but the resets keeps: the form of the memories, the bounds of the collections, the flag
positions in use, the history, the identity of the station, FAULT and RUN (R17, R33, R85, R130, R170, R177). -/

namespace Sys2Proof.Machine

/-! ### The bounds, block by block -/

/-- The transmit queue holds its bounds (R130). -/
def QueueFits (q : List TxFrame) : Prop := q.length ≤ 24 ∧ lowClassCount q ≤ 20

/-- The note FIFO holds its bounds (R19). -/
def FifoFits (fifo : List Note) : Prop := fifo.length ≤ 9 ∧ handedCount fifo ≤ 8

/-- A history as R85, R110 and R116 have it. -/
def UnitsGood (h : List TextUnit) : Prop :=
  h.length ≤ 32 ∧ HeldTail h ∧ ∀ u ∈ h, u.offRecord = true → u.stream = .shadow

/-- The phases in which no block has begun: before the configuration block is judged, and in FAULT (R171, R174). -/
def Dormant (s : State) : Prop := s.seq.phase = .fault ∨ Loading s .recovery ∨ Loading s .config

/-- What one command, no reset, keeps from s to t. -/
structure Sound (s t : State) : Prop where
  flash : Memory.wf s.port.flashMem → Memory.wf t.port.flashMem ∧
    ∀ a, Memory.read t.port.flashMem a &&& Memory.read s.port.flashMem a = Memory.read t.port.flashMem a
  ram : Memory.wf s.port.ramMem → Memory.wf t.port.ramMem
  ramOutside : ∀ x, ¬ InOverlay s x → Memory.read t.port.ramMem x = Memory.read s.port.ramMem x
  identity : (t.seq.addr, t.seq.ramFit, t.seq.resetKind) = (s.seq.addr, s.seq.ramFit, s.seq.resetKind)
  fault : s.seq.phase = .fault → t.seq.phase = .fault
  run : s.seq.phase = .run → t.seq.phase = .run
  awake : ¬ Dormant s → ¬ Dormant t
  strokes : s.strokes.length ≤ 16 → t.strokes.length ≤ 16
  inbox : s.inbox.length ≤ 4 → t.inbox.length ≤ 4
  sequence : s.translator.sequence.length ≤ 8 → t.translator.sequence.length ≤ 8
  queue : QueueFits s.bus.queue → QueueFits t.bus.queue
  fifo : FifoFits s.notes.fifo → FifoFits t.notes.fifo
  table : s.peers.table.length = 16 → t.peers.table.length = 16
  writePos : s.notes.writePos.getD 0 % 16 = 0 → t.notes.writePos.getD 0 % 16 = 0
  flags : FlagsGood s → FlagsGood t
  history : UnitsGood s.translator.history → UnitsGood t.translator.history

/-- A part of a command, the region table kept: such parts compose. -/
structure Steady (s t : State) : Prop extends Sound s t where
  regions : t.port.regions = s.port.regions

/-- The fields that `Steady` speaks of. -/
def watched (s : State) :=
  (s.port.flashMem, s.port.ramMem, s.port.regions, s.seq.addr, s.seq.ramFit, s.seq.resetKind, s.seq.phase,
    s.seq.loadStep, s.strokes, s.inbox, s.translator.sequence, s.translator.history, s.bus.queue, s.notes.fifo, s.notes.writePos, s.peers.table,
    s.status.flags)

theorem Steady.refl (s : State) : Steady s s where
  flash h := ⟨h, fun _ => BitVec.and_self⟩
  ram := id
  ramOutside _ _ := rfl
  identity := rfl
  fault := id
  run := id
  awake := id
  strokes := id
  inbox := id
  sequence := id
  queue := id
  fifo := id
  table := id
  writePos := id
  flags := id
  history := id
  regions := rfl

theorem Steady.inOverlay {s t : State} (h : Steady s t) (x : Nat) : InOverlay t x ↔ InOverlay s x := by
  unfold InOverlay MemoryPort.region; rw [h.regions]

/-- A part of a command, and then what keeps the same. -/
theorem Steady.then {s t u : State} (h : Steady s t) (k : Sound t u) : Sound s u where
  flash hs := by
    obtain ⟨ht, hclears⟩ := h.flash hs
    obtain ⟨hu, kclears⟩ := k.flash ht
    refine ⟨hu, fun a => ?_⟩
    calc Memory.read u.port.flashMem a &&& Memory.read s.port.flashMem a
        = Memory.read u.port.flashMem a &&& (Memory.read t.port.flashMem a &&& Memory.read s.port.flashMem a) := by
          rw [← BitVec.and_assoc, kclears]
      _ = Memory.read u.port.flashMem a := by rw [hclears, kclears]
  ram := k.ram ∘ h.ram
  ramOutside x hx := (k.ramOutside x (mt (h.inOverlay x).1 hx)).trans (h.ramOutside x hx)
  identity := k.identity.trans h.identity
  fault := k.fault ∘ h.fault
  run := k.run ∘ h.run
  awake := k.awake ∘ h.awake
  strokes := k.strokes ∘ h.strokes
  inbox := k.inbox ∘ h.inbox
  sequence := k.sequence ∘ h.sequence
  queue := k.queue ∘ h.queue
  fifo := k.fifo ∘ h.fifo
  table := k.table ∘ h.table
  writePos := k.writePos ∘ h.writePos
  flags := k.flags ∘ h.flags
  history := k.history ∘ h.history

theorem Steady.trans {s t u : State} (h : Steady s t) (k : Steady t u) : Steady s u :=
  ⟨h.then k.toSound, k.regions.trans h.regions⟩

/-- A change of other fields only. -/
theorem Steady.ofWatched {s t : State} (h : watched t = watched s) : Steady s t := by
  simp only [watched, Prod.mk.injEq] at h
  obtain ⟨hflash, hram, hregions, haddr, hfit, hkind, hphase, hstep, hstrokes, hinbox, hsequence, hhistory, hqueue, hfifo,
    hpos, htable, hflags⟩ := h
  constructor
  · constructor
    · rw [hflash]; exact (Steady.refl s).flash
    · rw [hram]; exact id
    · rw [hram]; exact fun _ _ => rfl
    · rw [haddr, hfit, hkind]
    · rw [hphase]; exact id
    · rw [hphase]; exact id
    · unfold Dormant Loading; rw [hphase, hstep]; exact id
    · rw [hstrokes]; exact id
    · rw [hinbox]; exact id
    · rw [hsequence]; exact id
    · rw [hqueue]; exact id
    · rw [hfifo]; exact id
    · rw [htable]; exact id
    · rw [hpos]; exact id
    · unfold FlagsGood; rw [hflags]; exact id
    · rw [hhistory]; exact id
  · exact hregions

theorem Steady.ite {c : Prop} [Decidable c] {s t : State} (h : Steady s t) : Steady s (if c then t else s) := by
  split
  · exact h
  · exact .refl s

theorem Steady.fold {α : Type} (l : List α) (f : State → α → State) (h : ∀ s a, Steady s (f s a)) (s : State) :
    Steady s (l.foldl f s) := by
  induction l generalizing s with
  | nil => exact .refl _
  | cons a l ih => exact (h s a).trans (ih _)

theorem elapse_steady (n : Nat) (s : State) : Steady s (elapse n s) := .ofWatched rfl

theorem onExpiry_steady {act : State → State} (h : ∀ s, Steady s (act s)) (t : Option Nat) (s : State) :
    Steady s (onExpiry t act s) := by
  unfold onExpiry; split
  · exact .refl s
  · exact (elapse_steady _ s).trans (h _)

/-! ### Status unit (R177, R178) -/

theorem requestPattern_steady (p : Pattern) (s : State) : Steady s (requestPattern p s) := by
  refine .ofWatched ?_
  have hflags := requestPattern_flags p s
  rw [requestPattern_eq] at hflags ⊢
  unfold watched; rw [hflags]

theorem mask_used (f : Flag) : f.mask &&& ~~~usedFlags = 0 := by cases f <;> decide

theorem flagsGood_or {x y : Word} (hx : x &&& ~~~usedFlags = 0) (hy : y &&& ~~~usedFlags = 0) :
    (x ||| y) &&& ~~~usedFlags = 0 := by
  rw [BitVec.and_or_distrib_right, hx, hy]; rfl

theorem flagsGood_and {x : Word} (hx : x &&& ~~~usedFlags = 0) (y : Word) : (x &&& y) &&& ~~~usedFlags = 0 := by
  rw [BitVec.and_assoc, BitVec.and_comm y, ← BitVec.and_assoc, hx]; exact BitVec.zero_and

theorem setFlag_steady (f : Flag) (s : State) : Steady s (setFlag f s) := by
  have hflags : FlagsGood s → FlagsGood (setFlag f s) := fun h => by
    unfold FlagsGood; rw [setFlag_flags]; exact flagsGood_or h (mask_used f)
  rw [setFlag_eq] at hflags ⊢
  exact { Steady.refl s with flags := hflags }

theorem setFlagIf_steady (c : Bool) (f : Flag) (s : State) : Steady s (setFlagIf c f s) := .ite (setFlag_steady f s)

theorem clearFlags_steady (w : Word) (s : State) : Steady s (clearFlags w s) :=
  { Steady.refl s with flags := fun h => flagsGood_and h _ }

theorem ackCommand_steady (s : State) : Steady s (ackCommand s) := { Steady.refl s with flags := fun _ => BitVec.zero_and }

theorem nextPattern_steady (s : State) : Steady s (nextPattern s) := by
  unfold nextPattern; split
  · exact .ofWatched rfl
  · exact .ofWatched rfl

/-! ### Arbiter, notes and frames handed (R19, R39, R130) -/

theorem arbitrate_steady (s : State) : Steady s (arbitrate s) := by rw [arbitrate_eq]; exact .ofWatched rfl

theorem armFlush_steady (s : State) : Steady s (armFlush s) := by
  unfold armFlush; split
  · exact .ofWatched rfl
  · exact .refl s

theorem loseNote_steady (s : State) : Steady s (loseNote s) := .ofWatched rfl

theorem FifoFits.append {fifo : List Note} (h : fifo.length < 8) (n : Note) : FifoFits (fifo ++ [n]) := by
  have hcount : handedCount (fifo ++ [n]) ≤ (fifo ++ [n]).length := List.countP_le_length
  simp only [List.length_append, List.length_singleton] at hcount
  exact ⟨by simp only [List.length_append, List.length_singleton]; omega, by omega⟩

theorem joinNote_steady (n : Note) (s : State) : Steady s (joinNote n s) := by
  unfold joinNote; split
  · exact loseNote_steady s
  · split
    · exact (loseNote_steady s).trans (setFlag_steady _ _)
    · rename_i hroom
      have hjoins : Steady s { s with notes := { s.notes with fifo := s.notes.fifo ++ [n] } } :=
        { Steady.refl s with fifo := fun _ => .append (by omega) n }
      exact hjoins.trans (armFlush_steady _)

theorem handNote_steady (n : Note) (s : State) : Steady s (handNote n s) := by
  unfold handNote; repeat' split
  · exact (joinNote_steady n s).trans (arbitrate_steady _)
  · exact .ofWatched rfl
  · exact (loseNote_steady s).trans (setFlag_steady _ _)

theorem setQueue_steady {q : List TxFrame} {s : State} (h : QueueFits s.bus.queue → QueueFits q) :
    Steady s (setQueue q s) := { Steady.refl s with queue := h }

theorem lowClassCount_append (q : List TxFrame) (f : TxFrame) :
    lowClassCount (q ++ [f]) = lowClassCount q + if 2 ≤ f.cls then 1 else 0 := by
  unfold lowClassCount; rw [List.countP_append, List.countP_singleton]; simp

theorem QueueFits.append_low {q : List TxFrame} (h : noLowSlot q = false) (f : TxFrame) : QueueFits (q ++ [f]) := by
  simp only [noLowSlot, Bool.or_eq_false_iff, decide_eq_false_iff_not] at h
  refine ⟨by simp only [List.length_append, List.length_singleton]; omega, ?_⟩
  rw [lowClassCount_append]; split <;> omega

theorem QueueFits.append_high {q : List TxFrame} {f : TxFrame} (hlen : q.length < 24) (hf : ¬ 2 ≤ f.cls)
    (h : QueueFits q) : QueueFits (q ++ [f]) := by
  refine ⟨by simp only [List.length_append, List.length_singleton]; omega, ?_⟩
  rw [lowClassCount_append, if_neg hf]; exact h.2

/-- A place in the queue that one of its frames holds. -/
theorem victimPlace_lt {q : List TxFrame} {i : Nat} (h : victimPlace q = some i) : i < q.length := by
  unfold victimPlace at h; dsimp only at h
  obtain ⟨p, hp, rfl⟩ := Option.map_eq_some_iff.1 h
  obtain ⟨hmem, -⟩ := List.mem_filter.1 (List.mem_filter.1 (List.mem_of_getLast? hp)).1
  exact (List.mem_zipIdx' hmem).1

theorem QueueFits.displace {q : List TxFrame} {f : TxFrame} {i : Nat} (hi : i < q.length) (hf : ¬ 2 ≤ f.cls)
    (h : QueueFits q) : QueueFits (q.eraseIdx i ++ [f]) := by
  have hsub : lowClassCount (q.eraseIdx i) ≤ lowClassCount q := (List.eraseIdx_sublist q i).countP_le
  obtain ⟨hlen, hlow⟩ := h
  refine ⟨?_, by rw [lowClassCount_append, if_neg hf]; omega⟩
  rw [List.length_append, List.length_eraseIdx_of_lt hi, List.length_singleton]; omega

theorem displace_steady {f : TxFrame} (hf : ¬ 2 ≤ f.cls) (s : State) : Steady s (displace f s) := by
  unfold displace; split
  · exact setFlag_steady _ s
  · rename_i i hi
    refine (setFlagIf_steady _ _ s).trans (setQueue_steady fun h => ?_)
    rw [setFlagIf_eq] at h; exact h.displace (victimPlace_lt hi) hf

theorem handFrame_steady (f : TxFrame) (s : State) : Steady s (handFrame f s) := by
  unfold handFrame; split
  · exact .refl s
  · split
    · split
      · exact .refl s
      · rename_i hslot
        simp only [Bool.or_eq_true, not_or, Bool.not_eq_true] at hslot
        exact setQueue_steady fun _ => .append_low hslot.2 f
    · split
      · split
        · exact setFlag_steady _ s
        · rename_i hslot
          exact setQueue_steady fun _ => .append_low (Bool.not_eq_true _ ▸ hslot) f
      · rename_i hcls
        split
        · rename_i hlen
          exact setQueue_steady (.append_high hlen hcls)
        · exact displace_steady hcls s

theorem broadcast_steady (m : Msg) (s : State) : Steady s (broadcast m s) := handFrame_steady _ s

theorem sendTo_steady (a : Station) (m : Msg) (s : State) : Steady s (sendTo a m s) := handFrame_steady _ s

theorem raiseKnown_steady (v : Word) (s : State) : Steady s (raiseKnown v s) := .ofWatched rfl

theorem passKnown_steady (v : Word) (s : State) : Steady s (passKnown v s) := .ofWatched rfl

/-! ### Peer table (R139) -/

theorem setPeer_steady (a : Station) (p : Peer) (s : State) : Steady s (setPeer a p s) :=
  { Steady.refl s with table := fun h => (List.length_set ..).trans h }

/-! ### Floor controller -/

theorem setFloor_steady (f : FloorRecord) (s : State) : Steady s (setFloor f s) := .ofWatched rfl

theorem enterOn_steady (s : State) : Steady s (enterOn s) :=
  (setFloor_steady _ s).trans ((handNote_steady _ _).trans (requestPattern_steady _ _))

theorem enterOff_steady (s : State) : Steady s (enterOff s) := (setFloor_steady _ s).trans (handNote_steady _ _)

theorem enterYielding_steady (p : Station) (s : State) : Steady s (enterYielding p s) :=
  (setFloor_steady _ s).trans (requestPattern_steady _ _)

theorem setHolder_steady (a : Station) (s : State) : Steady s (setHolder a s) := setFloor_steady _ s

theorem clearHolder_steady (s : State) : Steady s (clearHolder s) := setFloor_steady _ s

theorem vacancyFound_steady (s : State) : Steady s (vacancyFound s) := .ite (setFloor_steady _ s)

theorem restartVacancy_steady (s : State) : Steady s (restartVacancy s) := .ite (setFloor_steady _ s)

theorem holderShown_steady (a : Station) (s : State) : Steady s (holderShown a s) :=
  (setHolder_steady a s).trans (restartVacancy_steady _)

theorem strokeReported_steady (s : State) : Steady s (strokeReported s) :=
  (setFloor_steady _ s).trans (vacancyFound_steady _)

theorem claimNow_steady (s : State) : Steady s (claimNow s) := (broadcast_steady _ s).trans (setFloor_steady _ _)

theorem leaveFloor_steady (s : State) : Steady s (leaveFloor s) := by
  unfold leaveFloor; split
  · exact (broadcast_steady _ s).trans ((setHolder_steady _ _).trans (enterOff_steady _))
  · exact (broadcast_steady _ s).trans ((setFloor_steady _ _).trans (enterOff_steady _))

theorem drainCheck_steady (s : State) : Steady s (drainCheck s) := .ite (leaveFloor_steady s)

theorem startDrain_steady (s : State) : Steady s (startDrain s) := (setFloor_steady _ s).trans (drainCheck_steady _)

theorem makeCut_steady (s : State) : Steady s (makeCut s) := .ite (startDrain_steady s)

theorem speakerCreated_steady (s : State) : Steady s (speakerCreated s) := .ite (makeCut_steady s)

theorem freeCommand_steady (s : State) : Steady s (freeCommand s) :=
  .ite ((setFloor_steady _ s).trans (startDrain_steady _))

theorem yieldCommand_steady (s : State) : Steady s (yieldCommand s) := .ite (makeCut_steady s)

theorem reliefCommand_steady (s : State) : Steady s (reliefCommand s) := by
  refine .ite ?_
  split
  · split
    · exact .refl s
    · exact (sendTo_steady _ _ s).trans (setFloor_steady _ _)
  · exact (setFloor_steady _ s).trans (claimNow_steady _)

theorem urgent_steady {hand : State → State} (h : ∀ s, Steady s (hand s)) (s : State) : Steady s (urgent hand s) :=
  (h s).trans (drainCheck_steady _)

end Sys2Proof.Machine
end

section
/-! PROOFS. The history under every act of the release unit and of text assembly (R85, R86, R107, R110, R116). -/

namespace Sys2Proof.Machine

/-! ### Histories (R85) -/

/-- Where the streams of HELD units on record change at most, and units leave at most, a history stays good. -/
theorem heldTail_map {h : List TextUnit} {f : TextUnit → TextUnit} (hf : ∀ u, (f u).released = u.released)
    (ht : HeldTail h) : HeldTail (h.map f) := by
  unfold HeldTail; rw [List.pairwise_map]
  exact ht.imp fun hab => by rw [hf, hf]; exact hab

theorem UnitsGood.sublist {h k : List TextUnit} (hk : k.Sublist h) (hg : UnitsGood h) : UnitsGood k := by
  obtain ⟨hlen, htail, hoff⟩ := hg
  exact ⟨hk.length_le.trans hlen, htail.sublist hk, fun u hu => hoff u (hk.subset hu)⟩

theorem UnitsGood.restream {h : List TextUnit} {was : Stream} (hwas : was ≠ .shadow) (now : TextUnit → Stream)
    (hg : UnitsGood h) :
    UnitsGood (h.map fun u => if !u.released && decide (u.stream = was) then { u with stream := now u } else u) := by
  obtain ⟨hlen, htail, hoff⟩ := hg
  refine ⟨by rw [List.length_map]; exact hlen, heldTail_map (fun u => by split <;> rfl) htail, ?_⟩
  simp only [List.mem_map, forall_exists_index, and_imp]
  rintro _ u hu rfl
  split
  · rename_i hc
    simp only [Bool.and_eq_true, decide_eq_true_eq] at hc
    exact fun hrec => absurd (hc.2 ▸ hoff u hu hrec) hwas
  · exact hoff u hu

/-- The unit in the middle of a history is replaced by one with its release state, or by a RELEASED one behind RELEASED
units. -/
theorem UnitsGood.replace {us vs : List TextUnit} {u v : TextUnit}
    (hreleased : v.released = u.released ∨ v.released = true ∧ ∀ x ∈ us, x.released = true)
    (hoff : v.offRecord = true → v.stream = .shadow) (hg : UnitsGood (us ++ u :: vs)) :
    UnitsGood (us ++ v :: vs) := by
  obtain ⟨hlen, htail, hshadow⟩ := hg
  refine ⟨by simpa using hlen, ?_, ?_⟩
  · unfold HeldTail at htail ⊢
    rw [List.pairwise_append, List.pairwise_cons] at htail ⊢
    obtain ⟨hus, ⟨huv, hvs⟩, hcross⟩ := htail
    refine ⟨hus, ⟨fun x hx hv => ?_, hvs⟩, fun x hx y hy hheld => ?_⟩
    · rcases hreleased with heq | ⟨htrue, -⟩
      · exact huv x hx (heq ▸ hv)
      · rw [htrue] at hv; cases hv
    · rcases List.mem_cons.1 hy with rfl | hy
      · rcases hreleased with heq | ⟨-, hall⟩
        · rw [heq]; exact hcross x hx u (List.mem_cons_self ..) hheld
        · rw [hall x hx] at hheld; cases hheld
      · exact hcross x hx y (List.mem_cons_of_mem _ hy) hheld
  · simp only [List.mem_append, List.mem_cons] at hshadow ⊢
    rintro x (hx | rfl | hx)
    · exact hshadow x (.inl hx)
    · exact hoff
    · exact hshadow x (.inr (.inr hx))

theorem UnitsGood.append {h : List TextUnit} {u : TextUnit} (hroom : h.length < 32) (hheld : u.released = false)
    (hoff : u.offRecord = true → u.stream = .shadow) (hg : UnitsGood h) : UnitsGood (h ++ [u]) := by
  obtain ⟨-, htail, hshadow⟩ := hg
  refine ⟨by simpa using hroom, ?_, ?_⟩
  · unfold HeldTail; rw [List.pairwise_append]
    exact ⟨htail, List.pairwise_singleton _ _, fun _ _ y hy _ => by rw [List.mem_singleton.1 hy]; exact hheld⟩
  · simp only [List.mem_append, List.mem_singleton]
    rintro x (hx | rfl)
    · exact hshadow x hx
    · exact hoff

theorem setHistory_steady {h : List TextUnit} {s : State} (hg : UnitsGood s.translator.history → UnitsGood h) :
    Steady s (setHistory h s) := { Steady.refl s with history := hg }

theorem restream_steady {was : Stream} (hwas : was ≠ .shadow) (now : TextUnit → Stream) (s : State) :
    Steady s (restream was now s) := setHistory_steady (.restream hwas now)

/-! ### Release (R112 to R117) -/

theorem setRelease_steady (s : State) (r : ReleaseUnit) : Steady s { s with release := r } := .ofWatched rfl

/-- The unit at a place becomes RELEASED, and is numbered and sent as its stream asks. -/
theorem releaseUnit_steady {s : State} {us vs : List TextUnit} {u v : TextUnit}
    (hh : s.translator.history = us ++ u :: vs) (hbefore : ∀ x ∈ us, x.released = true)
    (hoff : UnitsGood s.translator.history → v.offRecord = true → v.stream = .shadow) :
    Steady s (releaseUnit us.length v s) := by
  have hmark : ∀ seq, Steady s
      (setHistory (s.translator.history.set us.length { v with released := true, seq := seq }) s) := fun seq => by
    refine setHistory_steady fun hg => ?_
    have hshadow := hoff hg
    rw [hh] at hg ⊢
    rw [List.set_append_right _ _ (le_refl _), Nat.sub_self, List.set_cons_zero]
    exact hg.replace (.inr ⟨rfl, hbefore⟩) hshadow
  have hsent : ∀ seq m r, Steady s (drainCheck (broadcast m
      { setHistory (s.translator.history.set us.length { v with released := true, seq := seq }) s with
        release := r })) := fun seq m r =>
    (hmark seq).trans ((setRelease_steady _ _).trans ((broadcast_steady m _).trans (drainCheck_steady _)))
  unfold releaseUnit; dsimp only; split
  · exact (hmark _).trans (drainCheck_steady _)
  · exact hsent _ _ _
  · exact hsent _ _ _
  · exact (hmark _).trans (drainCheck_steady _)

theorem releaseDue_steady (n : Nat) (s : State) : Steady s (releaseDue n s) := by
  induction n generalizing s with
  | zero => exact .refl s
  | succ n ih =>
    unfold releaseDue
    rcases oldestHeld_cases s with ⟨hnone, -⟩ | ⟨us, u, vs, ⟨hh, hbefore, -⟩, hsome⟩
    · rw [hnone]; exact .refl s
    · rw [hsome]
      refine .ite ((releaseUnit_steady hh hbefore fun hg => ?_).trans (ih _))
      exact hg.2.2 u (by rw [hh]; simp)

theorem settle_steady (s : State) : Steady s (settle s) := (releaseDue_steady _ s).trans (.ofWatched rfl)

/-! ### Creation of a unit (R84 to R86, R110) -/

theorem forceOldest_steady {u : TextUnit} {us : List TextUnit} {s : State} (hh : s.translator.history = u :: us) :
    Steady s (forceOldest u s) := by
  have hshadow : UnitsGood s.translator.history → u.offRecord = true → u.stream = .shadow := fun hg =>
    hg.2.2 u (by rw [hh]; simp)
  unfold forceOldest; split
  · refine releaseUnit_steady (us := []) hh (by simp) fun hg hrec => ?_
    show (if _ then _ else _) = Stream.shadow
    rw [hshadow hg hrec]; rfl
  · refine setHistory_steady fun hg => ?_
    have hoff := hshadow hg
    rw [hh] at hg ⊢
    exact hg.replace (us := []) (v := { u with released := true }) (.inr ⟨rfl, by simp⟩) hoff

theorem dropOldest_steady (s : State) : Steady s (dropOldest s) :=
  setHistory_steady (.sublist (List.tail_sublist _))

theorem makeRoom_steady (s : State) : Steady s (makeRoom s) := by
  unfold makeRoom; split
  · exact .refl s
  · rename_i u us hh
    split
    · exact .refl s
    · split
      · exact dropOldest_steady s
      · exact (forceOldest_steady hh).trans ((dropOldest_steady _).trans
          ((drainCheck_steady _).trans (settle_steady _)))

/-- The number of units is unchanged by a release. -/
theorem releaseUnit_length (i : Nat) (u : TextUnit) (s : State) :
    (releaseUnit i u s).translator.history.length = s.translator.history.length := by
  unfold releaseUnit; dsimp only; split <;> rw [(drainCheck_act _).translator]
  · exact List.length_set ..
  · rw [(broadcast_act _ _).translator]; exact List.length_set ..
  · rw [(broadcast_act _ _).translator]; exact List.length_set ..
  · exact List.length_set ..

theorem settle_length (s : State) : (settle s).translator.history.length = s.translator.history.length := by
  have hdue : ∀ n (s : State), (releaseDue n s).translator.history.length = s.translator.history.length := by
    intro n
    induction n with
    | zero => exact fun _ => rfl
    | succ n ih =>
      intro s
      unfold releaseDue; split
      · rfl
      · split
        · rw [ih, releaseUnit_length]
        · rfl
  exact hdue _ s

theorem forceOldest_length (u : TextUnit) (s : State) :
    (forceOldest u s).translator.history.length = s.translator.history.length := by
  unfold forceOldest; split
  · exact releaseUnit_length ..
  · exact List.length_set ..

/-- Behind the capacity rule there is room for a unit (R86). -/
theorem makeRoom_length {s : State} (h : s.translator.history.length ≤ 32) :
    (makeRoom s).translator.history.length < 32 := by
  unfold makeRoom; split
  · rename_i hnil; rw [hnil]; simp
  · rename_i u us hh
    split
    · assumption
    · split
      · show s.translator.history.tail.length < 32
        rw [List.length_tail]; omega
      · rw [settle_length, (drainCheck_act _).translator]
        show (forceOldest u s).translator.history.tail.length < 32
        rw [List.length_tail, forceOldest_length]; omega

theorem newUnit_offRecord (a : Assembled) (strokes : List Word) (start : Word) (gap : Option Nat) (s : State)
    (h : (newUnit a strokes start gap s).offRecord = true) : (newUnit a strokes start gap s).stream = .shadow := by
  have hoff : s.release.recordOn = false := by simpa [newUnit] using h
  simp [newUnit, streamFor, hoff]

theorem reportUnit_steady (u : TextUnit) (s : State) : Steady s (reportUnit u s) := by
  unfold reportUnit; dsimp only; repeat' split
  · exact (requestPattern_steady _ s).trans (speakerCreated_steady _)
  · exact speakerCreated_steady s
  · exact requestPattern_steady _ s
  · exact .refl s

theorem createUnit_steady (a : Assembled) (strokes : List Word) (start : Word) (gap : Option Nat) (s : State) :
    Steady s (createUnit a strokes start gap s) := by
  have hroom := makeRoom_steady s
  have hjoins : Steady s (appendUnit (newUnit a strokes start gap (makeRoom s)) a.after (makeRoom s)) :=
    { hroom with
      history := fun hg =>
        (hroom.history hg).append (makeRoom_length hg.1) rfl (newUnit_offRecord a strokes start gap _) }
  have hreported := hjoins.trans (reportUnit_steady (newUnit a strokes start gap (makeRoom s)) _)
  unfold createUnit; dsimp only; split
  · exact hreported
  · exact hreported.trans (settle_steady _)

/-! ### Undo and the record state (R87, R88, R122) -/

theorem retract_steady (u : TextUnit) (s : State) : Steady s (retract u s) := by
  unfold retract; split
  · exact broadcast_steady _ s
  · exact .refl s

theorem undoHistory_steady (s : State) : Steady s (undoHistory s) := by
  have hdrop : ∀ u, Steady s (dropNewest u s) := fun u =>
    { Steady.refl s with history := .sublist (List.dropLast_sublist _) }
  unfold undoHistory; split
  · exact .refl s
  · split
    · exact (hdrop _).trans (retract_steady _ _)
    · exact (hdrop _).trans ((drainCheck_steady _).trans (.ite (.ofWatched rfl)))

theorem setRecord_steady (on : Bool) (a : Station) (s : State) : Steady s (setRecord on a s) := by
  have hset : Steady s { s with release := { s.release with recordOn := on } } := .ofWatched rfl
  unfold setRecord; dsimp only; split
  · exact hset
  · exact hset.trans (handNote_steady _ _)

theorem recordCommand_steady (on : Bool) (s : State) : Steady s (recordCommand on s) :=
  (setRecord_steady _ _ s).trans (urgent_steady (broadcast_steady _) _)

/-! ### Floor outcomes (R157 to R167) -/

theorem restreamPending_steady (now : TextUnit → Stream) (s : State) : Steady s (restream .pending now s) :=
  restream_steady (by decide) now s

theorem pendingLost_steady (s : State) : Steady s (pendingLost s) :=
  (restreamPending_steady _ s).trans (enterOff_steady _)

theorem requestEnded_steady (f : Flag) (s : State) : Steady s (requestEnded f s) :=
  (restreamPending_steady _ s).trans ((setFlag_steady _ _).trans (enterOff_steady _))

theorem startHoldOff_steady (s : State) : Steady s (startHoldOff s) := setFloor_steady _ s

theorem claimWon_steady (s : State) : Steady s (claimWon s) :=
  (restreamPending_steady _ s).trans ((enterOn_steady _).trans (settle_steady _))

theorem conflict_steady (a : Station) (s : State) : Steady s (conflict a s) := by
  have hrestream : Steady s (restream .official (fun _ => .shadow) s) := restream_steady (by decide) _ s
  have hleave : ∀ s, Steady s (settle (enterOff (setHolder a (setFlag .floorConflict s)))) := fun s =>
    (setFlag_steady _ s).trans ((setHolder_steady _ _).trans ((enterOff_steady _).trans (settle_steady _)))
  unfold conflict; split
  · exact .refl s
  · dsimp only; split
    · exact hrestream.trans ((sendTo_steady _ _ _).trans (hleave _))
    · exact hrestream.trans (hleave _)

theorem holdingHeard_steady (a : Station) (s : State) : Steady s (holdingHeard a s) := by
  unfold holdingHeard; split
  · split
    · exact holderShown_steady _ s
    · exact (pendingLost_steady s).trans ((setHolder_steady _ _).trans (settle_steady _))
    · exact setHolder_steady _ s
    all_goals exact conflict_steady a s
  · exact setHolder_steady _ s

theorem claimHeard_steady (a : Station) (held : Bool) (s : State) : Steady s (claimHeard a held s) := by
  have hvacant : Steady s (if vacant s then startHoldOff (setFloor { s.floor with claimWait := none } s) else s) :=
    .ite ((setFloor_steady _ s).trans (startHoldOff_steady _))
  unfold claimHeard; split
  · split
    · dsimp only; split
      · exact hvacant.trans (holderShown_steady _ _)
      · exact hvacant
    · split
      · exact (pendingLost_steady s).trans ((setHolder_steady _ _).trans
          ((startHoldOff_steady _).trans (settle_steady _)))
      · exact .ite ((pendingLost_steady s).trans ((startHoldOff_steady _).trans (settle_steady _)))
    · exact .ite (setHolder_steady _ s)
    all_goals exact urgent_steady (broadcast_steady _) s
  · exact .ite (setHolder_steady _ s)

theorem reliefAsked_steady (a : Station) (s : State) : Steady s (reliefAsked a s) := by
  have hanswer : ∀ notHolder, Steady s (urgent (sendTo a (.reliefBusy notHolder)) s) := fun _ =>
    urgent_steady (sendTo_steady _ _) s
  refine .ite ?_
  split
  · exact enterYielding_steady a s
  · split
    · exact .refl s
    · exact hanswer _
  · split
    · exact .refl s
    · exact hanswer _
  all_goals exact hanswer _

theorem reliefRefused_steady (a : Station) (notHolder : Bool) (s : State) :
    Steady s (reliefRefused a notHolder s) := by
  refine .ite ((requestEnded_steady _ s).trans (.trans (.ite ?_) (settle_steady _)))
  exact (clearHolder_steady _).trans (vacancyFound_steady _)

theorem passGained_steady (a : Station) (known cut : Word) (s : State) : Steady s (passGained a known cut s) :=
  (setFlagIf_steady _ _ s).trans ((passKnown_steady _ _).trans ((restreamPending_steady _ _).trans
    ((enterOn_steady _).trans (settle_steady _))))

theorem passTaken_steady (a : Station) (known cut : Word) (s : State) : Steady s (passTaken a known cut s) := by
  unfold passTaken; split
  · split
    · exact passGained_steady _ _ _ s
    · exact passGained_steady _ _ _ s
    · exact passGained_steady _ _ _ s
    all_goals exact passKnown_steady _ s
  · exact (passKnown_steady _ s).trans (clearHolder_steady _)

theorem passOther_steady (t : Station) (s : State) : Steady s (passOther t s) := by
  unfold passOther; split
  · split
    · exact holderShown_steady _ s
    · exact (pendingLost_steady s).trans ((setHolder_steady _ _).trans (settle_steady _))
    · dsimp only; split
      · exact setHolder_steady _ s
      · exact (setHolder_steady _ s).trans ((sendTo_steady _ _ _).trans (setFloor_steady _ _))
    all_goals exact .refl s
  · exact setHolder_steady _ s

theorem dropHolder_steady (a : Station) (s : State) : Steady s (dropHolder a s) := .ite (clearHolder_steady s)

theorem claimFromRequest_steady (s : State) : Steady s (claimFromRequest s) :=
  (setFloor_steady _ s).trans (claimNow_steady _)

theorem holderGone_steady (s : State) : Steady s (vacancyFound (clearHolder s)) :=
  (clearHolder_steady s).trans (vacancyFound_steady _)

theorem floorFreed_steady (a : Station) (s : State) : Steady s (floorFreed a s) := by
  unfold floorFreed; split
  · split
    · exact .ite (holderGone_steady s)
    · exact dropHolder_steady a s
    · split
      · exact claimFromRequest_steady s
      · exact dropHolder_steady a s
    all_goals exact .refl s
  · exact dropHolder_steady a s

theorem absenceReported_steady (a : Station) (s : State) : Steady s (absenceReported a s) := by
  unfold absenceReported; split
  · split
    · exact .ite (holderGone_steady s)
    · exact dropHolder_steady a s
    · split
      · exact claimFromRequest_steady s
      · exact dropHolder_steady a s
    · exact .refl s
    all_goals exact .ite (setFloor_steady _ s)
  · exact dropHolder_steady a s

theorem absenceCheck_steady (s : State) : Steady s (absenceCheck s) :=
  .fold _ _ (fun _ _ => .ite ((setPeer_steady _ _ _).trans (absenceReported_steady _ _))) s

theorem vacancyExpired_steady (s : State) : Steady s (vacancyExpired s) := by
  unfold vacancyExpired; dsimp only; split
  · exact (setHolder_steady _ s).trans (restartVacancy_steady _)
  · exact (holderGone_steady s).trans (restartVacancy_steady _)

theorem claimWaitEnded_steady (s : State) : Steady s (claimWaitEnded s) :=
  (setFloor_steady _ s).trans (.ite (claimNow_steady _))

theorem holdOffEnded_steady (s : State) : Steady s (holdOffEnded s) :=
  (setFloor_steady _ s).trans (vacancyFound_steady _)

theorem reliefExpired_steady (s : State) : Steady s (reliefExpired s) :=
  (requestEnded_steady _ s).trans (settle_steady _)

end Sys2Proof.Machine
end

section
/-! PROOFS. The overlay manager and the translator: RAM inside the OVERLAY region, the pending sequence, the inbox and
the history (R34, R52, R96, R99, R107). -/

namespace Sys2Proof.Machine

/-! ### Overlay manager (R90 to R98) -/

theorem overlayWrite_steady (off : Nat) (bs : List Byte) (s : State) : Steady s (overlayWrite off bs s) :=
  { Steady.refl s with
    ram := fun h => by
      show Memory.wf (MemoryPort.ramAfter ..)
      unfold MemoryPort.ramAfter; split
      · exact Memory.wf_writeBytes h _ _
      · exact h
    ramOutside := (overlayWrite_act off bs s).core.ramOutside }

theorem emptySlots_steady (s : State) : Steady s (emptySlots s) :=
  { Steady.refl s with
    ram := fun h => by
      show Memory.wf (MemoryPort.ramBlanked ..)
      unfold MemoryPort.ramBlanked; split
      · exact Memory.wf_blank h _ _
      · exact h
    ramOutside := (emptySlots_act s).core.ramOutside }

theorem writeHeader_steady (c : OverlayCounts) (good : Bool) (s : State) : Steady s (writeHeader c good s) :=
  overlayWrite_steady _ _ s

theorem clearOverlay_steady (s : State) : Steady s (clearOverlay s) :=
  (emptySlots_steady s).trans (writeHeader_steady _ _ _)

theorem writeCount_steady (v count : Nat) (s : State) : Steady s (writeCount v count s) :=
  (overlayWrite_steady _ _ s).trans (overlayWrite_steady _ _ _)

/-- A fold over a list, with counts carried along. -/
theorem Steady.foldCounts {α : Type} (l : List α) (f : OverlayCounts × State → α → OverlayCounts × State)
    (h : ∀ x a, Steady x.2 (f x a).2) (x : OverlayCounts × State) : Steady x.2 (l.foldl f x).2 := by
  induction l generalizing x with
  | nil => exact .refl _
  | cons a l ih => exact (h x a).trans (ih _)

theorem appendEntry_steady (k : EntryKind) (outline : List KeySet) (text : List Byte) (count slot : Nat)
    (x : OverlayCounts × State) : Steady x.2 (appendEntry k outline text count slot x).2 :=
  (overlayWrite_steady _ _ _).trans (overlayWrite_steady _ _ _)

theorem createPrefix_steady (p : List KeySet × Found) (x : OverlayCounts × State) :
    Steady x.2 (createPrefix p x).2 := by
  unfold createPrefix; split
  · exact appendEntry_steady _ _ _ _ _ (_, x.2)
  · exact .refl _

theorem placeStored_steady (p : List KeySet × Found) (text : List Byte) (x : OverlayCounts × State) :
    Steady x.2 (placeStored p text x).2 := by
  unfold placeStored; split
  · exact appendEntry_steady _ _ _ _ _ x
  · exact appendEntry_steady _ _ _ _ _ (_, x.2)
  · exact .refl _

theorem writeStore_steady (plan : List (List KeySet × Found)) (text : List Byte) (s : State) :
    Steady s (writeStore plan text s) := by
  unfold writeStore; dsimp only; split
  · exact writeHeader_steady _ _ s
  · rename_i o _
    have hplaced := ((writeHeader_steady (readCounts s) false s).trans (Steady.foldCounts plan.dropLast
      (fun x p => createPrefix p x) (fun x p => createPrefix_steady p x)
      (readCounts s, writeHeader (readCounts s) false s))).trans (placeStored_steady o text _)
    refine Steady.trans ?_ (writeHeader_steady _ _ _)
    split
    · exact hplaced
    · exact hplaced.trans (.fold _ (fun s v => raisePrefix v s) (fun s v => writeCount_steady _ _ s) _)

theorem freeSlot_steady (i : Nat) (x : OverlayCounts × State) : Steady x.2 (freeSlot i x).2 :=
  overlayWrite_steady _ _ _

theorem lowerPrefix_steady (p : Found) (x : OverlayCounts × State) : Steady x.2 (lowerPrefix p x).2 := by
  unfold lowerPrefix; split
  · dsimp only; split
    · exact (writeCount_steady _ _ _).trans (freeSlot_steady _ (_, _))
    · exact writeCount_steady _ _ _
  · exact .refl _

theorem writeDelete_steady (outline : List KeySet) (slot v : Nat) (s : State) :
    Steady s (writeDelete outline slot v s) := by
  unfold writeDelete; dsimp only
  refine Steady.trans ?_ (writeHeader_steady _ _ _)
  refine Steady.trans ?_ (.foldCounts _ _ (fun x p => lowerPrefix_steady p x) _)
  split
  · exact (writeHeader_steady _ _ s).trans (freeSlot_steady _ (_, _))
  · exact (writeHeader_steady _ _ s).trans (overlayWrite_steady _ _ _)

/-! ### Retranslation (R106, R107) -/

/-- The WORD unit of a run has the release state, the stream and the record state of the run's first unit. -/
theorem UnitsGood.retranslated {h : List TextUnit} {i n : Nat} {u : TextUnit} {us : List TextUnit}
    (hrun : (h.drop i).take n = u :: us) (text : List Byte) (hg : UnitsGood h) :
    UnitsGood (h.take i ++ [Machine.retranslated u (u :: us) text] ++ h.drop (i + n)) := by
  have hsplit : h = h.take i ++ u :: (us ++ h.drop (i + n)) := by
    calc h = h.take i ++ ((h.drop i).take n ++ (h.drop i).drop n) := by simp
      _ = h.take i ++ u :: (us ++ h.drop (i + n)) := by rw [hrun, List.drop_drop]; rfl
  have hsub : (h.take i ++ u :: h.drop (i + n)).Sublist h := by
    conv => rhs; rw [hsplit]
    exact ((List.sublist_append_right us _).cons_cons u).append_left _
  rw [List.append_assoc, List.singleton_append]
  have hoff := hg.2.2 u (by rw [hsplit]; simp)
  exact (hg.sublist hsub).replace (u := u) (.inl rfl) hoff

theorem replaceFrame_steady (u : TextUnit) (text : List Byte) (s : State) : Steady s (replaceFrame u text s) := by
  unfold replaceFrame; split
  · exact broadcast_steady _ s
  · exact .refl s

theorem retranslate_steady (outline : List KeySet) (text : List Byte) (s : State) :
    Steady s (retranslate outline text s) := by
  unfold retranslate; dsimp only; split
  · exact .refl s
  · split
    · exact .refl s
    · rename_i u us hrun
      have hframes := (setHistory_steady (UnitsGood.retranslated hrun text)).trans
        ((replaceFrame_steady u (retranslated u (u :: us) text).text _).trans
          (.fold us (fun s v => retract v s) (fun s v => retract_steady v s) _))
      repeat' split
      · exact hframes.trans ((drainCheck_steady _).trans (settle_steady _))
      · exact hframes.trans (drainCheck_steady _)
      · exact hframes

/-! ### Definitions (R95 to R100) -/

theorem setStale_steady (s : State) : Steady s (setStale s) := .ofWatched rfl

theorem storeDefinition_steady {outline : List KeySet} {text : List Byte} {source : Station} {s t : State}
    (h : storeDefinition outline text source s = some t) : Steady s t := by
  unfold storeDefinition at h; dsimp only at h; split at h
  · cases h
  · cases h
    exact (writeStore_steady _ _ s).trans ((handNote_steady _ _).trans
      ((setStale_steady _).trans (retranslate_steady _ _ _)))

theorem deleteDefinition_steady (outline : List KeySet) (source : Station) (s : State) :
    Steady s (deleteDefinition outline source s) := by
  unfold deleteDefinition; split
  · exact .refl s
  · exact .ite ((writeDelete_steady _ _ _ s).trans ((handNote_steady _ _).trans (setStale_steady _)))

theorem applyPeer_steady (d : PeerDefinition) (s : State) : Steady s (applyPeer d s) := by
  unfold applyPeer; split
  · exact deleteDefinition_steady _ _ s
  · split
    · rename_i h; exact storeDefinition_steady h
    · exact setFlag_steady _ s

theorem defineArrived_steady (a : Station) (payload : List Byte) (s : State) :
    Steady s (defineArrived a payload s) := by
  unfold defineArrived; split
  · exact .refl s
  · split
    · exact (setPeer_steady _ _ s).trans (setFlag_steady _ _)
    · split
      · exact setFlag_steady _ s
      · split
        · split
          · rename_i hroom
            exact { Steady.refl s with
              inbox := fun _ => by simp only [List.length_append, List.length_singleton]; omega }
          · exact setFlag_steady _ s
        · exact applyPeer_steady _ s

theorem applyInbox_steady (s : State) : Steady s (applyInbox s) := by
  have hempty : Steady s { s with inbox := [] } := { Steady.refl s with inbox := fun _ => Nat.zero_le _ }
  exact hempty.trans (.fold _ (fun s d => applyPeer d s) (fun s d => applyPeer_steady d s) _)

/-! ### Definition capture (R101 to R105) -/

theorem setCapture_steady (c : Capture) (s : State) : Steady s (setCapture c s) := .ofWatched rfl

theorem setSequence_steady {q : List PendingEntry} {s : State} (h : q.length ≤ 8 ∨ q.length ≤ s.translator.sequence.length) :
    Steady s (setSequence q s) := { Steady.refl s with sequence := fun hs => h.elim id hs.trans' }

theorem openCapture_steady (s : State) : Steady s (openCapture s) := .ite (setCapture_steady _ s)

theorem refuseCapture_steady (s : State) : Steady s (refuseCapture s) :=
  (setCapture_steady _ s).trans (setFlag_steady _ _)

theorem outlineStroke_steady (t : Taken) (r : LookupResult) (s : State) : Steady s (outlineStroke t r s) := by
  unfold outlineStroke; dsimp only; repeat' split
  · exact refuseCapture_steady s
  · exact setCapture_steady _ s
  · exact setCapture_steady _ s
  · exact refuseCapture_steady s

theorem storeOwn_steady (outline : List KeySet) (text : List Byte) (s : State) :
    Steady s (storeOwn outline text s) := by
  unfold storeOwn; repeat' split
  · exact setFlag_steady _ s
  · exact (deleteDefinition_steady _ _ s).trans (broadcast_steady _ _)
  · rename_i h; exact (storeDefinition_steady h).trans (broadcast_steady _ _)
  · exact setFlag_steady _ s

theorem closeCapture_steady (s : State) : Steady s (closeCapture s) :=
  (storeOwn_steady _ _ s).trans (setCapture_steady _ _)

theorem dropStroke_steady (s : State) : Steady s (setSequence s.translator.sequence.dropLast s) :=
  setSequence_steady (.inr (List.dropLast_sublist _).length_le)

theorem undoCapture_steady (s : State) : Steady s (undoCapture s) := by
  unfold undoCapture; dsimp only; split
  · split
    · exact setCapture_steady _ s
    · exact setCapture_steady _ s
  · split
    · exact dropStroke_steady s
    · split
      · exact setCapture_steady _ s
      · exact setCapture_steady _ s
  · exact .refl s

theorem undoStroke_steady (s : State) : Steady s (undoStroke s) := by
  unfold undoStroke; split
  · split
    · exact undoHistory_steady s
    · exact dropStroke_steady s
  · exact undoCapture_steady s

/-! ### Resolutions (R55 to R57, R61, R75) -/

theorem runCommand_steady (s : State) (c : Code) : Steady s (runCommand s c) := by
  unfold runCommand; split
  · exact openCapture_steady s
  · exact reliefCommand_steady s
  · exact yieldCommand_steady s
  · exact freeCommand_steady s
  · exact recordCommand_steady _ s
  · exact recordCommand_steady _ s
  · exact ackCommand_steady s
  · exact .refl s

theorem assembleAndHand_steady (text : List Byte) (strokes : List Word) (start : Word) (s : State) :
    Steady s (assembleAndHand text strokes start s) := by
  have hcommands : ∀ (cs : List Code) s, Steady s (cs.foldl runCommand s) := fun cs => .fold cs _ runCommand_steady
  unfold assembleAndHand; dsimp only; split
  · exact (hcommands _ s).trans ((createUnit_steady _ _ _ _ _).trans (hcommands _ _))
  · exact (hcommands _ s).trans (hcommands _ _)

theorem deliver_steady (r : Resolution) (strokes : List Taken) (s : State) : Steady s (deliver r strokes s) := by
  unfold deliver; dsimp only; split
  · unfold deliverPiece; split
    · dsimp only; split
      · exact (setCapture_steady _ s).trans (closeCapture_steady _)
      · exact setCapture_steady _ s
    · exact setCapture_steady _ s
    · exact setCapture_steady _ s
  · unfold deliverUnit; split
    · exact assembleAndHand_steady _ _ _ s
    · exact createUnit_steady _ _ _ _ s
    · exact createUnit_steady _ _ _ _ s

theorem emptySequence_steady (s : State) : Steady s (setSequence [] s) := setSequence_steady (.inl (Nat.zero_le 8))

/-- A sequence, however long, is resolved: it is empty when its front part is handed on. -/
theorem resolveFront_longer_steady {q : List PendingEntry} (hq : q ≠ []) (s : State) :
    Steady s (resolveFront (setSequence q s)).1 := by
  have hdelivers : ∀ r strokes, Steady s (deliver r strokes (setSequence [] (setSequence q s))) := fun r strokes =>
    (emptySequence_steady s).trans (deliver_steady r strokes (setSequence [] s))
  unfold resolveFront; dsimp only; split
  · exact hdelivers _ _
  · rename_i hnil
    exact absurd (List.map_eq_nil_iff.1 hnil) hq
  · exact hdelivers _ _

theorem resolveFront_steady (s : State) : Steady s (resolveFront s).1 := by
  unfold resolveFront; dsimp only; split
  · exact (emptySequence_steady s).trans (deliver_steady _ _ _)
  · exact .refl s
  · exact (emptySequence_steady s).trans (deliver_steady _ _ _)

theorem overrunMarker_steady (stroke : Word) (count : Nat) (start : Word) (s : State) :
    Steady s (overrunMarker stroke count start s) :=
  .trans (.ite (refuseCapture_steady s)) (createUnit_steady _ _ _ _ _)

/-! ### The event in flight (R51 to R64) -/

theorem askFor_steady (outline : List KeySet) (w : List Work) (s : State) : Steady s (askFor outline w s) :=
  .ofWatched rfl

theorem runWork_steady (w : List Work) (s : State) : Steady s (runWork w s) := by
  induction w generalizing s with
  | nil => exact .ofWatched rfl
  | cons x w ih =>
    cases x with
    | staleTest =>
      have hclear : Steady s { s with translator := { s.translator with stale := false } } := .ofWatched rfl
      unfold runWork; dsimp only; repeat' split
      · exact hclear.trans (ih _)
      · exact hclear.trans (askFor_steady _ _ _)
      · exact ih s
    | recompute i =>
      unfold runWork; split
      · exact askFor_steady _ _ s
      · exact ih s
    | stroke t =>
      unfold runWork; split
      · exact (undoStroke_steady s).trans (ih _)
      · exact askFor_steady _ _ s
    | reprocess ts =>
      cases ts with
      | nil => unfold runWork; exact ih s
      | cons t ts => unfold runWork; exact askFor_steady _ _ s
    | markerMet => unfold runWork; exact (setCapture_steady _ s).trans (ih _)
    | force =>
      unfold runWork; dsimp only; repeat' split
      · exact ih s
      · exact (resolveFront_steady s).trans (ih _)
      · exact (resolveFront_steady s).trans (askFor_steady _ _ _)
    | marker stroke count start => unfold runWork; exact (overrunMarker_steady _ _ _ s).trans (ih _)

theorem strokeResult_steady (t : Taken) (r : LookupResult) (w : List Work) (s : State) :
    Steady s (strokeResult t r w s) := by
  unfold strokeResult; dsimp only; split
  · exact (outlineStroke_steady _ _ s).trans (runWork_steady _ _)
  · split
    · rename_i hheld
      simp only [Bool.and_eq_true, decide_eq_true_eq] at hheld
      exact (setSequence_steady (.inl (Nat.le_of_lt hheld.2))).trans (runWork_steady _ _)
    · exact (resolveFront_longer_steady (by simp) s).trans (runWork_steady _ _)

theorem continueEvent_steady (r : LookupResult) (s : State) : Steady s (continueEvent r s) := by
  unfold continueEvent; split
  · exact strokeResult_steady _ _ _ s
  · exact strokeResult_steady _ _ _ s
  · exact runWork_steady _ s

theorem recomputeNext_steady (i : Nat) (w : List Work) (s : State) : Steady s (recomputeNext i w s) := by
  unfold recomputeNext; split
  · exact askFor_steady _ _ s
  · exact runWork_steady _ s

/-! ### Lookup unit (R46, R47) -/

theorem setSearch_steady (q : Option Search) (s : State) : Steady s (setSearch q s) := .ofWatched rfl

theorem searchStep_steady (s : State) (q : Search) (p : ProbeStep) : Steady s (searchStep s q p) := by
  unfold searchStep; split
  · exact setSearch_steady _ s
  · exact (setSearch_steady _ s).trans (setFlagIf_steady _ _ _)

theorem beginSearch_steady (outline : List KeySet) (s : State) : Steady s (beginSearch outline s) := by
  unfold beginSearch; dsimp only; split
  · exact setSearch_steady _ s
  · exact searchStep_steady _ _ _

theorem takeRequest_steady (s : State) : Steady s (takeRequest s) := by
  unfold takeRequest; split
  · refine .ite (.trans (.ofWatched ?_) ((beginSearch_steady _ { s with lookup := { s.lookup with request := none } }).trans
      (arbitrate_steady _)))
    rfl
  · exact .refl s

theorem flashReadEnds_steady (s : State) : Steady s (flashReadEnds s) := by
  have hfree : Steady s { s with port := { s.port with flash := .free } } := .ofWatched rfl
  unfold flashReadEnds; dsimp only; split
  · split
    · exact hfree.trans ((searchStep_steady _ _ _).trans (arbitrate_steady _))
    · exact hfree.trans (arbitrate_steady _)
  · exact hfree.trans (arbitrate_steady _)

theorem beginEvent_steady (w : List Work) (s : State) : Steady s (beginEvent w s) := by
  have hstop : Steady s { s with translator := { s.translator with resolveTimer := none } } := .ofWatched rfl
  exact hstop.trans ((runWork_steady _ _).trans (takeRequest_steady _))

theorem setResult_steady (i : Nat) (r : LookupResult) (s : State) : Steady s (setResult i r s) :=
  setSequence_steady (.inr (List.length_modify ..).le)

theorem lookupCompletes_steady (s : State) : Steady s (lookupCompletes s) := by
  unfold lookupCompletes; split
  · exact .refl s
  · split
    · exact .refl s
    · dsimp only; split
      · exact (setSearch_steady _ s).trans ((setResult_steady _ _ _).trans ((applyInbox_steady _).trans
          ((recomputeNext_steady _ _ _).trans (takeRequest_steady _))))
      · exact (setSearch_steady _ s).trans ((continueEvent_steady _ _).trans ((applyInbox_steady _).trans
          (takeRequest_steady _)))

theorem takeStroke_steady (s : State) : Steady s (takeStroke s) := by
  unfold takeStroke; split
  · exact .refl s
  · rename_i q rest hstrokes
    have htaken : Steady s { s with strokes := rest } :=
      { Steady.refl s with strokes := fun h => by rw [hstrokes] at h; exact Nat.le_of_succ_le h }
    exact htaken.trans ((strokeReported_steady _).trans (beginEvent_steady _ _))

theorem holdBackExpired_steady (s : State) : Steady s (holdBackExpired s) :=
  (setRelease_steady s _).trans (settle_steady _)

end Sys2Proof.Machine
end

section
/-! PROOFS. The bus controller, the notes writer, start-up, the timers and capture: the queues, the flash and the phase
(R12, R17, R19, R35, R130, R170 to R176). -/

namespace Sys2Proof.Machine

/-! ### Bus controller (R131 to R136) -/

/-- Frames that differ in what is in flight only fill the queue alike. -/
theorem QueueFits.congr {q p : List TxFrame} (h : p.map TxFrame.cls = q.map TxFrame.cls) (hq : QueueFits q) :
    QueueFits p := by
  have hlen : p.length = q.length := by simpa using congrArg List.length h
  have hlow : ∀ l : List TxFrame, lowClassCount l = (l.map TxFrame.cls).countP fun c => decide (2 ≤ c) := fun l => by
    rw [List.countP_map]; rfl
  refine ⟨hlen ▸ hq.1, ?_⟩
  rw [hlow, h, ← hlow]; exact hq.2

theorem QueueFits.sublist {q p : List TxFrame} (h : p.Sublist q) (hq : QueueFits q) : QueueFits p :=
  ⟨h.length_le.trans hq.1, h.countP_le.trans hq.2⟩

theorem startFrame_steady (s : State) : Steady s (startFrame s) := by
  refine .ite ?_
  split
  · exact .refl s
  · rename_i i _
    split
    · exact .refl s
    · rename_i f hf
      refine { Steady.refl s with queue := .congr ?_ }
      show (s.bus.queue.set i { f with sending := true }).map TxFrame.cls = _
      obtain ⟨hi, rfl⟩ := List.getElem?_eq_some_iff.1 hf
      rw [List.map_set]
      exact List.set_getElem_self (as := s.bus.queue.map TxFrame.cls) (by simpa using hi) ▸ by simp [TxFrame.cls, TxFrame.kind]

theorem loseArbitration_steady (s : State) : Steady s (loseArbitration s) := by
  unfold loseArbitration; split
  · exact .refl s
  · refine { Steady.refl s with queue := .congr ?_ }
    rw [List.map_map]; rfl

theorem leaveQueue_steady (s : State) : Steady s (leaveQueue s) := by
  have hleaves : Steady s { s with
      bus := { s.bus with inFlight := none, queue := s.bus.queue.filter fun f => !f.sending } } :=
    { Steady.refl s with queue := .sublist List.filter_sublist }
  unfold leaveQueue; dsimp only; split
  · exact hleaves.trans (drainCheck_steady _)
  · exact hleaves

theorem finishFrame_steady (s : State) : Steady s (finishFrame s) := by
  have hended : Steady s { s with bus := { s.bus with follower := .waitIdle, recessive := 7, stuckTimer := 0 } } :=
    .ofWatched rfl
  unfold finishFrame; split
  · exact .refl s
  · exact hended.trans (leaveQueue_steady _)

theorem abandonFrame_steady (startBit : Bool) (s : State) : Steady s (abandonFrame startBit s) := by
  have hmisread : Steady s { s with bus := if startBit then noStartBit s.bus else s.bus } := by
    refine { Steady.refl s with queue := fun h => ?_ }
    show QueueFits (ite _ _ _ : BusController).queue
    unfold noStartBit
    repeat' split
    all_goals exact h
  unfold abandonFrame; split
  · exact .refl s
  · exact hmisread.trans ((setFlag_steady _ _).trans (leaveQueue_steady _))

theorem lineStuck_steady (ms : Nat) (s : State) : Steady s (lineStuck ms s) := by
  have hstuck : ∀ s : State, Steady s { s with
      bus := { s.bus with stuckTimer := ms, stuckSpell := true, follower := .waitIdle, recessive := 0 } } :=
    fun _ => .ofWatched rfl
  unfold lineStuck; split
  · dsimp only; split
    · exact hstuck s
    · exact (setFlag_steady _ s).trans (hstuck _)
  · exact .refl s

theorem lineIdle_steady (s : State) : Steady s (lineIdle s) := by
  refine .ite (.ofWatched ?_)
  rfl

theorem receive_steady {take : Station → Msg → State → State} (h : ∀ a m s, Steady s (take a m s)) (f : LineFrame)
    (s : State) : Steady s (receive f take s) := by
  have hended : Steady s (frameEnded f s) := .ofWatched rfl
  unfold receive; split
  · dsimp only; split
    · exact hended
    · exact hended.trans (setFlag_steady _ _)
    · exact hended.trans (h _ _ _)
  · exact .refl s

theorem takenByNone_steady (a : Station) (m : Msg) (s : State) : Steady s (takenByNone a m s) := .refl s

theorem takeClaim_steady (a : Station) (m : Msg) (s : State) : Steady s (takeClaim a m s) := by
  unfold takeClaim; split
  · exact (raiseKnown_steady _ s).trans (claimHeard_steady _ _ _)
  · exact .refl s

theorem takeReliefReq_steady (a : Station) (m : Msg) (s : State) : Steady s (takeReliefReq a m s) := by
  unfold takeReliefReq; split
  · exact reliefAsked_steady _ s
  · exact .refl s

theorem takeReliefBusy_steady (a : Station) (m : Msg) (s : State) : Steady s (takeReliefBusy a m s) := by
  unfold takeReliefBusy; split
  · exact reliefRefused_steady _ _ s
  · exact .refl s

theorem takePass_steady (a : Station) (m : Msg) (s : State) : Steady s (takePass a m s) := by
  unfold takePass; split
  · exact .ite (passTaken_steady _ _ _ s)
  · exact .refl s

theorem takePassOther_steady (a : Station) (m : Msg) (s : State) : Steady s (takePassOther a m s) := by
  unfold takePassOther; split
  · split
    · exact .refl s
    · exact (raiseKnown_steady _ s).trans (passOther_steady _ _)
  · exact .refl s

theorem takeFloorFree_steady (a : Station) (m : Msg) (s : State) : Steady s (takeFloorFree a m s) := by
  unfold takeFloorFree; split
  · exact (raiseKnown_steady _ s).trans (floorFreed_steady _ _)
  · exact .refl s

theorem takeRecord_steady (a : Station) (m : Msg) (s : State) : Steady s (takeRecord a m s) := by
  unfold takeRecord; split
  · exact setRecord_steady _ _ s
  · exact .refl s

theorem takeClear_steady (a : Station) (m : Msg) (s : State) : Steady s (takeClear a m s) := by
  unfold takeClear; split
  · exact clearFlags_steady _ s
  · exact .refl s

theorem takeText_steady (a : Station) (m : Msg) (s : State) : Steady s (takeText a m s) := by
  unfold takeText; split
  · exact (raiseKnown_steady _ s).trans (holdingHeard_steady _ _)
  · exact .refl s

theorem takeDefine_steady (a : Station) (m : Msg) (s : State) : Steady s (takeDefine a m s) := by
  unfold takeDefine; split
  · exact defineArrived_steady _ _ s
  · exact .refl s

theorem takePresence_steady (tr : Word) (a : Station) (m : Msg) (s : State) : Steady s (takePresence tr a m s) := by
  unfold takePresence; split
  · exact (setPeer_steady _ _ s).trans ((raiseKnown_steady _ _).trans (.ite (holdingHeard_steady _ _)))
  · exact .refl s

/-! ### Notes writer (R17 to R30, R35, R37) -/

theorem FifoFits.sublist {p q : List Note} (h : p.Sublist q) (hq : FifoFits q) : FifoFits p :=
  ⟨h.length_le.trans hq.1, h.countP_le.trans hq.2⟩

theorem FifoFits.nil : FifoFits [] := ⟨Nat.zero_le _, Nat.zero_le _⟩

theorem placeLost_counts (fifo : List Note) (count : Nat) :
    (placeLost fifo count).length = fifo.length + 1 ∧ handedCount (placeLost fifo count) = handedCount fifo := by
  unfold placeLost; split <;> exact ⟨rfl, by simp [handedCount, Note.isLost]⟩

/-- A FIFO with no LOST record gets one, which the eight handed ones leave room for (R19, R21). -/
theorem FifoFits.atStart {n : NotesWriter} (h : FifoFits n.fifo) : FifoFits (fifoAtStart n) := by
  unfold fifoAtStart; split
  · rename_i hdue
    have hall : handedCount n.fifo = n.fifo.length := by
      refine List.countP_eq_length.2 fun x hx => ?_
      have hnone := hdue.2
      simp only [List.any_eq_true, not_exists, not_and] at hnone
      simpa using hnone x hx
    obtain ⟨hlen, hcount⟩ := placeLost_counts n.fifo n.lostCount
    obtain ⟨-, hhanded⟩ := h
    exact ⟨by omega, by omega⟩
  · exact h

theorem becomeFull_steady (s : State) : Steady s (becomeFull s) :=
  Steady.trans (t := { s with
    notes := { s.notes with
      full := true, lostCount := addLost s.notes.lostCount (handedCount s.notes.fifo), fifo := [],
      flushTimer := none } })
    { Steady.refl s with fifo := fun _ => .nil } (setFlag_steady _ _)

theorem checkRegion_steady (before : Nat) (s : State) : Steady s (checkRegion before s) :=
  (setFlagIf_steady _ _ s).trans (.ite (becomeFull_steady _))

theorem advanceWrite_steady (k : Nat) (s : State) : Steady s (advanceWrite k s) :=
  { Steady.refl s with
    writePos := fun h => by
      show (s.notes.writePos.getD 0 + 16 * k) % 16 = 0
      omega }

theorem haltPath_steady (s : State) : Steady s (haltPath s) :=
  Steady.trans (t := { s with
    notes := { s.notes with
      halted := true, lostCount := addLost s.notes.lostCount (handedCount s.notes.fifo), fifo := [],
      flushTimer := none, flushDue := false } })
    { Steady.refl s with fifo := fun _ => .nil } (setFlag_steady _ _)

theorem startProgram_steady (s : State) : Steady s (startProgram s) := .ofWatched rfl

theorem endProgram_steady (s : State) : Steady s (endProgram s) := .ofWatched rfl

theorem setBurst_steady (b : Option Burst) (s : State) : Steady s (setBurst b s) := .ofWatched rfl

theorem releaseFlash_steady (s : State) : Steady s (releaseFlash s) :=
  (endProgram_steady s).trans (arbitrate_steady _)

theorem startBurst_steady (s : State) : Steady s (startBurst s) := by
  have hstarted : ∀ b t d, Steady s { s with
      notes := { s.notes with fifo := fifoAtStart s.notes, burst := b, flushTimer := t, flushDue := d } } :=
    fun _ _ _ => { Steady.refl s with fifo := .atStart }
  exact (hstarted _ _ _).trans ((armFlush_steady _).trans (startProgram_steady _))

theorem burstSuccess_steady (b : Burst) (s : State) : Steady s (burstSuccess b s) := by
  have hdropped : ∀ n c, Steady s { s with
      notes := { s.notes with fifo := s.notes.fifo.drop n, burst := none, lostCount := c } } :=
    fun n _ => { Steady.refl s with fifo := .sublist (List.drop_sublist n _) }
  exact (hdropped _ _).trans ((advanceWrite_steady _ _).trans ((checkRegion_steady _ _).trans
    (releaseFlash_steady _)))

theorem overwriteDone_steady (b : Burst) (s : State) : Steady s (overwriteDone b s) := by
  have hpassed : Steady s (checkRegion (freeSlots s) (advanceWrite b.span.2 (setBurst none s))) :=
    (setBurst_steady _ s).trans ((advanceWrite_steady _ _).trans (checkRegion_steady _ _))
  unfold overwriteDone; dsimp only; split
  · exact hpassed.trans (releaseFlash_steady _)
  · exact hpassed.trans ((setBurst_steady _ _).trans ((armFlush_steady _).trans (startProgram_steady _)))

theorem operationDone_steady (s : State) : Steady s (operationDone s) := by
  have hprogrammed : ∀ addr data, Steady s
      (endProgram { s with port := { s.port with flashMem := Memory.program s.port.flashMem addr data } }) :=
    fun addr data => Steady.trans
      (t := { s with port := { s.port with flashMem := Memory.program s.port.flashMem addr data } })
      { Steady.refl s with flash := fun h => ⟨Memory.wf_program h _ _, Memory.program_clears h _ _⟩ }
      (endProgram_steady _)
  unfold operationDone; split
  · exact releaseFlash_steady s
  · dsimp only; split
    · exact (hprogrammed _ _).trans ((setBurst_steady _ _).trans (startProgram_steady _))
    · split
      · exact (hprogrammed _ _).trans (overwriteDone_steady _ _)
      · exact (hprogrammed _ _).trans (burstSuccess_steady _ _)

theorem leaveResidue_steady (s : State) : Steady s (leaveResidue s) := by
  unfold leaveResidue; split
  · exact .refl s
  · exact { Steady.refl s with
      flash := fun h => ⟨Memory.wf_programPartly h _ _ _, Memory.programPartly_clears h _ _ _⟩ }

theorem operationFailed_steady (s : State) : Steady s (operationFailed s) := by
  have hfailed : Steady s (endProgram (leaveResidue s)) := (leaveResidue_steady s).trans (endProgram_steady _)
  unfold operationFailed; dsimp only; split
  · exact hfailed.trans (releaseFlash_steady _)
  · split
    · exact hfailed.trans ((setBurst_steady _ _).trans (startProgram_steady _))
    · exact hfailed.trans ((setBurst_steady _ _).trans ((advanceWrite_steady _ _).trans
        ((checkRegion_steady _ _).trans ((haltPath_steady _).trans (releaseFlash_steady _)))))
    · exact hfailed.trans ((setBurst_steady _ _).trans ((haltPath_steady _).trans (releaseFlash_steady _)))

theorem flushExpired_steady (s : State) : Steady s (flushExpired s) := by
  have hdue : ∀ d, Steady s { s with notes := { s.notes with flushTimer := none, flushDue := d } } :=
    fun _ => .ofWatched rfl
  exact (hdue _).trans (arbitrate_steady _)

theorem scanReadEnds_steady (x : ResumeScan) (s : State) : Steady s (scanReadEnds x s) := by
  have hread : ∀ r f, Steady s { s with
      notes := { s.notes with resumeScan := r }, port := { s.port with flash := f } } := fun _ _ => .ofWatched rfl
  exact (hread _ _).trans (setFlagIf_steady _ _ _)

theorem readEnds_steady (s : State) : Steady s (readEnds s) := by
  unfold readEnds; split
  · exact flashReadEnds_steady s
  · exact flashReadEnds_steady s
  · exact scanReadEnds_steady _ s
  all_goals exact .refl s

theorem enterResume_steady (count : Nat) (s : State) : Steady s (enterResume count s) := by
  have hfirst : Steady s { s with notes := { s.notes with fifo := [.resume count s.seq.resetKind] } } :=
    { Steady.refl s with fifo := fun _ => .append (fifo := []) (by simp) _ }
  unfold enterResume; split
  · exact (becomeFull_steady s).trans (loseNote_steady _)
  · exact hfirst.trans (armFlush_steady _)

theorem resumeNotes_steady (s : State) : Steady s (resumeNotes s) := by
  have hopened : ∀ w r n, Steady s { s with
      notes := { s.notes with
        writePos := some (16 * w), restartCount := r, opened := true, heldNotes := [], resumeScan := none }
      scanner := { s.scanner with nextStroke := n } } :=
    fun w _ _ => { Steady.refl s with writePos := fun _ => Nat.mul_mod_right 16 w }
  exact (hopened _ _ _).trans ((setFlagIf_steady _ _ _).trans ((setFlagIf_steady _ _ _).trans
    ((enterResume_steady _ _).trans (.fold _ (fun s n => joinNote n s) (fun s n => joinNote_steady n s) _))))

/-! ### Start-up (R42, R91, R170 to R176) -/

theorem Dormant.of_load {s : State} (hload : s.seq.phase = .load) (h : Dormant s) :
    s.seq.loadStep = .recovery ∨ s.seq.loadStep = .config := by
  rcases h with hfault | ⟨-, h⟩ | ⟨-, h⟩
  · rw [hload] at hfault; cases hfault
  · exact .inl h
  · exact .inr h

/-- A phase but LOAD and FAULT. -/
theorem not_dormant {s : State} (hload : s.seq.phase ≠ .load) (hfault : s.seq.phase ≠ .fault) : ¬ Dormant s := by
  rintro (h | ⟨h, -⟩ | ⟨h, -⟩)
  · exact hfault h
  · exact hload h
  · exact hload h

/-- A step of LOAD that is neither FAULT nor RUN. -/
theorem Steady.inLoad {s t : State} (hload : s.seq.phase = .load)
    (h : (s.seq.phase = .fault → t.seq.phase = .fault) → (s.seq.phase = .run → t.seq.phase = .run) → Steady s t) :
    Steady s t :=
  h (fun hf => by rw [hload] at hf; cases hf) (fun hr => by rw [hload] at hr; cases hr)

theorem recoveryOver_steady {s : State} (hload : Loading s .recovery) (ready : Bool) :
    Steady s (recoveryOver ready s) := by
  have hover : ∀ s : State, Loading s .recovery → Steady s { s with
      seq := { s.seq with loadStep := .config }
      port := { s.port with flash := .reading, timer := none, deviceReady := ready } } := fun s h =>
    { Steady.refl s with awake := fun hn => absurd (.inr (.inl h)) hn }
  cases ready with
  | true => exact hover s hload
  | false => exact (elapse_steady _ s).trans (hover _ hload)

theorem enterFault_steady {s : State} (hload : Loading s .config) : Steady s (enterFault s) :=
  .inLoad hload.1 fun _ hrun =>
    { Steady.refl s with
      fault := fun _ => rfl
      run := hrun
      awake := fun hn => absurd (.inr (.inr hload)) hn }

theorem enterScan_steady {s : State} (hload : s.seq.phase = .load) : Steady s (enterScan s) :=
  .inLoad hload fun hfault hrun =>
    { Steady.refl s with
      fault := hfault
      run := hrun
      awake := fun _ => not_dormant (s := enterScan s) nofun nofun }

theorem setLoadStep_awake {l : LoadStep} {s : State} (hload : s.seq.phase = .load)
    (hl : l ≠ .recovery ∧ l ≠ .config) : ¬ Dormant (setLoadStep l s) := fun h =>
  (Dormant.of_load (s := setLoadStep l s) hload h).elim hl.1 hl.2

/-- A header read is waited for. -/
theorem setLoadStep_steady {l : LoadStep} {s : State} (hload : s.seq.phase = .load)
    (hl : l ≠ .recovery ∧ l ≠ .config) : Steady s (setLoadStep l s) :=
  { Steady.refl s with awake := fun _ => setLoadStep_awake hload hl }

theorem setFlash_steady (f : FlashState) (s : State) : Steady s (setFlash f s) := .ofWatched rfl

theorem afterMain_steady {s : State} (hload : s.seq.phase = .load) : Steady s (afterMain s) := by
  unfold afterMain; split
  · exact (setLoadStep_steady hload (by decide)).trans (setFlash_steady _ _)
  · exact enterScan_steady hload

theorem afterJob_steady {s : State} (hload : s.seq.phase = .load) : Steady s (afterJob s) := by
  unfold afterJob; split
  · exact setLoadStep_steady hload (by decide)
  · exact afterMain_steady hload

theorem readHeaders_steady {s : State} (hload : s.seq.phase = .load) : Steady s (readHeaders s) := by
  unfold readHeaders; split
  · exact setLoadStep_steady hload (by decide)
  · exact afterJob_steady hload

theorem headerRead_steady (s : State) : Steady s (headerRead s) := by
  unfold headerRead; split
  · rename_i hload
    have hphase : ∀ (c : Bool) (s : State), (setFlagIf c .dictBad s).seq.phase = s.seq.phase := fun c s => by
      rw [setFlagIf_eq]
    split
    · have hjudged : ∀ g, Steady s { s with lookup := { s.lookup with w1 := g } } := fun _ => .ofWatched rfl
      exact (hjudged _).trans ((setFlagIf_steady _ _ _).trans (afterJob_steady ((hphase _ _).trans hload)))
    · have hjudged : ∀ g, Steady s { s with lookup := { s.lookup with w2 := g } } := fun _ => .ofWatched rfl
      exact (hjudged _).trans ((setFlagIf_steady _ _ _).trans (afterMain_steady ((hphase _ _).trans hload)))
    all_goals exact .refl s
  · exact .refl s

theorem overlayRead_steady {s : State} (hload : s.seq.phase = .load) : Steady s (overlayRead s) := by
  have hjudged : ∀ (s : State) g, s.seq.phase = .load →
      Steady s (enterScan { s with lookup := { s.lookup with w0 := g } }) := fun s g h =>
    Steady.trans (t := { s with lookup := { s.lookup with w0 := g } }) (.ofWatched rfl) (enterScan_steady h)
  unfold overlayRead; dsimp only; split
  · exact hjudged s _ hload
  · exact (clearOverlay_steady s).trans (hjudged _ _ hload)

theorem deliverMark_steady (s : State) : Steady s (deliverMark s) := by
  unfold deliverMark; split
  · exact .refl s
  · exact Steady.trans (t := { s with
      scanner := { s.scanner with heldMark := none }, translator := { s.translator with markNext := true } })
      (.ofWatched rfl) (handNote_steady _ _)

theorem resumeEnds_steady {s : State} (hscan : s.seq.phase = .scan) : Steady s (resumeEnds s) := by
  have hphase : (resumeNotes s).seq.phase = .scan := by
    rw [resumeNotes_frame]; exact hscan
  have hlisten : ∀ s : State, s.seq.phase = .scan → Steady s (enterListen s) := fun s h =>
    { Steady.refl s with
      fault := fun hf => by rw [h] at hf; cases hf
      run := fun hr => by rw [h] at hr; cases hr
      awake := fun _ => not_dormant (s := enterListen s) nofun nofun }
  exact (resumeNotes_steady s).trans ((hlisten _ hphase).trans ((deliverMark_steady _).trans (arbitrate_steady _)))

end Sys2Proof.Machine
end

section
/-! PROOFS. Every step keeps the memories canonical and the flash from gaining bits, the bounds of the collections, the
flag positions in use, and the history (R17, R33, R35, R85, R130, R177). -/

namespace Sys2Proof.Machine

/-! ### Acceptance and RUN (R171 to R173, R176) -/

/-- Acceptance installs the regions and writes neither device, as the steps of LOAD behind it do. -/
theorem accept_sound (blk : List Byte) (t : Settings) {s : State} (hload : s.seq.phase = .load) :
    Sound s (readHeaders (accept blk t s)) := by
  have hsteps := readHeaders_steady (s := accept blk t s) hload
  have hram : (readHeaders (accept blk t s)).port.ramMem = s.port.ramMem := by
    unfold readHeaders afterJob afterMain
    repeat' split
    all_goals rfl
  exact { hsteps.toSound with ramOutside := fun x _ => by rw [hram] }

theorem configRead_sound {s : State} (hload : Loading s .config) : Sound s (configRead s) := by
  have hstep : ∀ c, Loading (setFlagIf c .configClamped s) .config := fun c => by
    unfold Loading; rw [setFlagIf_eq]; exact hload
  unfold configRead; dsimp only; split
  · split
    · exact (setFlagIf_steady _ _ s).then (accept_sound _ _ (hstep _).1)
    · exact (setFlagIf_steady _ _ s).then (enterFault_steady (hstep _)).toSound
  · exact (enterFault_steady hload).toSound

theorem enterRun_steady {s : State} (hlisten : s.seq.phase = .listen) : Steady s (enterRun s) := by
  have hrun : Steady s (setPhase .run { s with release := { s.release with active := true } }) :=
    { Steady.refl s with
      fault := fun h => by rw [hlisten] at h; cases h
      run := fun _ => rfl
      awake := fun _ => not_dormant (s := setPhase .run s) nofun nofun }
  have htimer : ∀ s : State, Steady s { s with peers := { s.peers with timer := some s.settings.presence } } :=
    fun _ => .ofWatched rfl
  exact hrun.trans ((settle_steady _).trans ((handFrame_steady _ _).trans ((htimer _).trans
    ((restartVacancy_steady _).trans (vacancyFound_steady _)))))

theorem presenceExpired_steady (s : State) : Steady s (presenceExpired s) := by
  have htimer : Steady s { s with peers := { s.peers with timer := some s.settings.presence } } := .ofWatched rfl
  have hchecked := htimer.trans (absenceCheck_steady _)
  have hcounted : ∀ (s : State) n, Steady s { s with seq := { s.seq with listenExpiries := n } } :=
    fun _ _ => .ofWatched rfl
  unfold presenceExpired; dsimp only at hchecked ⊢
  generalize absenceCheck _ = u at hchecked ⊢
  split
  · exact hchecked.trans (handFrame_steady _ _)
  · rename_i hlisten
    split
    · exact hchecked.trans ((hcounted _ _).trans (enterRun_steady hlisten))
    · exact hchecked.trans (hcounted _ _)
  all_goals exact hchecked

/-! ### Capture (R4 to R15) -/

theorem offerStroke_steady (r : StrokeRecord) (s : State) : Steady s (offerStroke r s) := by
  unfold offerStroke; split
  · rename_i hroom
    exact { Steady.refl s with
      strokes := fun _ => by simp only [List.length_append, List.length_singleton]; omega }
  · have hmore : Steady s { s with
        strokes := s.strokes.modify (s.strokes.length - 1) QueuedStroke.overrunMore } :=
      { Steady.refl s with strokes := fun h => (List.length_modify ..).trans_le h }
    exact hmore.trans (setFlag_steady _ _)

theorem chordStep_steady (down held : KeySet) (t : Word) (s : State) : Steady s (chordStep down held t s) := by
  have hscanner : ∀ c, Steady s { s with scanner := c } := fun _ => .ofWatched rfl
  unfold chordStep; split
  · split
    · exact .refl s
    · exact hscanner _
  · dsimp only; split
    · exact (hscanner _).trans ((handNote_steady _ _).trans (offerStroke_steady _ _))
    · split
      · exact (hscanner _).trans (setFlag_steady _ _)
      · exact hscanner _
  · exact .ite (hscanner _)

theorem scanKeys_steady (image : BitVec 24) (t : Word) (s : State) : Steady s (scanKeys image t s) := by
  have hscanner : ∀ c, Steady s { s with scanner := c } := fun _ => .ofWatched rfl
  exact (hscanner _).trans ((setFlagIf_steady _ _ _).trans (chordStep_steady _ _ _ _))

theorem sampleMark_steady (high : Bool) (t : Word) (s : State) : Steady s (sampleMark high t s) := by
  have hscanner : ∀ (s : State) c, Steady s { s with scanner := c } := fun _ _ => .ofWatched rfl
  have hlatch : ∀ s : State, Steady s { s with translator := { s.translator with markNext := true } } :=
    fun _ => .ofWatched rfl
  have hedge : ∀ s, Steady s (markEdge t s) := fun s => by
    unfold markEdge; split
    · exact (hlatch s).trans (handNote_steady _ _)
    · exact hscanner s _
  unfold sampleMark; split
  · exact hscanner s _
  · exact (hscanner s _).trans (.ite (hedge _))

theorem takeScan_steady (image : BitVec 24) (markHigh : Bool) (s : State) : Steady s (takeScan image markHigh s) := by
  have hscanner : ∀ (s : State) c, Steady s { s with scanner := c } := fun _ _ => .ofWatched rfl
  unfold takeScan; split
  · exact .refl s
  · exact (elapse_steady _ s).trans ((hscanner _ _).trans
      (.trans (.ite (scanKeys_steady _ _ _)) (.ite (sampleMark_steady _ _ _))))

/-! ### Every command but the resets -/

theorem exec_sound (i : Instr) (s : State) (hr : isReset i = false) : ∃ t, exec i s = .next t ∧ Sound s t := by
  cases i with
  | powerOnReset straps flash ram => cases hr
  | pinReset straps => cases hr
  | configReadDone =>
    refine ⟨_, rfl, ?_⟩
    split
    · rename_i hload; exact configRead_sound hload
    · exact (Steady.refl s).toSound
  | flashRecoveryEnd ready =>
    refine ⟨_, rfl, Steady.toSound ?_⟩
    split
    · rename_i hload; exact recoveryOver_steady hload ready
    · exact .refl s
  | overlayHeaderReadDone =>
    refine ⟨_, rfl, Steady.toSound ?_⟩
    split
    · rename_i hload; exact overlayRead_steady hload.1
    · exact .refl s
  | resumeScanEnd =>
    refine ⟨_, rfl, Steady.toSound ?_⟩
    split
    · rename_i hscan; exact resumeEnds_steady hscan
    · exact .refl s
  | programPollResult error =>
    refine ⟨_, rfl, Steady.toSound (.ite ?_)⟩
    cases error with
    | true => exact operationFailed_steady s
    | false => exact operationDone_steady s
  | programTimeout =>
    refine ⟨_, rfl, Steady.toSound (.ite (onExpiry_steady (fun s => ?_) _ s))⟩
    exact .ofWatched rfl
  | recoveryEnd ready =>
    refine ⟨_, rfl, Steady.toSound (.ite ?_)⟩
    cases ready with
    | true => exact operationFailed_steady s
    | false => exact (elapse_steady _ s).trans (operationFailed_steady _)
  | dictHeaderReadDone => exact ⟨_, rfl, (headerRead_steady s).toSound⟩
  | scan image mark => exact ⟨_, rfl, (takeScan_steady image mark s).toSound⟩
  | flushTimerExpiry => exact ⟨_, rfl, (onExpiry_steady flushExpired_steady _ s).toSound⟩
  | burstStart => exact ⟨_, rfl, Steady.toSound (.ite (startBurst_steady s))⟩
  | flashReadDone => exact ⟨_, rfl, Steady.toSound (.ite (readEnds_steady s))⟩
  | strokeEvent => exact ⟨_, rfl, Steady.toSound (.ite (takeStroke_steady s))⟩
  | timerEvent => exact ⟨_, rfl, Steady.toSound (.ite (onExpiry_steady (beginEvent_steady _) _ s))⟩
  | lookupCompletion => exact ⟨_, rfl, (lookupCompletes_steady s).toSound⟩
  | holdBackTimerExpiry => exact ⟨_, rfl, (onExpiry_steady holdBackExpired_steady _ s).toSound⟩
  | frameSendStart => exact ⟨_, rfl, (startFrame_steady s).toSound⟩
  | arbitrationLost => exact ⟨_, rfl, (loseArbitration_steady s).toSound⟩
  | transmitError startBit => exact ⟨_, rfl, (abandonFrame_steady startBit s).toSound⟩
  | frameSent => exact ⟨_, rfl, (finishFrame_steady s).toSound⟩
  | busStuck dominantMs => exact ⟨_, rfl, (lineStuck_steady dominantMs s).toSound⟩
  | busIdle => exact ⟨_, rfl, (lineIdle_steady s).toSound⟩
  | frameDiscarded f => exact ⟨_, rfl, (receive_steady takenByNone_steady f s).toSound⟩
  | claimReceived f => exact ⟨_, rfl, (receive_steady takeClaim_steady f s).toSound⟩
  | reliefReqReceived f => exact ⟨_, rfl, (receive_steady takeReliefReq_steady f s).toSound⟩
  | reliefBusyReceived f => exact ⟨_, rfl, (receive_steady takeReliefBusy_steady f s).toSound⟩
  | passReceived f => exact ⟨_, rfl, (receive_steady takePass_steady f s).toSound⟩
  | passOtherReceived f => exact ⟨_, rfl, (receive_steady takePassOther_steady f s).toSound⟩
  | floorFreeReceived f => exact ⟨_, rfl, (receive_steady takeFloorFree_steady f s).toSound⟩
  | recordReceived f => exact ⟨_, rfl, (receive_steady takeRecord_steady f s).toSound⟩
  | clearReceived f => exact ⟨_, rfl, (receive_steady takeClear_steady f s).toSound⟩
  | textReceived f => exact ⟨_, rfl, (receive_steady takeText_steady f s).toSound⟩
  | defineReceived f => exact ⟨_, rfl, (receive_steady takeDefine_steady f s).toSound⟩
  | presenceReceived f => exact ⟨_, rfl, (receive_steady (takePresence_steady _) f s).toSound⟩
  | retractReceived f => exact ⟨_, rfl, (receive_steady takenByNone_steady f s).toSound⟩
  | replaceReceived f => exact ⟨_, rfl, (receive_steady takenByNone_steady f s).toSound⟩
  | shadowReceived f => exact ⟨_, rfl, (receive_steady takenByNone_steady f s).toSound⟩
  | presenceTimerExpiry => exact ⟨_, rfl, (onExpiry_steady presenceExpired_steady _ s).toSound⟩
  | vacancyTimerExpiry => exact ⟨_, rfl, Steady.toSound (.ite (onExpiry_steady vacancyExpired_steady _ s))⟩
  | claimWaitEnd => exact ⟨_, rfl, Steady.toSound (.ite (onExpiry_steady claimWaitEnded_steady _ s))⟩
  | claimHoldOffEnd => exact ⟨_, rfl, Steady.toSound (.ite (onExpiry_steady holdOffEnded_steady _ s))⟩
  | claimWindowExpiry => exact ⟨_, rfl, Steady.toSound (.ite (onExpiry_steady claimWon_steady _ s))⟩
  | reliefTimerExpiry => exact ⟨_, rfl, Steady.toSound (.ite (onExpiry_steady reliefExpired_steady _ s))⟩
  | yieldTimerExpiry => exact ⟨_, rfl, Steady.toSound (.ite (onExpiry_steady makeCut_steady _ s))⟩
  | patternEnd => exact ⟨_, rfl, (onExpiry_steady nextPattern_steady _ s).toSound⟩

/-! ### Steps -/

/-- A step that is no reset. -/
theorem step_sound {s t : State} (hr : ∀ c, s.pending.head? = some c → isReset c = false) (h : step s = .next t) :
    Sound s t := by
  unfold step at h
  split at h
  · cases h; exact (elapse_steady 1 s).toSound
  · rename_i c rest hpending
    obtain ⟨u, hu, hsound⟩ := exec_sound c { s with pending := rest } (hr c (by rw [hpending]; rfl))
    rw [hu] at h; cases h; exact { hsound with }

/-- What a step that is a reset ends in: the part started again, over the image of the command or what the flash has
reached. -/
theorem step_reset {s t : State} {c : Instr} (hc : s.pending.head? = some c) (hr : isReset c = true)
    (h : step s = .next t) :
    (∃ straps flash ram, c = .powerOnReset straps flash ram ∧
      t = State.started .powerOn straps (Memory.ofCells Config.flashSpace flash) (Memory.ofCells Config.ramSpace ram)
        s.pending.tail s.freeCount) ∨
    ∃ straps, c = .pinReset straps ∧
      t = State.started .pin straps (leaveResidue s).port.flashMem s.port.ramMem s.pending.tail
        (leaveResidue s).freeCount := by
  obtain ⟨rest, hpending⟩ : ∃ rest, s.pending = c :: rest := by
    cases hp : s.pending with
    | nil => rw [hp] at hc; cases hc
    | cons a rest => rw [hp] at hc; cases hc; exact ⟨rest, rfl⟩
  unfold step at h; rw [hpending] at h; dsimp only at h
  rw [hpending]
  cases c with
  | powerOnReset straps flash ram => cases h; exact .inl ⟨straps, flash, ram, rfl, rfl⟩
  | pinReset straps =>
    rw [exec_pinReset] at h
    have hresidue : leaveResidue { s with pending := rest } = { leaveResidue s with pending := rest } := by
      unfold leaveResidue opData recordFor stageBase writeSlot notesBase; dsimp only; split <;> rfl
    rw [hresidue] at h; cases h
    exact .inr ⟨straps, rfl, rfl⟩
  | _ => cases hr

/-- A step is a reset, or keeps what the other commands keep. -/
theorem step_cases {s t : State} (h : step s = .next t) :
    Sound s t ∨ ∃ c, s.pending.head? = some c ∧ isReset c = true := by
  by_cases hr : ∀ c, s.pending.head? = some c → isReset c = false
  · exact .inl (step_sound hr h)
  · push Not at hr
    obtain ⟨c, hc, hreset⟩ := hr
    exact .inr ⟨c, hc, Bool.not_eq_false _ ▸ hreset⟩

/-- A part that has just started has empty collections and RESTARTED alone set. -/
theorem started_bounds (kind : ResetKind) (straps : Straps) (flash ram : Memory) (queue : List Instr) (free : Nat) :
    let t := State.started kind straps flash ram queue free
    QueuesGood t ∧ FlagsGood t ∧ HistoryGood t := by
  refine ⟨?_, ?_, ?_⟩
  · simp [QueuesGood, State.started, Translator.initial, BusController.initial, NotesWriter.initial, PeerUnit.initial,
      lowClassCount, handedCount]
  · show StatusUnit.initial.flags &&& ~~~usedFlags = 0
    decide
  · simp [HistoryGood, HeldTail, State.started, Translator.initial]

/-! ### The statements -/

/-- Settles O56, from what every command keeps and, for PIN_RESET, from what a cut-off program leaves. -/
theorem flashBitsAreOnlyCleared : Obligations.FlashBitsAreOnlyCleared := by
  intro s t ⟨hflash, hram⟩ h
  rcases step_cases h with hsound | ⟨c, hc, hr⟩
  · obtain ⟨hform, hclears⟩ := hsound.flash hflash
    exact ⟨⟨hform, hsound.ram hram⟩, fun _ => ⟨hclears, hsound.ramOutside⟩⟩
  · rcases step_reset hc hr h with ⟨straps, flash, ram, rfl, rfl⟩ | ⟨straps, rfl, rfl⟩
    · exact ⟨⟨Memory.wf_ofCells _ _, Memory.wf_ofCells _ _⟩, fun hnot => absurd hc (hnot straps flash ram)⟩
    · obtain ⟨hform, hclears⟩ := (leaveResidue_steady s).flash hflash
      exact ⟨⟨hform, hram⟩, fun _ => ⟨hclears, fun _ _ => rfl⟩⟩

/-- Settles O57, from what every command keeps and from the empty collections of a part just started. -/
theorem boundsAreKept : Obligations.BoundsAreKept := by
  intro s t hqueues hflags h
  rcases step_cases h with hsound | ⟨c, hc, hr⟩
  · obtain ⟨hstrokes, hinbox, hsequence, hlen, hlow, hfifo, hhanded, htable, hpos⟩ := hqueues
    obtain ⟨hlen', hlow'⟩ := hsound.queue ⟨hlen, hlow⟩
    obtain ⟨hfifo', hhanded'⟩ := hsound.fifo ⟨hfifo, hhanded⟩
    exact ⟨⟨hsound.strokes hstrokes, hsound.inbox hinbox, hsound.sequence hsequence, hlen', hlow', hfifo', hhanded',
      hsound.table htable, hsound.writePos hpos⟩, hsound.flags hflags⟩
  · rcases step_reset hc hr h with ⟨straps, flash, ram, rfl, rfl⟩ | ⟨straps, rfl, rfl⟩
    · obtain ⟨hq, hf, -⟩ := started_bounds .powerOn straps _ _ _ _
      exact ⟨hq, hf⟩
    · obtain ⟨hq, hf, -⟩ := started_bounds .pin straps _ _ _ _
      exact ⟨hq, hf⟩

/-- Settles O58, from what every act of release and of text assembly keeps of the history. -/
theorem historyTailIsKept : Obligations.HistoryTailIsKept := by
  intro s t hhistory h
  rcases step_cases h with hsound | ⟨c, hc, hr⟩
  · exact hsound.history hhistory
  · rcases step_reset hc hr h with ⟨straps, flash, ram, rfl, rfl⟩ | ⟨straps, rfl, rfl⟩
    · exact (started_bounds .powerOn straps _ _ _ _).2.2
    · exact (started_bounds .pin straps _ _ _ _).2.2

end Sys2Proof.Machine
end

section
/-! PROOFS. FAULT and the phases before acceptance: every block at its reset values, whatever command comes; FAULT and
RUN left by a reset only (R170, R171, R174). -/

namespace Sys2Proof.Machine

/-- Every block stands at its reset values (R3, R18, R46, R50, R99, R109, R125, R139, R151). -/
def BlocksAtReset (s : State) : Prop :=
  s.settings = Settings.standard ∧ s.scanner = Scanner.initial ∧ s.strokes = [] ∧ s.notes = NotesWriter.initial ∧
    s.port.regions = defaultRegions ∧ s.lookup = LookupUnit.initial ∧ s.translator = Translator.initial ∧
    s.inbox = [] ∧ s.release = ReleaseUnit.initial ∧ s.bus = BusController.initial ∧ s.peers = PeerUnit.initial ∧
    s.floor = FloorRecord.initial

/-- The blocks stand at their reset values, and no flag has changed. -/
def StaysQuiet (s t : State) : Prop := BlocksAtReset t ∧ t.status.flags = s.status.flags

section
variable {s : State}

theorem StaysQuiet.refl (hb : BlocksAtReset s) : StaysQuiet s s := ⟨hb, rfl⟩

/-- The flash state and its timer, the device's readiness, the player and the sequencer are no block's. -/
theorem StaysQuiet.ofRest (hb : BlocksAtReset s) (q : Sequencer) (f : FlashState) (timer : Option Nat)
    (g ready : Bool) (playing : Option (Pattern × Nat)) (waiting : Option Pattern) :
    StaysQuiet s { s with
      seq := q
      port := { s.port with flash := f, timer := timer, burstGranted := g, deviceReady := ready }
      status := { s.status with playing := playing, waiting := waiting } } := ⟨hb, rfl⟩

/-- Time passes without a block, every timer being stopped. -/
theorem elapse_quiet (hb : BlocksAtReset s) (n : Nat) : StaysQuiet s (elapse n s) := by
  obtain ⟨hsettings, hscanner, hstrokes, hnotes, hregions, hlookup, htranslator, hinbox, hrelease, hbus, hpeers,
    hfloor⟩ := hb
  refine ⟨⟨hsettings, ?_, hstrokes, ?_, hregions, hlookup, ?_, hinbox, ?_, ?_, ?_, ?_⟩, rfl⟩ <;> unfold elapse
  · rw [hscanner]; rfl
  · rw [hnotes]; rfl
  · rw [htranslator]; rfl
  · rw [hrelease]; rfl
  · rw [hbus]; rfl
  · rw [hpeers]; rfl
  · rw [hfloor]; rfl

theorem StaysQuiet.trans {t u : State} (h : StaysQuiet s t) (k : StaysQuiet t u) : StaysQuiet s u :=
  ⟨k.1, k.2.trans h.2⟩

theorem StaysQuiet.ite {c : Prop} [Decidable c] {t : State} (hb : BlocksAtReset s) (h : StaysQuiet s t) :
    StaysQuiet s (if c then t else s) := by
  split
  · exact h
  · exact .refl hb

end

/-! ### No event comes about (R125, R170) -/

section
variable {s : State} (hd : Dormant s)
include hd

theorem Dormant.phase : s.seq.phase = .fault ∨ s.seq.phase = .load := hd.imp id (·.elim (·.1) (·.1))

theorem Dormant.inRun : inRun s = false := by
  unfold Machine.inRun; rcases hd.phase with h | h <;> rw [h] <;> rfl

theorem Dormant.transmitter : transmitterActive s = false := by
  unfold transmitterActive; rcases hd.phase with h | h <;> rw [h] <;> rfl

theorem Dormant.receiver : receiverActive s = false := by
  unfold receiverActive; rcases hd.phase with h | h <;> rw [h]

theorem receive_dormant (f : LineFrame) (take : Station → Msg → State → State) : receive f take s = s := by
  unfold receive canReceive; rw [hd.receiver]; rfl

theorem headerRead_dormant : headerRead s = s := by
  unfold headerRead; split
  · rename_i hload
    rcases hd.of_load hload with h | h <;> rw [h]
  · rfl

theorem readEnds_dormant : readEnds s = s := by
  unfold readEnds; rcases hd.phase with h | h <;> rw [h]

end

section
variable {s : State} (hb : BlocksAtReset s)
include hb

theorem BlocksAtReset.period : s.scanner.period = none := by rw [hb.2.1]; rfl
theorem BlocksAtReset.notes : s.notes = NotesWriter.initial := hb.2.2.2.1
theorem BlocksAtReset.search : s.lookup.search = none := by rw [hb.2.2.2.2.2.1]; rfl
theorem BlocksAtReset.translator : s.translator = Translator.initial := hb.2.2.2.2.2.2.1
theorem BlocksAtReset.holdTimer : s.release.holdTimer = none := by rw [hb.2.2.2.2.2.2.2.2.1]; rfl
theorem BlocksAtReset.inFlight : s.bus.inFlight = none := by rw [hb.2.2.2.2.2.2.2.2.2.1]; rfl
theorem BlocksAtReset.presenceTimer : s.peers.timer = none := by rw [hb.2.2.2.2.2.2.2.2.2.2.1]; rfl

theorem BlocksAtReset.idle : translatorIdle s = false := by unfold translatorIdle; rw [hb.translator]; rfl

theorem BlocksAtReset.wantsBurst : s.notes.wantsBurst = false := by rw [hb.notes]; rfl

theorem BlocksAtReset.burst : s.notes.burst = none := by rw [hb.notes]; rfl

/-- With no burst in flight a poll frees the flash (R37). -/
theorem releaseFlash_quiet : StaysQuiet s (releaseFlash s) := by
  unfold releaseFlash; rw [arbitrate_eq]
  exact .ofRest hb s.seq _ none _ _ s.status.playing s.status.waiting

theorem operationDone_quiet : StaysQuiet s (operationDone s) := by
  unfold operationDone; rw [hb.burst]; exact releaseFlash_quiet hb

theorem operationFailed_quiet : StaysQuiet s (operationFailed s) := by
  unfold operationFailed; dsimp only
  rw [hb.burst, leaveResidue_idle hb.burst]
  have hended : StaysQuiet s (endProgram s) := .ofRest hb s.seq .free none _ _ s.status.playing s.status.waiting
  exact hended.trans (releaseFlash_quiet hended.1)

theorem onExpiry_quiet {act : State → State} (h : ∀ {s}, BlocksAtReset s → StaysQuiet s (act s)) (t : Option Nat) :
    StaysQuiet s (onExpiry t act s) := by
  unfold onExpiry; split
  · exact .refl hb
  · exact (elapse_quiet hb _).trans (h (elapse_quiet hb _).1)

end

/-- In FAULT and before acceptance a command but a reset and the end of the configuration read moves no block. -/
theorem exec_quiet {i : Instr} {s : State} (hd : Dormant s) (hb : BlocksAtReset s) (hr : isReset i = false)
    (hc : i = .configReadDone → ¬ Loading s .config) : ∃ t, exec i s = .next t ∧ StaysQuiet s t := by
  have hstays : StaysQuiet s s := .refl hb
  have hreceive : ∀ f take, StaysQuiet s (receive f take s) := fun f take => by rw [receive_dormant hd]; exact hstays
  have hnotRun : ¬ inRun s = true := by rw [hd.inRun]; exact Bool.false_ne_true
  have hnotReceiving : ¬ receiverActive s = true := by rw [hd.receiver]; exact Bool.false_ne_true
  have hnotIdle : ¬ translatorIdle s = true := by rw [hb.idle]; exact Bool.false_ne_true
  have hskip : ∀ {c : Prop} [Decidable c] {t : State}, ¬ c → StaysQuiet s (if c then t else s) := fun h => by
    rw [if_neg h]; exact hstays
  have hstopped : ∀ {t : Option Nat} {act : State → State}, t = none → StaysQuiet s (onExpiry t act s) := fun h => by
    rw [h]; exact hstays
  cases i with
  | powerOnReset straps flash ram => cases hr
  | pinReset straps => cases hr
  | flashRecoveryEnd ready =>
    refine ⟨_, rfl, .ite hb ?_⟩
    cases ready with
    | true => exact .ofRest hb _ .reading none _ true s.status.playing s.status.waiting
    | false =>
      have hpassed := elapse_quiet hb (s.port.timer.getD 0)
      exact hpassed.trans (.ofRest hpassed.1 _ .reading none _ false _ _)
  | configReadDone => exact ⟨_, rfl, hskip (hc rfl)⟩
  | dictHeaderReadDone => exact ⟨_, rfl, by rw [headerRead_dormant hd]; exact hstays⟩
  | overlayHeaderReadDone =>
    refine ⟨_, rfl, hskip fun h => ?_⟩
    rcases hd.of_load h.1 with hstep | hstep <;> rw [hstep] at h <;> cases h.2
  | resumeScanEnd =>
    refine ⟨_, rfl, hskip fun h => ?_⟩
    rcases hd.phase with hphase | hphase <;> rw [hphase] at h <;> cases h
  | scan image mark => exact ⟨_, rfl, by unfold takeScan; rw [hb.period]; exact hstays⟩
  | flushTimerExpiry => exact ⟨_, rfl, hstopped (by rw [hb.notes]; rfl)⟩
  | burstStart => exact ⟨_, rfl, hskip fun h => by rw [hb.wantsBurst] at h; cases h.2.2⟩
  | flashReadDone => exact ⟨_, rfl, .ite hb (by rw [readEnds_dormant hd]; exact hstays)⟩
  | programPollResult error =>
    refine ⟨_, rfl, .ite hb ?_⟩
    cases error with
    | true => exact operationFailed_quiet hb
    | false => exact operationDone_quiet hb
  | programTimeout =>
    exact ⟨_, rfl, .ite hb (onExpiry_quiet hb (fun h => .ofRest h _ .recovering (some 5) _ _ _ _) _)⟩
  | recoveryEnd ready => exact ⟨_, rfl, hskip fun h => by rw [hb.burst] at h; cases h.2⟩
  | strokeEvent => exact ⟨_, rfl, hskip hnotIdle⟩
  | timerEvent => exact ⟨_, rfl, hskip hnotIdle⟩
  | lookupCompletion => exact ⟨_, rfl, by unfold lookupCompletes; rw [hb.search]; exact hstays⟩
  | holdBackTimerExpiry => exact ⟨_, rfl, hstopped hb.holdTimer⟩
  | frameSendStart => exact ⟨_, rfl, hskip fun h => by rw [hd.transmitter] at h; cases h.1⟩
  | arbitrationLost => exact ⟨_, rfl, by unfold loseArbitration; rw [hb.inFlight]; exact hstays⟩
  | transmitError startBit => exact ⟨_, rfl, by unfold abandonFrame; rw [hb.inFlight]; exact hstays⟩
  | frameSent => exact ⟨_, rfl, by unfold finishFrame; rw [hb.inFlight]; exact hstays⟩
  | busStuck dominantMs => exact ⟨_, rfl, hskip fun h => hnotReceiving h.1⟩
  | busIdle => exact ⟨_, rfl, hskip fun h => hnotReceiving h.1⟩
  | frameDiscarded f => exact ⟨_, rfl, hreceive _ _⟩
  | claimReceived f => exact ⟨_, rfl, hreceive _ _⟩
  | reliefReqReceived f => exact ⟨_, rfl, hreceive _ _⟩
  | reliefBusyReceived f => exact ⟨_, rfl, hreceive _ _⟩
  | passReceived f => exact ⟨_, rfl, hreceive _ _⟩
  | passOtherReceived f => exact ⟨_, rfl, hreceive _ _⟩
  | floorFreeReceived f => exact ⟨_, rfl, hreceive _ _⟩
  | recordReceived f => exact ⟨_, rfl, hreceive _ _⟩
  | clearReceived f => exact ⟨_, rfl, hreceive _ _⟩
  | textReceived f => exact ⟨_, rfl, hreceive _ _⟩
  | defineReceived f => exact ⟨_, rfl, hreceive _ _⟩
  | presenceReceived f => exact ⟨_, rfl, hreceive _ _⟩
  | retractReceived f => exact ⟨_, rfl, hreceive _ _⟩
  | replaceReceived f => exact ⟨_, rfl, hreceive _ _⟩
  | shadowReceived f => exact ⟨_, rfl, hreceive _ _⟩
  | presenceTimerExpiry => exact ⟨_, rfl, hstopped hb.presenceTimer⟩
  | vacancyTimerExpiry => exact ⟨_, rfl, hskip fun h => hnotRun h.1⟩
  | claimWaitEnd => exact ⟨_, rfl, hskip hnotRun⟩
  | claimHoldOffEnd => exact ⟨_, rfl, hskip hnotRun⟩
  | claimWindowExpiry => exact ⟨_, rfl, hskip fun h => hnotRun h.1⟩
  | reliefTimerExpiry => exact ⟨_, rfl, hskip fun h => hnotRun h.1⟩
  | yieldTimerExpiry => exact ⟨_, rfl, hskip fun h => hnotRun h.1⟩
  | patternEnd =>
    refine ⟨_, rfl, onExpiry_quiet hb (fun {u} h => ?_) _⟩
    unfold nextPattern; split
    · exact .ofRest h u.seq _ _ _ _ _ _
    · exact .ofRest h u.seq _ _ _ _ _ _

/-- Behind acceptance a header is read, or SCAN has begun (R42, R91, R173). -/
theorem readHeaders_awake {s : State} (hload : s.seq.phase = .load) : ¬ Dormant (readHeaders s) := by
  unfold readHeaders afterJob afterMain
  repeat' split
  · exact setLoadStep_awake hload (by decide)
  · exact setLoadStep_awake hload (by decide)
  · exact fun h => setLoadStep_awake (s := s) (l := .overlayHeader) hload (by decide) h
  · exact not_dormant (s := enterScan s) nofun nofun

/-- The configuration read refused enters FAULT with no block begun; accepted, LOAD goes on or SCAN begins (R173, R174). -/
theorem configRead_quiet {s : State} (hb : BlocksAtReset s) (hload : Loading s .config) :
    Dormant (configRead s) → BlocksAtReset (configRead s) := by
  have hfault : ∀ c, BlocksAtReset (enterFault (setFlagIf c .configClamped s)) := fun c => by
    rw [enterFault_setFlagIf]; exact hb
  unfold configRead; dsimp only; split
  · split
    · intro hd
      have hphase : (accept (configBlock s) (readSettings (configBlock s)).1
          (setFlagIf (readSettings (configBlock s)).2 .configClamped s)).seq.phase = .load := by
        rw [setFlagIf_eq]; exact hload.1
      exact absurd hd (readHeaders_awake hphase)
    · exact fun _ => hfault _
  · exact fun _ => hfault false

/-! ### Steps -/

theorem step_quiet {s t : State} (hd : Dormant s) (hb : BlocksAtReset s)
    (hr : ∀ c, s.pending.head? = some c → isReset c = false) (h : step s = .next t) :
    StaysQuiet s t ∨ s.seq.phase = .load ∧ (Dormant t → BlocksAtReset t) := by
  unfold step at h; split at h
  · cases h; exact .inl (elapse_quiet hb 1)
  · rename_i c rest hpending
    by_cases hconfig : c = .configReadDone ∧ Loading s .config
    · obtain ⟨rfl, hload⟩ := hconfig
      have hread : exec .configReadDone { s with pending := rest } = .next (configRead { s with pending := rest }) :=
        congrArg Host.Outcome.next (if_pos hload)
      rw [hread] at h; cases h
      exact .inr ⟨hload.1, configRead_quiet (s := { s with pending := rest }) hb hload⟩
    · obtain ⟨u, hu, hstays⟩ := exec_quiet (i := c) (s := { s with pending := rest }) hd hb
        (hr c (by rw [hpending]; rfl)) (fun hc hload => hconfig ⟨hc, hload⟩)
      rw [hu] at h; cases h; exact .inl hstays

theorem started_atReset (kind : ResetKind) (straps : Straps) (flash ram : Memory) (queue : List Instr) (free : Nat) :
    BlocksAtReset (State.started kind straps flash ram queue free) :=
  ⟨rfl, rfl, rfl, rfl, rfl, rfl, rfl, rfl, rfl, rfl, rfl, rfl⟩

/-! ### The statement -/

/-- Settles O59, from what every command keeps and from what no command does before acceptance and in FAULT. -/
theorem onlyResetLeavesFaultAndRun : Obligations.OnlyResetLeavesFaultAndRun := by
  intro s t h
  refine ⟨fun hquiet hdt => ?_, fun hr => ?_⟩
  · by_cases hr : ∀ c, s.pending.head? = some c → isReset c = false
    · have hd : Dormant s := by_contra fun hawake => (step_sound hr h).awake hawake hdt
      rcases step_quiet hd (hquiet hd) hr h with hstays | ⟨-, hblocks⟩
      · exact hstays.1
      · exact hblocks hdt
    · push Not at hr
      obtain ⟨c, hc, hreset⟩ := hr
      rcases step_reset hc (Bool.not_eq_false _ ▸ hreset) h with ⟨straps, flash, ram, -, rfl⟩ | ⟨straps, -, rfl⟩
      · exact started_atReset _ _ _ _ _ _
      · exact started_atReset _ _ _ _ _ _
  · have hsound := step_sound hr h
    refine ⟨hsound.identity, fun hfault => ⟨hsound.fault hfault, fun hquiet => ?_⟩, hsound.run⟩
    rcases step_quiet (.inl hfault) (hquiet (.inl hfault)) hr h with hstays | ⟨hload, -⟩
    · exact hstays.2
    · rw [hfault] at hload; cases hload

end Sys2Proof.Machine
end

section
/-! PROOFS. The step, what either reset leaves, and the events of the start-up recovery, of a timed-out program and of
the FEEDBACK player (R35, R37, R138, R155, R170, R180). -/

namespace Sys2Proof.Machine

/-- The last stroke time after one more ms (R155). -/
theorem keepStroke_some (window : Nat) (now w : Word) :
    keepStroke window now (some w) = if (now - w).toNat < window * 1000 then some w else none := by
  unfold keepStroke; rw [Option.filter_some]; simp only [decide_eq_true_eq]

theorem step_idle {s : State} (h : s.pending = []) : step s = .next (tick s) := by unfold step; rw [h]

/-- Settles O1: a step on a waiting command is its run, and a step on none is a tick. -/
theorem stepRunsFrontOrTicks : Obligations.StepRunsFrontOrTicks := by
  refine ⟨fun _ _ _ => rfl, fun s h => ⟨tick s, step_idle h, rfl, rfl, rfl, rfl, rfl, rfl, rfl, rfl, rfl, rfl, rfl, rfl,
    rfl, rfl, fun w hw => ?_, fun hnone => ?_, rfl, rfl, ?_⟩⟩
  · show keepStroke _ _ s.floor.lastStroke = _
    rw [hw]; exact keepStroke_some _ _ _
  · show keepStroke _ _ s.floor.lastStroke = none
    rw [hnone]; rfl
  · rw [← h]; rfl

/-! ### Resets -/

theorem record_initial (a : Station) : PeerUnit.initial.record a = Peer.initial := by
  unfold PeerUnit.record PeerUnit.initial
  rw [List.getD_eq_getElem?_getD, List.getElem?_replicate]
  split <;> rfl

/-- Settles O2, block by block as `State.started` gives them. -/
theorem blocksAfterEitherReset : Obligations.BlocksAfterEitherReset := by
  intro kind straps flash ram queue free
  refine ⟨rfl, rfl, ?_, rfl, ?_, ?_, ?_, ?_, rfl, ?_, ?_, record_initial, rfl, ?_, ?_, rfl⟩
  all_goals repeat' constructor

/-- Settles O3, from what a part that has just started is. -/
theorem resetMeetsInvariants : Obligations.ResetMeetsInvariants := by
  obtain ⟨hqueues, hflags, hhistory⟩ := started_bounds .powerOn ⟨0, false⟩ [] [] [] 0
  exact ⟨⟨Memory.wf_nil, Memory.wf_nil⟩, hflags, hqueues, hhistory, started_chordGood _ _ _ _ _ _,
    fun _ => started_atReset _ _ _ _ _ _⟩

/-! ### The flash recovers (R35, R37) -/

/-- Settles O5: each command at its event, and without it. -/
theorem flashRecoveryAndTimeout : Obligations.FlashRecoveryAndTimeout := by
  refine fun s => ⟨fun hload => ⟨?_, ?_⟩, fun ready hnot => ?_, fun n hprogramming htimer => ?_, fun hnot => ?_⟩
  · exact congrArg Host.Outcome.next (if_pos hload)
  · exact congrArg Host.Outcome.next (if_pos hload)
  · exact congrArg Host.Outcome.next (if_neg hnot)
  · show execProgramTimeout s = _
    unfold execProgramTimeout; rw [if_pos hprogramming, htimer]; rfl
  · exact congrArg Host.Outcome.next (if_neg hnot)

/-! ### The FEEDBACK player (R174, R180) -/

/-- Settles O54: the end of a pattern in FAULT and elsewhere, and a request at an idle and at a busy player. -/
theorem patternEndStartsWaiting : Obligations.PatternEndStartsWaiting := by
  refine ⟨fun s p left hplaying => ?_, fun s hidle => ?_, fun u p => ⟨fun hoff => ?_, fun hon hidle => ?_,
    fun hon hbusy => ?_⟩⟩
  · show execPatternEnd s = _
    unfold execPatternEnd; rw [hplaying]
    show Host.Outcome.next (nextPattern (elapse left s)) = _
    unfold nextPattern
    by_cases hfault : s.seq.phase = .fault
    · rw [if_pos hfault, if_pos (show (elapse left s).seq.phase = .fault from hfault)]; rfl
    · rw [if_neg hfault, if_neg (show ¬ (elapse left s).seq.phase = .fault from hfault)]; rfl
  · show execPatternEnd s = _
    unfold execPatternEnd; rw [hidle]; rfl
  · exact if_neg (by rw [hoff]; exact Bool.false_ne_true)
  · rw [StatusUnit.request_idle hon hidle]
  · exact StatusUnit.request_busy hon hbusy

end Sys2Proof.Machine
end

section
/-! PROOFS. Clamping: what each row of the table takes, the relief time raised, and what CONFIG_CLAMPED stands for
(R172). -/

namespace Sys2Proof.Machine

theorem clampTo_flag (lo hi v : Nat) : (clampTo lo hi v).flag = true ↔ v < lo ∨ hi < v := by
  unfold clampTo; simp

theorem clampResolve_value (blk : List Byte) :
    (clampResolve blk).value =
      if fieldAt blk 46 2 = 0 then 0
      else if fieldAt blk 46 2 = 65535 then 800
      else max 100 (min 3000 (fieldAt blk 46 2)) := by
  unfold clampResolve; split
  · rfl
  · unfold clampField; dsimp only; split
    · rename_i hones; exact (if_pos hones).symm
    · rename_i hvalue; exact (if_neg hvalue).symm

theorem clampResolve_flag (blk : List Byte) :
    (clampResolve blk).flag = true ↔
      fieldAt blk 46 2 ≠ 0 ∧ fieldAt blk 46 2 ≠ 65535 ∧ (fieldAt blk 46 2 < 100 ∨ 3000 < fieldAt blk 46 2) := by
  unfold clampResolve clampField allOnes
  by_cases h0 : fieldAt blk 46 2 = 0
  · simp [h0]
  · by_cases h1 : fieldAt blk 46 2 = 65535
    · simp [h1]
    · simp [h0, h1, clampTo_flag]

theorem clampRate_value (blk : List Byte) :
    (clampRate blk).value = if fieldAt blk 3 1 ≤ 2 then fieldAt blk 3 1 else 1 := by
  unfold clampRate; dsimp only; split <;> rfl

theorem clampRate_flag (blk : List Byte) : (clampRate blk).flag = true ↔ 2 < fieldAt blk 3 1 := by
  unfold clampRate; dsimp only; split
  · simp; omega
  · simp; omega

theorem clampLabel_value (blk : List Byte) (n : Nat) :
    (clampLabel blk n).value =
      if fieldAt blk (68 + 25 * n) 1 = 255 then 0 else min 24 (fieldAt blk (68 + 25 * n) 1) := by
  unfold clampLabel; dsimp only; split
  · rfl
  · exact Nat.max_eq_right (Nat.zero_le _)

theorem clampLabel_flag (blk : List Byte) (n : Nat) :
    (clampLabel blk n).flag = true ↔
      24 < fieldAt blk (68 + 25 * n) 1 ∧ fieldAt blk (68 + 25 * n) 1 ≠ 255 := by
  unfold clampLabel; dsimp only
  by_cases h : fieldAt blk (68 + 25 * n) 1 = 255
  · simp [h]
  · simp [h, clampTo_flag]

/-- The clamps of the fields with a default, and of the relief time before it is raised. -/
def fieldFlags (blk : List Byte) : Bool :=
  (clampField blk 38 1 1 4 1).flag || (clampField blk 39 1 2 100 10).flag || (clampField blk 40 1 1 7 2).flag ||
    (clampField blk 41 1 1 10 3).flag || (clampField blk 42 2 1 600 20).flag || (clampField blk 44 1 6 16 12).flag ||
    (clampField blk 48 2 0 5000 1500).flag || (clampField blk 50 2 100 1000 250).flag ||
    (clampField blk 45 1 2 8 3).flag || (clampField blk 52 1 1 10 4).flag || (clampField blk 53 1 10 200 50).flag ||
    (clampField blk 54 1 2 60 10).flag || (clampField blk 56 1 5 120 20).flag || (clampField blk 55 1 5 120 45).flag ||
    (clampField blk 58 1 8 12 10).flag || (clampField blk 60 2 8 256 64).flag || (clampField blk 59 1 1 64 16).flag ||
    decide ((clampField blk 55 1 5 120 45).value < (readSettings blk).1.relief)

theorem readSettings_relief (blk : List Byte) :
    (readSettings blk).1.relief =
      max (clampField blk 55 1 5 120 45).value
        ((clampField blk 56 1 5 120 20).value + ((clampField blk 48 2 0 5000 1500).value + 999) / 1000 + 2) := rfl

theorem readSettings_flag (blk : List Byte) :
    (readSettings blk).2 =
      (fieldFlags blk || ((clampResolve blk).flag || ((clampRate blk).flag || ((clampTo 1 16 (fieldAt blk 2 1)).flag ||
        ((clampTo 32 2048 (fieldAt blk 4 2)).flag || (List.range 15).any fun n => (clampLabel blk n).flag))))) := by
  have hraise : decide ((clampField blk 55 1 5 120 45).value < (readSettings blk).1.relief) =
      decide ((clampField blk 55 1 5 120 45).value <
        reliefFloor (clampField blk 56 1 5 120 20).value (clampField blk 48 2 0 5000 1500).value) := by
    rw [readSettings_relief, decide_eq_decide]; unfold reliefFloor; omega
  unfold fieldFlags; rw [hraise]
  simp only [readSettings, raiseRelief, List.any_append, List.any_cons, List.any_nil, Bool.or_false, List.any_map,
    Function.comp_def]
  ac_rfl

/-- Settles O8, row by row; the flag is the disjunction of what the rows report. -/
theorem clampedSettingsStayInRange : Obligations.ClampedSettingsStayInRange := by
  intro blk t resolve label
  have hhold := clampField_le blk 48 2 0 5000 1500 (by decide) (by decide)
  have hyield := clampField_le blk 56 1 5 120 20 (by decide) (by decide)
  have hrelief := clampField_le blk 55 1 5 120 45 (by decide) (by decide)
  refine ⟨⟨clampField blk 38 1 1 4 1, clampField blk 39 1 2 100 10, clampField blk 40 1 1 7 2,
    clampField blk 41 1 1 10 3, clampField blk 42 2 1 600 20, clampField blk 44 1 6 16 12,
    clampField blk 48 2 0 5000 1500, clampField blk 50 2 100 1000 250, clampField blk 45 1 2 8 3,
    clampField blk 52 1 1 10 4, clampField blk 53 1 10 200 50, clampField blk 54 1 2 60 10,
    clampField blk 56 1 5 120 20, clampField blk 55 1 5 120 45, clampField blk 58 1 8 12 10,
    clampField blk 60 2 8 256 64, clampField blk 59 1 1 64 16, ?_, ?_, ?_, ?_, ?_, ?_, ?_, ?_, ?_, ?_, ?_, ?_, ?_, ?_,
    ?_, ?_, ?_, rfl, rfl, readSettings_relief blk, rfl, ?_⟩, clampResolve_value blk, ?_, clampRate_value blk, rfl, rfl,
    ?_, ?_⟩
  case refine_18 =>
    show (readSettings blk).2 = true ↔ fieldFlags blk = true ∨ _
    rw [readSettings_flag, Bool.or_eq_true]
    refine or_congr_right ?_
    simp only [Bool.or_eq_true, List.any_eq_true, List.mem_range, clampResolve_flag, clampRate_flag, clampTo_flag,
      clampLabel_flag, or_assoc]
    rfl
  case refine_19 =>
    show (fieldAt blk 57 1 != 0) = false ↔ _
    simp
  case refine_20 =>
    show (readSettings blk).1.relief ≤ 127
    rw [readSettings_relief]; omega
  case refine_21 =>
    show (List.range 15).map (labelAt blk) = _
    exact List.map_congr_left fun n _ => congrArg (fun k => (blk.drop (69 + 25 * n)).take k) (clampLabel_value blk n)
  all_goals exact clampField_takes _ _ _ _ _ _ (by decide)

end Sys2Proof.Machine
end

section
/-! PROOFS. DICT_HEADER_READ_DONE: the window of the header just read, and what LOAD reads next (R42, R43, R91). -/

namespace Sys2Proof.Machine

/-- A region too small for its header has no sound one (R42). -/
theorem dictGeometry_small {size : Nat} (h : List Byte) (hsize : size < 16) : dictGeometry size h = none :=
  dictGeometry_unsound size h fun ⟨_, _, _, _, _, _, _, _, _, _, hheap, _, hfits⟩ => by omega

/-- A flash window is judged by the 16 bytes at its region's base (R42). -/
theorem judgeWindow_eq {s : State} {r : Region} {w : Window} (hw : w ≠ .w0) (hregion : s.port.region w.region = some r)
    (hdevice : r.device = .flash) (hallowed : .flashRead ∈ r.allowed) :
    judgeWindow w s = dictGeometry r.size (Memory.readBytes s.port.flashMem r.base 16) := by
  have hread : s.port.readAt w.region 0 16 =
      if 16 ≤ r.size then some (Memory.readBytes s.port.flashMem r.base 16) else none := by
    unfold MemoryPort.readAt MemoryPort.allows MemoryPort.bytesAt
    rw [hregion]
    cases w with
    | w0 => exact absurd rfl hw
    | w1 => simp [Window.region, hallowed, PortOp.isProgram, hdevice, MemoryPort.contents]
    | w2 => simp [Window.region, hallowed, PortOp.isProgram, hdevice, MemoryPort.contents]
  unfold judgeWindow; rw [hread, hregion]
  by_cases hsize : 16 ≤ r.size
  · rw [if_pos hsize]; rfl
  · rw [if_neg hsize, dictGeometry_small _ (by omega)]; rfl

/-! ### What LOAD reads next -/

/-- The next step of LOAD moves the sequencer, the flash and, where SCAN begins, the resume scan only. -/
structure LoadGoesOn (s t : State) (main : Bool) : Prop where
  next : (t.seq.phase, t.seq.loadStep, t.port.flash) =
    if main then (.load, .mainHeader, s.port.flash)
    else if s.seq.ramFit then (.load, .overlayHeader, .free)
    else (.scan, .done, .reading)
  notes : t.notes = scanBegun s t
  frame : t =
    { s with
      notes := t.notes
      seq := { s.seq with phase := t.seq.phase, loadStep := t.seq.loadStep }
      port := { s.port with flash := t.port.flash } }

section
variable {s : State} (hload : s.seq.phase = .load)
include hload

theorem afterMain_goesOn : LoadGoesOn s (afterMain s) false := by
  unfold afterMain; split
  · rename_i hram
    exact ⟨by simp [hram, hload, setFlash, setLoadStep],
      (if_neg (show ¬ s.seq.phase = .scan by rw [hload]; decide)).symm, rfl⟩
  · rename_i hram
    exact ⟨by simp [hram, enterScan, setFlash, setPhase], rfl, rfl⟩

theorem afterJob_goesOn : LoadGoesOn s (afterJob s) (s.port.region .main).isSome := by
  unfold afterJob; split
  · rename_i hmain
    rw [hmain]
    exact ⟨by simp [hload, setLoadStep], (if_neg (show ¬ s.seq.phase = .scan by rw [hload]; decide)).symm, rfl⟩
  · rename_i hmain
    rw [Bool.not_eq_true] at hmain; rw [hmain]; exact afterMain_goesOn hload

end

/-! ### The statement -/

/-- A header of h is judged in a region of this size, its window's geometry being in l, and LOAD goes on. -/
structure HeaderJudged (s t : State) (size : Nat) (h : List Byte) (l : LookupUnit) (main : Bool) : Prop where
  lookup : t.lookup = l
  sound : ∀ m heap heapSize, HeaderSound size h m heap heapSize → t.status = s.status
  unsound : (¬ ∃ m heap heapSize, HeaderSound size h m heap heapSize) → t.status = (setFlag .dictBad s).status
  next : (t.seq.phase, t.seq.loadStep, t.port.flash) =
    if main then (.load, .mainHeader, s.port.flash)
    else if s.seq.ramFit then (.load, .overlayHeader, .free)
    else (.scan, .done, .reading)
  notes : t.notes = scanBegun s t
  frame : t =
    { s with
      notes := t.notes
      seq := { s.seq with phase := t.seq.phase, loadStep := t.seq.loadStep }
      port := { s.port with flash := t.port.flash }
      lookup := l
      status := t.status }

theorem header_judged {s : State} {size : Nat} {h : List Byte} {l : LookupUnit} {go : State → State} {main : Bool}
    (hgo : LoadGoesOn (setFlagIf (dictGeometry size h).isNone .dictBad { s with lookup := l })
      (go (setFlagIf (dictGeometry size h).isNone .dictBad { s with lookup := l })) main) :
    HeaderJudged s (go (setFlagIf (dictGeometry size h).isNone .dictBad { s with lookup := l })) size h l main := by
  have hgood : ∀ m heap heapSize, HeaderSound size h m heap heapSize →
      (setFlagIf (dictGeometry size h).isNone .dictBad { s with lookup := l }).status = s.status :=
    fun _ _ _ hsound => by rw [dictGeometry_sound _ _ _ _ _ hsound]; rfl
  have hbad : (¬ ∃ m heap heapSize, HeaderSound size h m heap heapSize) →
      (setFlagIf (dictGeometry size h).isNone .dictBad { s with lookup := l }).status =
        (setFlag .dictBad s).status :=
    fun hunsound => by rw [dictGeometry_unsound _ _ hunsound]; exact setFlag_status _ rfl rfl
  have hflagged := setFlagIf_eq (dictGeometry size h).isNone .dictBad { s with lookup := l }
  generalize setFlagIf (dictGeometry size h).isNone .dictBad { s with lookup := l } = u at *
  obtain ⟨hnext, hnotes, hframe⟩ := hgo
  generalize hstatus : u.status = v at *
  subst hflagged
  have hstays : (go _).status = v := congrArg State.status hframe
  exact ⟨congrArg State.lookup hframe, fun m heap heapSize hs => hstays.trans (hgood m heap heapSize hs),
    fun hs => hstays.trans (hbad hs), hnext, hnotes, by rw [hstays]; exact hframe⟩

/-- Settles O9: the JOB header and the MAIN header, each judged and LOAD gone on. -/
theorem dictionaryHeaderEnablesOrDisables : Obligations.DictionaryHeaderEnablesOrDisables := by
  intro s r job hdevice hallowed hload hregion h
  have hphase : ∀ c l, (setFlagIf c .dictBad { s with lookup := l }).seq.phase = .load := fun c l => by
    rw [setFlagIf_eq]; exact hload.1
  have hread : headerRead s = if job then jobRead s else mainRead s := by
    unfold headerRead; rw [if_pos hload.1, hload.2]
    cases job <;> rfl
  have hexec : exec .dictHeaderReadDone s = .next (if job then jobRead s else mainRead s) :=
    congrArg Host.Outcome.next hread
  cases job with
  | true =>
    have hjudge := judgeWindow_eq (w := .w1) (by decide) hregion hdevice hallowed
    have hgo := afterJob_goesOn (hphase (dictGeometry r.size h).isNone { s.lookup with w1 := dictGeometry r.size h })
    rw [show (setFlagIf _ .dictBad _ : State).port = s.port by rw [setFlagIf_eq]] at hgo
    obtain ⟨hlookup, hgood, hbad, hnext, hnotes, hframe⟩ := header_judged hgo
    refine ⟨_, hexec, ?_⟩
    simp only [if_true, jobRead, hjudge, true_and]
    exact ⟨fun m heap heapSize hs => ⟨by rw [hlookup]; exact dictGeometry_sound _ _ _ _ _ hs,
        hgood m heap heapSize hs⟩,
      fun hs => ⟨by rw [hlookup]; exact dictGeometry_unsound _ _ hs, hbad hs⟩, hnext, hnotes,
      by rw [hlookup]; exact hframe⟩
  | false =>
    have hjudge := judgeWindow_eq (w := .w2) (by decide) hregion hdevice hallowed
    have hgo := afterMain_goesOn (hphase (dictGeometry r.size h).isNone { s.lookup with w2 := dictGeometry r.size h })
    obtain ⟨hlookup, hgood, hbad, hnext, hnotes, hframe⟩ := header_judged hgo
    refine ⟨_, hexec, ?_⟩
    simp only [Bool.false_eq_true, if_false, mainRead, hjudge, false_and]
    exact ⟨fun m heap heapSize hs => ⟨by rw [hlookup]; exact dictGeometry_sound _ _ _ _ _ hs,
        hgood m heap heapSize hs⟩,
      fun hs => ⟨by rw [hlookup]; exact dictGeometry_unsound _ _ hs, hbad hs⟩, hnext, hnotes,
      by rw [hlookup]; exact hframe⟩

end Sys2Proof.Machine
end

section
/-! PROOFS. RECORD, CLEAR and ACK, FLUSH_TIMER_EXPIRY and FRAME_SEND_START (R20, R21, R122, R123, R131, R141, R178). -/

namespace Sys2Proof.Machine

/-! ### The record state (R122, R123) -/

/-- The record state takes the value, and a change hands its note. -/
theorem setRecord_sets (on : Bool) (a : Station) {s s' : State} (hrelease : s'.release = s.release)
    (hnotes : s'.notes = s.notes) (hsettings : s'.settings = s.settings) (hstatus : s'.status = s.status) :
    (setRecord on a s').release = { s.release with recordOn := on } ∧
      (s.release.recordOn ≠ on → (setRecord on a s').notes = (handNote (.record on a) s).notes) ∧
      (s.release.recordOn = on → (setRecord on a s').notes = s.notes ∧ (setRecord on a s').status = s.status) := by
  unfold setRecord; rw [hrelease]; dsimp only
  by_cases hsame : s.release.recordOn = on
  · rw [if_pos hsame]
    exact ⟨rfl, fun h => absurd hsame h, fun _ => ⟨hnotes, hstatus⟩⟩
  · rw [if_neg hsame]
    refine ⟨by rw [handNote_eq], fun _ => ?_, fun h => absurd h hsame⟩
    exact handNote_notes_congr (t := { s' with release := { s.release with recordOn := on } }) hsettings hnotes _

/-- It touches neither text, floor nor bus. -/
theorem setRecord_translator (on : Bool) (a : Station) (s : State) :
    (setRecord on a s).translator = s.translator ∧ (setRecord on a s).floor = s.floor ∧
      (setRecord on a s).bus = s.bus := by
  unfold setRecord; dsimp only; split
  · exact ⟨rfl, rfl, rfl⟩
  · rw [handNote_eq]; exact ⟨rfl, rfl, rfl⟩

theorem assemble_record (on : Bool) (strokes : List Word) (start : Word) (s : State) :
    assembleAndHand [if on then 0x0F else 0x0E] strokes start s = recordCommand on s := by
  cases on with
  | false => exact assembleAndHand_command (c := .recordOff) (by decide) (by decide) (by decide) strokes start s
  | true => exact assembleAndHand_command (c := .recordOn) (by decide) (by decide) (by decide) strokes start s

/-- A release act leaves alone what no frame touches. -/
theorem ReleaseAct.outsideFrame {s t : State} (h : ReleaseAct s t) : OutsideFrame s t :=
  ⟨h.core.seq, h.core.settings, h.core.scanner, h.core.strokes, h.lookup, h.core.flashMem, h.core.regions,
    h.core.pending, h.core.freeCount, h.sequence, h.work, h.capture, h.resolveTimer⟩

/-- Settles O47: the frame and the command set the record state alike; the command's frame follows in RUN. -/
theorem recordFrameSetsRecordState : Obligations.RecordFrameSetsRecordState := by
  refine ⟨fun s f a on haccepts => ?_, fun s on strokes start hdraining => ?_⟩
  · have hexec : exec (.recordReceived f) s = .next (setRecord on a (frameEnded f s)) :=
      congrArg Host.Outcome.next (receive_accepted takeRecord haccepts)
    obtain ⟨hrelease, hchanged, hsame⟩ := setRecord_sets on a (s := s) (s' := frameEnded f s) rfl rfl rfl rfl
    obtain ⟨htranslator, hfloor, hbus⟩ := setRecord_translator on a (frameEnded f s)
    have hact := setRecord_act on a (frameEnded f s)
    refine ⟨_, hexec, hrelease, fun hne => ⟨?_, hchanged hne⟩, hsame, ?_, ?_, hact.outsideFrame⟩
    · unfold Noted; rw [hchanged hne]; exact handNote_noted _ rfl
    · show (setRecord on a (frameEnded f s)).release.recordOn = on
      rw [hrelease]
    · rw [htranslator, hfloor, hact.inbox, hact.core.peers, hact.ramMem, hbus]; rfl
  · rw [assemble_record]
    obtain ⟨hrelease, hchanged, hsame⟩ := setRecord_sets on s.seq.addr (s := s) (s' := s) rfl rfl rfl rfl
    obtain ⟨htranslator, hfloor, hbus⟩ := setRecord_translator on s.seq.addr s
    have hact := setRecord_act on s.seq.addr s
    have hframe := broadcast_act (.record on) (setRecord on s.seq.addr s)
    have hcommand : recordCommand on s = broadcast (.record on) (setRecord on s.seq.addr s) :=
      urgent_undrained (by rw [broadcast_floor, hfloor]; exact hdraining)
    rw [hcommand]
    have hnotes := broadcast_notes (.record on) (setRecord on s.seq.addr s)
    refine ⟨hframe.release.trans hrelease, fun hne => hnotes.trans (hchanged hne),
      fun heq => hnotes.trans (hsame heq).1, fun hroom => ?_, fun hout => ?_, rfl, ?_,
      (hact.trans hframe.toRelease).outsideFrame⟩
    · have hroom' : RoomToSend (setRecord on s.seq.addr s) := by
        unfold RoomToSend; rw [hact.core.seq, hbus]; exact hroom
      rw [broadcast_room (by simp [Msg.kind, FrameKind.cls]) hroom', setQueue_bus, hbus]
    · unfold broadcast handFrame
      rw [if_pos (show (setRecord on s.seq.addr s).seq.phase ≠ .run by rw [hact.core.seq]; exact hout), hbus]
    · rw [hframe.translator, htranslator, hframe.toRelease.toOverlay.inbox, hact.inbox, broadcast_floor, hfloor,
        hframe.core.peers, hact.core.peers, hframe.ramMem, hact.ramMem]

/-! ### CLEAR and ACK (R178, R179) -/

theorem usedFlags_bit : ∀ p < 32, usedFlags.getLsbD p = decide (p < 22) := by decide

/-- Some bit stands in both words. -/
theorem and_ne_zero_iff (x y : Word) : x &&& y ≠ 0 ↔ ∃ p < 32, x.getLsbD p = true ∧ y.getLsbD p = true := by
  constructor
  · intro hne
    by_contra hnone
    refine hne (BitVec.eq_of_getLsbD_eq fun p hp => ?_)
    rw [BitVec.getLsbD_and, show (0 : Word).getLsbD p = false by simp]
    by_contra hbit
    exact hnone ⟨p, hp, by simpa using hbit⟩
  · rintro ⟨p, -, hx, hy⟩ hzero
    have hbit := congrArg (·.getLsbD p) hzero
    simp [hx, hy] at hbit

theorem attnDriven_iff {s : State} (hphase : s.seq.phase ≠ .fault) :
    attnDriven s = true ↔ ∃ p < 32, s.status.flags.getLsbD p = true ∧ s.status.mask.getLsbD p = true := by
  unfold attnDriven; rw [decide_eq_false hphase, Bool.false_or, decide_eq_true_eq, and_ne_zero_iff]

theorem Accepts.phase_ne_fault {s : State} {f : LineFrame} {a : Station} {m : Msg} (h : Accepts s f a m) :
    s.seq.phase ≠ .fault := fun hfault => by
  have hcan := h.1
  simp [canReceive, receiverActive, hfault] at hcan

/-- Settles O48, bit by bit for CLEAR, and at once for ACK. -/
theorem clearFrameClearsNamedFlags : Obligations.ClearFrameClearsNamedFlags := by
  refine ⟨fun s f a named haccepts => ?_, fun s => ⟨rfl, ?_⟩⟩
  · have hexec : exec (.clearReceived f) s = .next (clearFlags named (frameEnded f s)) :=
      congrArg Host.Outcome.next (receive_accepted takeClear haccepts)
    have hbit : ∀ p < 32, (clearFlags named (frameEnded f s)).status.flags.getLsbD p =
        (s.status.flags.getLsbD p && !(named.getLsbD p && decide (p < 22))) := fun p hp => by
      show (s.status.flags &&& ~~~(named &&& usedFlags)).getLsbD p = _
      rw [BitVec.getLsbD_and, BitVec.getLsbD_not, BitVec.getLsbD_and, usedFlags_bit p hp, decide_eq_true hp,
        Bool.true_and]
    refine ⟨_, hexec, fun p hp => ?_, fun p hp hlast => ?_, attnDriven_iff haccepts.phase_ne_fault, rfl⟩
    · rw [hbit p (by omega)]; simp [hp]
    · rw [hbit p hlast]; simp [Nat.not_lt.2 hp]
  · show (decide (s.seq.phase = .fault) || decide ((0 : Word) &&& s.status.mask ≠ 0)) = true ↔ _
    simp

/-! ### The flush timer (R20, R21) -/

/-- A flush that is due for waiting records requests a burst, which the free flash grants. -/
theorem arbitrate_grants {s : State} (hfree : s.port.flash = .free) (hgranted : s.port.burstGranted = false)
    (hclaims : s.lookup.claims = false) (hwants : s.notes.wantsBurst = true) :
    arbitrate s = { s with port := { s.port with burstGranted := true } } := by
  unfold arbitrate; rw [if_pos ⟨hfree, hgranted⟩, hclaims, hwants]; rfl

theorem arbitrate_busy {s : State} (h : s.port.flash ≠ .free) : arbitrate s = s := if_neg fun hc => h hc.1

/-- The flush timer stopped, with a flush due for the records that wait. -/
def flushFallen (s : State) : State :=
  { s with notes := { s.notes with flushTimer := none, flushDue := s.notes.flushDue || decide (0 < s.notes.waiting) } }

theorem flushExpired_eq (s : State) : flushExpired s = arbitrate (flushFallen s) := rfl

/-- Settles O20: the flush falls due, and the arbiter decides. -/
theorem flushTimerRequestsBurst : Obligations.FlushTimerRequestsBurst := by
  intro s n htimer e
  have hexec : exec .flushTimerExpiry s = .next (flushExpired e) := by
    show Host.Outcome.next (onExpiry s.notes.flushTimer flushExpired s) = _
    rw [htimer]; rfl
  refine ⟨_, hexec, ?_, ?_, fun hbusy => ?_, fun hfree hgranted hclaims hopen hburst hfifo => ?_⟩
  · rw [flushExpired_eq, arbitrate_eq]; rfl
  · rw [flushExpired_eq, arbitrate_eq]; rfl
  · rw [flushExpired_eq, arbitrate_busy (s := flushFallen e) hbusy]; rfl
  · have hwaiting : 0 < e.notes.waiting := by
      show 0 < s.notes.fifo.length - (s.notes.burst.map Burst.count).getD 0
      rw [hburst]; exact List.length_pos_iff.2 hfifo
    have hwants : (flushFallen e).notes.wantsBurst = true := by
      have hpath : (flushFallen e).notes.pathOpen = true := hopen
      have hnone : (flushFallen e).notes.burst = none := hburst
      have hdue : (flushFallen e).notes.flushDue = true := by simp [flushFallen, hwaiting]
      simp [NotesWriter.wantsBurst, hpath, hnone, hdue]
    rw [flushExpired_eq, arbitrate_grants (s := flushFallen e) hfree hgranted hclaims hwants]; rfl

/-! ### The start of a frame (R131, R141) -/

theorem foldl_min_le (l : List (TxFrame × Nat)) (m : Nat) :
    l.foldl (fun m p => min m p.1.cls) m ≤ m ∧ ∀ p ∈ l, l.foldl (fun m p => min m p.1.cls) m ≤ p.1.cls := by
  induction l generalizing m with
  | nil => exact ⟨le_rfl, nofun⟩
  | cons q l ih =>
    obtain ⟨hstart, hall⟩ := ih (min m q.1.cls)
    refine ⟨hstart.trans (min_le_left ..), fun p hp => ?_⟩
    rcases List.mem_cons.1 hp with rfl | hp
    · exact hstart.trans (min_le_right ..)
    · exact hall p hp

theorem le_foldl_min (l : List (TxFrame × Nat)) {m c : Nat} (hm : c ≤ m) (hl : ∀ p ∈ l, c ≤ p.1.cls) :
    c ≤ l.foldl (fun m p => min m p.1.cls) m := by
  induction l generalizing m with
  | nil => exact hm
  | cons q l ih => exact ih (le_min hm (hl q (by simp))) fun p hp => hl p (by simp [hp])

theorem TxFrame.cls_lt (f : TxFrame) : f.cls < 7 := by unfold TxFrame.cls; cases f.kind <;> decide

/-- The oldest waiting frame of the lowest class present is chosen (R131). -/
theorem chosenPlace_eq {q : List TxFrame} {i : Nat} {f : TxFrame} (hi : q[i]? = some f) (hwaits : f.sending = false)
    (hleast : ∀ j g, q[j]? = some g → g.sending = false → f.cls < g.cls ∨ (f.cls = g.cls ∧ i ≤ j)) :
    chosenPlace q = some i := by
  have hmem : (f, i) ∈ q.zipIdx.filter fun p => !p.1.sending :=
    List.mem_filter.2 ⟨List.mem_zipIdx_iff_getElem?.2 hi, by simp [hwaits]⟩
  have hlow : (q.zipIdx.filter fun p => !p.1.sending).foldl (fun m p => min m p.1.cls) 7 = f.cls := by
    refine le_antisymm ((foldl_min_le _ 7).2 _ hmem) (le_foldl_min _ f.cls_lt.le fun p hp => ?_)
    obtain ⟨hp, hwaiting⟩ := List.mem_filter.1 hp
    have := hleast p.2 p.1 (List.mem_zipIdx_iff_getElem?.1 hp) (by simpa using hwaiting)
    omega
  obtain ⟨hlt, hget⟩ := List.getElem?_eq_some_iff.1 hi
  have hfind : q.zipIdx.find? (fun p => decide ((!p.1.sending) = true ∧ (p.1.cls == f.cls) = true)) = some (f, i) := by
    rw [List.find?_eq_some_iff_getElem]
    refine ⟨by simp [hwaits], i, by simpa using hlt, by simp [hget], fun j hj => ?_⟩
    have hjlt : j < q.length := hj.trans hlt
    have := hleast j q[j] (List.getElem?_eq_getElem hjlt)
    by_cases hsending : q[j].sending = true
    · simp [hsending]
    · have := this (by simpa using hsending)
      have hne : q[j].cls ≠ f.cls := by omega
      simp [hne]
  unfold chosenPlace; dsimp only
  rw [hlow, List.head?_filter, List.find?_filter, hfind]; rfl

/-- Settles O36: the chosen frame takes the line, and without one, or with the bus not idle, nothing happens. -/
theorem chosenFrameIsOldestOfLowestClass : Obligations.ChosenFrameIsOldestOfLowestClass := by
  refine ⟨fun s i f hrun hidle hfree hi hwaits hleast => ?_, fun s hnot => ?_⟩
  · show Host.Outcome.next (startFrame s) = _
    unfold startFrame
    rw [if_pos ⟨by simp [transmitterActive, hrun], hidle, hfree⟩, chosenPlace_eq hi hwaits hleast]
    dsimp only; rw [hi]
    cases hbody : f.body with
    | msg m => simp only [onTheLine, contents, hbody]
    | presence => simp only [onTheLine, contents, hbody]; rfl
  · show Host.Outcome.next (startFrame s) = _
    have hstays : startFrame s = s := by
      unfold startFrame
      by_cases hidle : transmitterActive s = true ∧ s.bus.follower = .idle ∧ s.bus.inFlight = none
      · have hsending : ∀ g ∈ s.bus.queue, g.sending = true := by
          obtain ⟨hrun, hfollower, hfree⟩ := hidle
          rcases hnot with h | h | h | h
          · exact absurd (by simpa [transmitterActive] using hrun) h
          · exact absurd hfollower h
          · exact absurd hfree h
          · exact h
        have hnone : chosenPlace s.bus.queue = none := by
          have hwaiting : s.bus.queue.zipIdx.filter (fun p => !p.1.sending) = [] :=
            List.filter_eq_nil_iff.2 fun p hp => by simp [hsending _ (List.fst_mem_of_mem_zipIdx hp)]
          unfold chosenPlace; simp only [hwaiting]; rfl
        rw [if_pos hidle, hnone]
      · exact if_neg hidle
    rw [hstays]

end Sys2Proof.Machine
end

section
/-! PROOFS. What the resume scan fixes: the next stroke number and the restart count (R29). -/

namespace Sys2Proof.Machine

/-! ### The backward scans (R29) -/

theorem backwardScan_none {s : State} {pick : List Byte → Option Nat} {k : Nat}
    (h : ∀ i < k, recordIn pick (slotBytes s i) = none) : backwardScan s pick k = none := by
  induction k with
  | zero => rfl
  | succ k ih => unfold backwardScan; rw [h k (by omega)]; exact ih fun i hi => h i (by omega)

theorem backwardScan_newest {s : State} {pick : List Byte → Option Nat} {j k v : Nat} (hj : j < k)
    (hv : recordIn pick (slotBytes s j) = some v)
    (h : ∀ i, j < i → i < k → recordIn pick (slotBytes s i) = none) : backwardScan s pick k = some v := by
  induction k with
  | zero => omega
  | succ k ih =>
    unfold backwardScan
    rcases Nat.eq_or_lt_of_le (Nat.le_of_lt_succ hj) with rfl | hlt
    · rw [hv]
    · rw [h k hlt (by omega)]; exact ih hlt fun i hji hik => h i hji (by omega)

/-- A good record of the kind, read at a slot. -/
def RecordOfKind (s : State) (r : Region) (kind i : Nat) : Prop :=
  slotGood (Memory.readBytes s.port.flashMem (r.base + 16 * i) 16) = true ∧
    fieldAt (Memory.readBytes s.port.flashMem (r.base + 16 * i) 16) 0 1 = kind

theorem newestOfKind_iff {s : State} {r : Region} {kind k j : Nat} :
    NewestOfKind s r kind k j ↔
      j < k ∧ RecordOfKind s r kind j ∧ ∀ i, j < i → i < k → ¬ RecordOfKind s r kind i := by
  unfold NewestOfKind RecordOfKind; tauto

/-- Among the records of a kind there is a newest, so without one there is none. -/
theorem exists_newestOfKind {s : State} {r : Region} {kind k i : Nat} (hi : i < k) (h : RecordOfKind s r kind i) :
    ∃ j, NewestOfKind s r kind k j := by
  classical
  refine ⟨Nat.findGreatest (RecordOfKind s r kind) (k - 1), newestOfKind_iff.2 ⟨?_, ?_, fun n hn hk hrecord => ?_⟩⟩
  · have := Nat.findGreatest_le (P := RecordOfKind s r kind) (k - 1); omega
  · exact Nat.findGreatest_spec (m := i) (by omega) h
  · exact Nat.findGreatest_is_greatest hn (by omega) hrecord

section
variable {s : State} {r : Region} {k kind n : Nat} {pick : List Byte → Option Nat} (h : WrittenUpTo s r k)
  (hpick : ∀ bs, pick bs = if fieldAt bs 0 1 = kind then some (fieldAt bs 1 n) else none)
include h hpick

theorem recordIn_eq {i : Nat} (hi : i < k) :
    (RecordOfKind s r kind i → recordIn pick (slotBytes s i) =
      some (fieldAt (Memory.readBytes s.port.flashMem (r.base + 16 * i) 16) 1 n)) ∧
    (¬ RecordOfKind s r kind i → recordIn pick (slotBytes s i) = none) := by
  obtain ⟨hregion, hk, -, -⟩ := h
  unfold RecordOfKind recordIn
  rw [hregion.slotBytes (by omega), hpick]
  refine ⟨fun ⟨hgood, hkind⟩ => by rw [if_pos hgood, if_pos hkind], fun hnot => ?_⟩
  split
  · rename_i hgood; exact if_neg fun hkind => hnot ⟨hgood, hkind⟩
  · rfl

/-- The backward scan below the write slot finds the newest good record of its kind. -/
theorem WrittenUpTo.backwardScan :
    (∀ j, NewestOfKind s r kind k j → backwardScan s pick k =
      some (fieldAt (Memory.readBytes s.port.flashMem (r.base + 16 * j) 16) 1 n)) ∧
    ((∀ j, ¬ NewestOfKind s r kind k j) → Machine.backwardScan s pick k = none) := by
  refine ⟨fun j hj => ?_, fun hnone => backwardScan_none fun i hi => (recordIn_eq h hpick hi).2 fun hrecord => ?_⟩
  · obtain ⟨hlt, hrecord, hnewest⟩ := newestOfKind_iff.1 hj
    exact backwardScan_newest hlt ((recordIn_eq h hpick hlt).1 hrecord)
      fun i hji hik => (recordIn_eq h hpick hik).2 (hnewest i hji hik)
  · obtain ⟨j, hj⟩ := exists_newestOfKind hi hrecord
    exact hnone j hj

end

/-! ### The statement -/

theorem strokeAfter_some {n : Nat} (hn : n < 2 ^ 32) :
    strokeAfter (some n) = if n = 4294967295 then 1 else BitVec.ofNat 32 (n + 1) := by
  show succNonzero (BitVec.ofNat 32 n) = _
  rw [succNonzero_eq]
  by_cases hlast : n = 4294967295
  · subst hlast; rfl
  · rw [if_neg hlast, if_neg fun heq => hlast ?_]
    · apply BitVec.eq_of_toNat_eq; simp
    · have := congrArg BitVec.toNat heq
      simp only [BitVec.toNat_ofNat, Nat.mod_eq_of_lt hn] at this
      exact this

/-- The restart count that the scan fixed stands at the end of the event. -/
theorem resumeEnds_restartCount {s : State} (h : NotesUnopened s) :
    (resumeEnds s).notes.restartCount = some (scanOutcome s).restart := by
  rw [resumeEnds_frame h]
  rcases Nat.eq_zero_or_pos (notesSlots s - (scanOutcome s).write) with hzero | hfree
  · exact congrArg NotesWriter.restartCount (listenEntered_full h hzero).1
  · exact congrArg NotesWriter.restartCount (listenEntered_room h hfree).1

/-- Settles O12: both backward scans run below the write slot that the forward scan finds. -/
theorem resumeScanFixesNumbers : Obligations.ResumeScanFixesNumbers := by
  intro s r j k hscan hunopened hwritten hx hj slot
  have hout : scanOutcome s = scanResult s (.forward j) := by unfold scanOutcome; rw [hx]; rfl
  have hwrite : (scanResult s (.forward j)).write = k := (hwritten.scanResult hj).1
  have hstroke : (scanOutcome s).stroke = strokeAfter (backwardScan s pickStroke k) := by rw [hout, ← hwrite]; rfl
  have hrestart : (scanOutcome s).restart = restartAfter (backwardScan s pickResume k) := by
    rw [hout, ← hwrite]; rfl
  obtain ⟨hnewest, hnoStroke⟩ := hwritten.backwardScan (pick := pickStroke) (kind := 1) (n := 4) fun _ => rfl
  obtain ⟨hresume, hnoResume⟩ := hwritten.backwardScan (pick := pickResume) (kind := 6) (n := 2) fun _ => rfl
  have hcount := resumeEnds_restartCount hunopened
  have hscanner : (resumeEnds s).scanner.active = true ∧
      (resumeEnds s).scanner.nextStroke = some (scanOutcome s).stroke := by
    rw [resumeEnds_frame hunopened]; exact ⟨rfl, rfl⟩
  obtain ⟨hactive, hnext⟩ := hscanner
  refine ⟨_, exec_resumeScanEnd hscan, fun i hi => ?_, fun hnone => ?_, fun i hi => ?_, fun hnone => ?_, hactive,
    fun count hc => ?_⟩
  · rw [hnext, hstroke, hnewest i hi, strokeAfter_some (fieldAt_lt _ _ _)]
  · rw [hnext, hstroke, hnoStroke hnone]; rfl
  · rw [hcount, hrestart, hresume i hi]; rfl
  · rw [hcount, hrestart, hnoResume hnone]; rfl
  · unfold presenceBody; rw [hc]; rfl

end Sys2Proof.Machine
end


section
/-! PROOFS. A completed stroke and the MARK line: what a note handed to the opened path does, and what a scan makes of
the end of a chord (R7, R10 to R16, R19). -/

namespace Sys2Proof.Machine

/-! ### A note handed to the opened path (R19) -/

theorem roomForNotes_congr {s t : State} {k : Nat} (h : t.notes = { s.notes with flushTimer := t.notes.flushTimer }) :
    RoomForNotes t k ↔ RoomForNotes s k := by
  unfold RoomForNotes NotesWriter.pathOpen; rw [h]

theorem strokeNotes_congr {s t : State} (h : t.notes = { s.notes with flushTimer := t.notes.flushTimer }) :
    strokeNotes t = strokeNotes s := by
  unfold strokeNotes; rw [h]

/-- Handing leaves the held notes of an opened path as they are. -/
theorem handNote_heldNotes (n : Note) {s : State} (ho : s.notes.opened = true) :
    (handNote n s).notes.heldNotes = s.notes.heldNotes := by
  unfold handNote joinNote armFlush; rw [if_pos ho, arbitrate_notes]
  repeat' split
  all_goals simp [setFlag_notes]

/-- With room a handed note joins the FIFO (R19). -/
theorem handNote_room (n : Note) {s : State} (ho : s.notes.opened = true) (hr : RoomForNotes s 8) :
    (handNote n s).notes.fifo = s.notes.fifo ++ [n] := handNote_noted n (s := s) rfl ho hr

/-- Without room an opened path loses the note: it is counted, and NOTE_LOST stands where the path is open (R19). -/
theorem handNote_noRoom (n : Note) {s : State} (ho : s.notes.opened = true) (hr : ¬ RoomForNotes s 8) :
    (handNote n s).notes = { s.notes with lostCount := addLost s.notes.lostCount 1 } ∧
      (s.notes.pathOpen = true → (handNote n s).status.isSet .noteLost = true) := by
  have harb : ∀ t, (arbitrate t).status = t.status := fun t => by rw [arbitrate_eq]
  have hopen : s.notes.pathOpen = (!s.notes.halted && !s.notes.full) := by
    unfold NotesWriter.pathOpen; rw [ho, Bool.true_and]
  unfold RoomForNotes at hr
  unfold handNote joinNote; rw [if_pos ho, arbitrate_notes, harb, hopen]
  cases hclosed : (s.notes.halted || s.notes.full) with
  | true =>
    refine ⟨rfl, fun h => ?_⟩
    rw [← Bool.not_or, hclosed] at h
    cases h
  | false =>
    have hfull : 8 ≤ s.notes.fifo.length := by
      refine Nat.not_lt.1 fun hlt => hr ⟨?_, hlt⟩
      rw [hopen, ← Bool.not_or, hclosed]; rfl
    rw [if_neg Bool.false_ne_true, if_pos hfull]
    exact ⟨by rw [setFlag_notes]; rfl, fun _ => by simp [isSet_setFlag]⟩

/-! ### What a loss leaves: the count does not fall, and NOTE_LOST stands -/

/-- From s to t no loss is forgotten: the lost count, taken up to its limit, and NOTE_LOST. -/
structure LossesKept (s t : State) : Prop where
  count : min s.notes.lostCount 4294967295 ≤ t.notes.lostCount ∨ t.notes.lostCount = s.notes.lostCount
  flag : s.status.isSet .noteLost = true → t.status.isSet .noteLost = true

theorem LossesKept.refl (s : State) : LossesKept s s := ⟨.inr rfl, id⟩

/-- Only the notes writer and the status unit count. -/
theorem LossesKept.before {s s' t : State} (h : s'.notes = s.notes ∧ s'.status = s.status) (k : LossesKept s' t) :
    LossesKept s t := by
  obtain ⟨hn, hs⟩ := h
  exact ⟨by rw [← hn]; exact k.count, by rw [← hs]; exact k.flag⟩

theorem handNote_lossesKept (n : Note) (s : State) : LossesKept s (handNote n s) := by
  have harb : ∀ t, (arbitrate t).status = t.status := fun t => by rw [arbitrate_eq]
  have hmore : min s.notes.lostCount 4294967295 ≤ addLost s.notes.lostCount 1 := by unfold addLost; omega
  unfold handNote joinNote armFlush
  repeat' split
  all_goals refine ⟨?_, ?_⟩
  all_goals simp [arbitrate_notes, harb, setFlag_notes, isSet_setFlag, loseNote, hmore]

theorem markEdge_lossesKept (t : Word) (s : State) : LossesKept s (markEdge t s) := by
  unfold markEdge; split
  · refine LossesKept.before ?_ (handNote_lossesKept (.mark t) _)
    exact ⟨rfl, rfl⟩
  · exact ⟨.inr rfl, id⟩

theorem sampleMark_lossesKept (high : Bool) (t : Word) (s : State) : LossesKept s (sampleMark high t s) := by
  unfold sampleMark; split
  · exact ⟨.inr rfl, id⟩
  · dsimp only; split
    · refine LossesKept.before ?_ (markEdge_lossesKept t _)
      exact ⟨rfl, rfl⟩
    · exact ⟨.inr rfl, id⟩

/-- The MARK sample of a due scan forgets no loss. -/
theorem takeScan_lossesKept {s : State} {n : Nat} (h : ScanDue s n) (image : BitVec 24) (mark : Bool) :
    LossesKept (keysScanned n image s) (takeScan image mark s) := by
  rw [takeScan_eq h.1, if_pos h.2]; dsimp only; split
  · exact sampleMark_lossesKept _ _ _
  · exact .refl _

/-! ### The end of a chord (R7, R10 to R13, R16) -/

theorem offerStroke_notes (r : StrokeRecord) (s : State) : (offerStroke r s).notes = s.notes := by
  unfold offerStroke; split
  · rfl
  · rw [setFlag_notes]

/-- The queue after a stroke was offered to it, with STROKE_OVERRUN (R12, R13). -/
theorem offerStroke_strokes (r : StrokeRecord) (s : State) :
    (offerStroke r s).strokes =
      (if s.strokes.length < 16 then s.strokes ++ [⟨r, none⟩]
      else s.strokes.modify (s.strokes.length - 1) QueuedStroke.overrunMore) := by
  unfold offerStroke; split
  · rfl
  · rw [setFlag_strokes]

theorem offerStroke_isSet (r : StrokeRecord) (s : State) (g : Flag) :
    (offerStroke r s).status.isSet g =
      (s.status.isSet g || (decide (16 ≤ s.strokes.length) && decide (g = .strokeOverrun))) := by
  unfold offerStroke; split
  · next h => simp [Nat.not_le.2 h]
  · next h => simp [isSet_setFlag, Nat.not_lt.1 h]

theorem modify_getLast {α : Type} (f : α → α) (l : List α) (a : α) :
    (l ++ [a]).modify ((l ++ [a]).length - 1) f = l ++ [f a] := by
  induction l with
  | nil => rfl
  | cons x l ih => simpa using ih

/-- The state in which the record of the stroke that ends a chord is handed on. -/
def chordClosed (n : Nat) (image : BitVec 24) (number : Word) (s : State) : State :=
  { matrixRead image (scanStart n s) with
    scanner :=
      { (matrixRead image (scanStart n s)).scanner with
        chord := .idle, accumulator := 0, chordStart := none, nextStroke := some (succNonzero number) } }

/-- The matrix part of a scan that ends a chord hands the stroke on (R7, R10, R11). -/
theorem keysScanned_complete {s : State} (n : Nat) {image : BitVec 24} {number start : Word}
    (hchord : s.scanner.chord = .chord) (hnumber : s.scanner.nextStroke = some number)
    (hstart : s.scanner.chordStart = some start) (hup : keysHeld (cellsAfter s image) = 0) :
    keysScanned n image s =
      strokeDone ⟨number, s.scanner.accumulator ||| keysDown (cellsAfter s image), start, timeAfter s n⟩
        (chordClosed n image number s) := by
  unfold keysScanned
  rw [hup, chordStep_complete (by rwa [matrixRead_scanner])]
  unfold completeChord chordClosed; dsimp only
  simp only [matrixRead_scanner, hnumber, hstart, Option.getD_some]

theorem chordClosed_notes (n : Nat) (image : BitVec 24) (number : Word) (s : State) :
    (chordClosed n image number s).notes = { s.notes with flushTimer := countDown n s.notes.flushTimer } := by
  show (matrixRead image (scanStart n s)).notes = _
  unfold matrixRead; rw [setFlagIf_eq]; rfl

/-- Settles O17: the end of a chord hands the stroke's record to the notes and to the queue, and the MARK sample behind
it builds no stroke and forgets no loss. -/
theorem completedStrokeIsNotedAndQueued : Obligations.CompletedStrokeIsNotedAndQueued := by
  intro s n image mark number start hdue hchord hnumber hstart hup ho finish keys
  let r : StrokeRecord := ⟨number, keys, start, finish⟩
  let note : Note := .stroke number start keys (strokeDuration r)
  have hkeys : keysScanned n image s = strokeDone r (chordClosed n image number s) :=
    keysScanned_complete n hchord hnumber hstart hup
  have hclosed := chordClosed_notes n image number s
  have hopened : (chordClosed n image number s).notes.opened = true := by rw [hclosed]; exact ho
  have hnotes : (keysScanned n image s).notes = (handNote note (chordClosed n image number s)).notes := by
    rw [hkeys]; exact offerStroke_notes _ _
  have hsame : (chordClosed n image number s).notes =
      { s.notes with flushTimer := (chordClosed n image number s).notes.flushTimer } := by rw [hclosed]
  have hroom := roomForNotes_congr (k := 8) hsame
  have hqueue : (handNote note (chordClosed n image number s)).strokes = s.strokes := by
    rw [handNote_eq]; exact (matrixRead_noStroke n image s).strokes
  have hstrokes : (keysScanned n image s).strokes =
      if s.strokes.length < 16 then s.strokes ++ [⟨r, none⟩]
      else s.strokes.modify (s.strokes.length - 1) QueuedStroke.overrunMore := by
    rw [hkeys]; unfold strokeDone; rw [offerStroke_strokes, hqueue]
  have hoverrun : (takeScan image mark s).status.isSet .strokeOverrun =
      (s.status.isSet .strokeOverrun || decide (16 ≤ s.strokes.length)) := by
    have hf : (chordClosed n image number s).status.isSet .strokeOverrun = s.status.isSet .strokeOverrun :=
      (matrixRead_isSet n image s .strokeOverrun).trans (by simp)
    rw [takeScan_isSet hdue image mark (by decide), hkeys]
    unfold strokeDone
    rw [offerStroke_isSet, isSet_handNote _ _ (by decide), hqueue, hf]
    simp
  obtain ⟨⟨_, _, _, hscanner⟩, hmarkStrokes, hmarkNotes, -, -⟩ := takeScan_due hdue image mark
  obtain ⟨hcount, hflag⟩ := takeScan_lossesKept hdue image mark
  have hformer : (keysScanned n image s).scanner =
      { (keysScanned n image s).scanner with
        chord := .idle, accumulator := 0, chordStart := none, nextStroke := some (succNonzero number) } := by
    rw [hkeys]; unfold strokeDone; rw [offerStroke_scanner, handNote_eq]; rfl
  rw [hformer] at hscanner
  refine ⟨_, rfl, by rw [hscanner], by rw [hscanner], by rw [hscanner], ?_, fun hr => ?_, fun hr => ?_,
    fun hshort => ?_, fun qs q hq hlong => ?_, takeScan_kept hdue image mark⟩
  · rw [hscanner]; exact congrArg some (succNonzero_eq number)
  · rw [hmarkNotes]; unfold strokeNotes
    rw [hnotes, handNote_room _ hopened (hroom.2 hr), handNote_heldNotes _ hopened, hclosed]
    simp [isStrokeNote, note, strokeDuration, r]
  · obtain ⟨hlost, hset⟩ := handNote_noRoom note hopened (fun h => hr (hroom.1 h))
    rw [hclosed] at hlost
    have hlostCount : (keysScanned n image s).notes.lostCount = addLost s.notes.lostCount 1 := by rw [hnotes, hlost]
    refine ⟨?_, ?_, fun hpath => hflag ?_⟩
    · rw [hmarkNotes]; unfold strokeNotes; rw [hnotes, hlost]
    · unfold addLost at hlostCount; omega
    · rw [hkeys]; unfold strokeDone
      rw [offerStroke_isSet, hset (by rw [hclosed]; exact hpath), Bool.true_or]
  · refine ⟨?_, ?_⟩
    · rw [hmarkStrokes, hstrokes, if_pos hshort]
    · rw [hoverrun, decide_eq_false (Nat.not_le.2 hshort), Bool.or_false]
  · refine ⟨?_, ?_⟩
    · rw [hmarkStrokes, hstrokes, if_neg (Nat.not_lt.2 hlong), hq, modify_getLast]; rfl
    · rw [hoverrun, decide_eq_true hlong, Bool.or_true]

end Sys2Proof.Machine
end


section
/-! PROOFS. The MARK line: what each sample makes of the level, the count, the latch and the notes (R14, R15). -/

namespace Sys2Proof.Machine

/-! ### The state that the MARK sample meets -/

/-- A handed note joins the FIFO or leaves it as it is (R19). -/
theorem handNote_fifo (n : Note) (s : State) :
    (handNote n s).notes.fifo = s.notes.fifo ∨ (handNote n s).notes.fifo = s.notes.fifo ++ [n] := by
  unfold handNote joinNote armFlush
  repeat' split
  all_goals simp [arbitrate_notes, setFlag_notes, loseNote]

/-- The chord former adds at most one STROKE note to the FIFO. -/
theorem chordStep_fifo (down held : KeySet) (t : Word) (s : State) :
    (chordStep down held t s).notes.fifo = s.notes.fifo ∨
      ∃ n, isStrokeNote n = true ∧ (chordStep down held t s).notes.fifo = s.notes.fifo ++ [n] := by
  unfold chordStep; dsimp only; repeat' split
  case h_2.isTrue =>
    unfold completeChord strokeDone; rw [offerStroke_notes]
    exact (handNote_fifo _ _).imp id fun h => ⟨_, rfl, h⟩
  all_goals simp [setFlag_notes]

/-- The state u that the MARK sample of a scan meets, in what the sample reads and may change. -/
structure MarkMeets (s u : State) : Prop where
  scanner : (u.scanner.active, u.scanner.markActive, u.scanner.markLevel, u.scanner.markCount, u.scanner.heldMark) =
    (s.scanner.active, s.scanner.markActive, s.scanner.markLevel, s.scanner.markCount, s.scanner.heldMark)
  settings : u.settings = s.settings
  markNext : u.translator.markNext = s.translator.markNext
  path : u.notes.path = s.notes.path
  fifo : u.notes.fifo = s.notes.fifo ∨
    s.scanner.active = true ∧ ∃ n, isStrokeNote n = true ∧ u.notes.fifo = s.notes.fifo ++ [n]

theorem handNote_translator (n : Note) (s : State) : (handNote n s).translator = s.translator := by rw [handNote_eq]

theorem chordStep_translator (down held : KeySet) (t : Word) (s : State) :
    (chordStep down held t s).translator = s.translator := by
  have hflag : ∀ f t, (setFlag f t).translator = t.translator := fun f t => by rw [setFlag_eq]
  have hoffer : ∀ r t, (offerStroke r t).translator = t.translator := fun r t => by
    unfold offerStroke; split
    · rfl
    · rw [hflag]
  unfold chordStep completeChord strokeDone; dsimp only; repeat' split
  all_goals simp [hflag, hoffer, handNote_translator]

theorem scanStart_markMeets (n : Nat) (s : State) : MarkMeets s (scanStart n s) :=
  ⟨rfl, rfl, rfl, rfl, .inl rfl⟩

theorem keysScanned_markMeets {n : Nat} {s : State} (h : ScanDue s n) (image : BitVec 24) :
    MarkMeets s (keysScanned n image s) := by
  have hnotes : (matrixRead image (scanStart n s)).notes = (scanStart n s).notes := by
    unfold matrixRead; rw [setFlagIf_eq]
  have htranslator : (matrixRead image (scanStart n s)).translator = (scanStart n s).translator := by
    unfold matrixRead; rw [setFlagIf_eq]
  obtain ⟨_, _, _, _, _, _, _, hact⟩ := keysScanned_captureAct n image s
  refine ⟨?_, by rw [hact]; rfl, ?_, ?_, ?_⟩
  · unfold keysScanned; rw [chordStep_scanner, matrixRead_scanner]
  · unfold keysScanned; rw [chordStep_translator, htranslator]; rfl
  · unfold keysScanned; rw [chordStep_path, hnotes]; rfl
  · unfold keysScanned
    rcases chordStep_fifo (keysDown (cellsAfter s image)) (keysHeld (cellsAfter s image)) (timeAfter s n)
      (matrixRead image (scanStart n s)) with hs | ⟨m, hm, hs⟩
    · exact .inl (by rw [hs, hnotes]; rfl)
    · exact .inr ⟨h.2, m, hm, by rw [hs, hnotes]; rfl⟩

/-- What the MARK sample of a scan due in n ms meets. -/
def markMet (n : Nat) (image : BitVec 24) (s : State) : State :=
  if s.scanner.active then keysScanned n image s else scanStart n s

theorem markMet_markMeets {n : Nat} {s : State} (h : s.scanner.period = some n) (image : BitVec 24) :
    MarkMeets s (markMet n image s) := by
  unfold markMet; split
  · next hactive => exact keysScanned_markMeets ⟨h, hactive⟩ image
  · exact scanStart_markMeets n s

theorem takeScan_markMet {s : State} {n : Nat} (h : s.scanner.period = some n) (image : BitVec 24) (mark : Bool) :
    takeScan image mark s =
      if s.scanner.markActive then sampleMark mark (timeAfter s n) (markMet n image s) else markMet n image s := by
  have hactive : (markMet n image s).scanner.markActive = s.scanner.markActive :=
    congrArg (·.2.1) (markMet_markMeets h image).scanner
  rw [takeScan_eq h]; dsimp only; rw [← markMet, hactive]

/-- With or without key scanning a scan touches only the blocks of capture (R2, R14). -/
theorem takeScan_scanKept {s : State} {n : Nat} (h : s.scanner.period = some n) (image : BitVec 24) (mark : Bool) :
    ScanKept n s (takeScan image mark s) := by
  have hm := (takeScan_sampled h image mark).act
  refine (CaptureAct.trans ?_ hm).scanKept
  split
  · exact keysScanned_captureAct n image s
  · exact .setScanner _ _

/-! ### The cases of the sample (R14) -/

/-- The MARK line at this level and count. -/
def withLine (level : Bool) (count : Nat) (s : State) : State :=
  { s with scanner := { s.scanner with markLevel := some level, markCount := count } }

/-- The mark-next latch set. -/
def latched (s : State) : State := { s with translator := { s.translator with markNext := true } }

/-- An edge while scanning is active hands its note and sets the latch (R15). -/
theorem markEdge_active {s : State} (t : Word) (h : s.scanner.active = true) :
    markEdge t s = handNote (.mark t) (latched s) := by
  unfold markEdge; rw [if_pos h]; rfl

section
variable {s : State} {high : Bool} (t : Word)

theorem sampleMark_first (h : s.scanner.markLevel = none) : sampleMark high t s = withLine high 0 s := by
  unfold sampleMark; rw [h]; rfl

theorem sampleMark_same (h : s.scanner.markLevel = some high) : sampleMark high t s = withLine high 0 s := by
  unfold sampleMark; rw [h]; cases high <;> rfl

theorem sampleMark_counts (h : s.scanner.markLevel = some !high) (hc : s.scanner.markCount + 1 < s.settings.debounce) :
    sampleMark high t s = withLine (!high) (s.scanner.markCount + 1) s := by
  unfold sampleMark debounceCell; rw [h]
  cases high <;> simp [hc, withLine]

theorem sampleMark_falls (h : s.scanner.markLevel = some true) (hc : s.settings.debounce ≤ s.scanner.markCount + 1) :
    sampleMark false t s = markEdge t (withLine false 0 s) := by
  unfold sampleMark debounceCell; rw [h]
  simp [Nat.not_lt.2 hc, withLine]

theorem sampleMark_rises (h : s.scanner.markLevel = some false) (hc : s.settings.debounce ≤ s.scanner.markCount + 1) :
    sampleMark true t s = withLine true 0 s := by
  unfold sampleMark debounceCell; rw [h]
  simp [Nat.not_lt.2 hc, withLine]

end

/-! ### The statement -/

/-- No MARK edge is made from s to t: nothing held, no latch, no new MARK note. -/
def NoMarkEdge (s t : State) : Prop :=
  t.scanner.heldMark = s.scanner.heldMark ∧ t.translator.markNext = s.translator.markNext ∧
    ∀ w, Note.mark w ∈ t.notes.fifo → Note.mark w ∈ s.notes.fifo

theorem MarkMeets.noMarkEdge {s u : State} (h : MarkMeets s u) : NoMarkEdge s u := by
  obtain ⟨hscanner, -, hnext, -, hfifo⟩ := h
  refine ⟨congrArg (·.2.2.2.2) hscanner, hnext, fun w hw => ?_⟩
  rcases hfifo with hsame | ⟨-, m, hm, hmore⟩
  · rwa [hsame] at hw
  · rw [hmore, List.mem_append, List.mem_singleton] at hw
    refine hw.resolve_right fun heq => ?_
    rw [← heq] at hm
    cases hm

theorem NoMarkEdge.withLine {s u : State} (h : NoMarkEdge s u) (level : Bool) (count : Nat) :
    NoMarkEdge s (withLine level count u) := h

/-- The room that a scan meets leaves room behind the scan's own stroke. -/
theorem MarkMeets.room {s u : State} (h : MarkMeets s u) (hr : RoomForNotes s 7) : RoomForNotes u 8 := by
  obtain ⟨hopen, hlen⟩ := hr
  have hpath : u.notes.pathOpen = s.notes.pathOpen :=
    show u.notes.path.pathOpen = s.notes.path.pathOpen by rw [h.path]
  refine ⟨hpath.trans hopen, ?_⟩
  rcases h.fifo with hsame | ⟨-, m, -, hmore⟩
  · rw [hsame]; omega
  · rw [hmore, List.length_append, List.length_singleton]; omega

/-- Settles O19: one case of the debounced sample after another, on the state that the matrix part leaves. -/
theorem markEdgeMarksNextUnit : Obligations.MarkEdgeMarksNextUnit := by
  intro s n image mark hperiod
  have hmeets := markMet_markMeets hperiod image
  have hnone := hmeets.noMarkEdge
  have hscan := takeScan_markMet hperiod image mark
  obtain ⟨hscanner, hsettings, hnext, hpath, hfifo⟩ := id hmeets
  simp only [Prod.mk.injEq] at hscanner
  obtain ⟨hactive, hmarkActive, hlevel, hcount, hheld⟩ := hscanner
  refine ⟨_, rfl, takeScan_scanKept hperiod image mark, ?_⟩
  generalize markMet n image s = u at *
  rw [hscan]
  refine ⟨fun ha => ?_, fun ha hl => ?_, fun ha hl => ?_, fun ha hl hc => ?_, fun ha hl hm hc => ?_,
    fun ha hl hm hc => ?_⟩
  · rw [if_neg (by simp [ha])]; exact ⟨hlevel, hcount, hnone⟩
  · rw [if_pos ha, sampleMark_first _ (hlevel.trans hl)]; exact ⟨rfl, rfl, hnone⟩
  · rw [if_pos ha, sampleMark_same _ (hlevel.trans hl)]; exact ⟨rfl, rfl, hnone⟩
  · rw [if_pos ha, sampleMark_counts _ (hlevel.trans hl) (by rw [hcount, hsettings]; exact hc)]
    exact ⟨rfl, congrArg (· + 1) hcount, hnone⟩
  · subst hm
    rw [if_pos ha, sampleMark_falls _ (hlevel.trans hl) (by rw [hcount, hsettings]; exact hc)]
    have hsame : (withLine false 0 u).scanner.active = s.scanner.active := hactive
    refine ⟨?_, ?_, fun hon => ?_, fun hoff => ?_⟩
    · unfold markEdge; split
      · rw [handNote_eq]; rfl
      · rfl
    · unfold markEdge; split
      · rw [handNote_eq]; rfl
      · rfl
    · rw [markEdge_active _ (hsame.trans hon)]
      refine ⟨by rw [handNote_eq]; rfl, by rw [handNote_eq]; exact hheld, fun ho hr => ?_⟩
      have hopened : u.notes.opened = true :=
        (show u.notes.path.opened = s.notes.path.opened by rw [hpath]).trans ho
      rw [handNote_room (s := latched (withLine false 0 u)) _ hopened (hmeets.room hr), List.getLast?_concat]
    · unfold markEdge; rw [if_neg (by rw [hsame, hoff]; exact Bool.false_ne_true)]
      refine ⟨hnext, congrArg (fun x => some (Option.getD x (timeAfter s n))) hheld, ?_⟩
      exact hfifo.resolve_right fun ⟨hon, _⟩ => by rw [hoff] at hon; cases hon
  · subst hm
    rw [if_pos ha, sampleMark_rises _ (hlevel.trans hl) (by rw [hcount, hsettings]; exact hc)]
    exact ⟨rfl, rfl, hnone⟩

end Sys2Proof.Machine
end


section
/-! PROOFS. The start of a burst: the LOST record that is due, the records taken, the operations of the program
(R21, R22, R37). -/

namespace Sys2Proof.Machine

/-! ### The records of a burst -/

theorem fifoAtStart_of_noneDue {n : NotesWriter} (h : n.lostCount = 0 ∨ n.fifo.any Note.isLost = true) :
    fifoAtStart n = n.fifo := by
  unfold fifoAtStart
  refine if_neg fun ⟨hpos, hnone⟩ => ?_
  rcases h with hzero | hany
  · omega
  · exact hnone hany

/-- A LOST record that is due stands at the head, or behind the RESUME record there (R21). -/
theorem fifoAtStart_of_due {n : NotesWriter} (hpos : 0 < n.lostCount) (hnone : n.fifo.any Note.isLost = false) :
    ∃ head rest, n.fifo = head ++ rest ∧ fifoAtStart n = head ++ .lost n.lostCount :: rest ∧
      (head = [] ∧ (∀ count kind, rest.head? ≠ some (.resume count kind)) ∨
        ∃ count kind, head = [.resume count kind]) := by
  unfold fifoAtStart; rw [if_pos ⟨hpos, by simp [hnone]⟩]
  unfold placeLost; split
  · next count kind rest heq => exact ⟨[.resume count kind], rest, heq, rfl, .inr ⟨_, _, rfl⟩⟩
  · next rest hother =>
    refine ⟨[], _, rfl, rfl, .inl ⟨rfl, fun count kind hhead => ?_⟩⟩
    obtain ⟨tail, htail⟩ := List.head?_eq_some_iff.1 hhead
    exact hother count kind tail htail

theorem fifoAtStart_ne_nil {n : NotesWriter} (h : n.fifo ≠ []) : fifoAtStart n ≠ [] := by
  unfold fifoAtStart placeLost; repeat' split
  all_goals simp_all

/-- The operations of a burst lie in their pages and in the region (R22). -/
theorem pageSplit_fits {r : Region} {p k : Nat} (h1 : 1 ≤ k) (h8 : k ≤ 16) (hsize : p + k ≤ r.size / 16) :
    OpsFit r (pageSplit p k) := by
  have hmod := Nat.mod_lt p (show 0 < 16 by omega)
  unfold pageSplit; dsimp only
  intro o ho
  split at ho
  · rw [List.mem_singleton] at ho; subst ho
    dsimp only; omega
  · simp only [List.mem_cons, List.not_mem_nil, or_false] at ho
    rcases ho with rfl | rfl
    · dsimp only; omega
    · have hnext : (p + (16 - p % 16)) % 16 = 0 := by omega
      dsimp only; rw [hnext]; omega

/-! ### The start (R21, R37) -/

theorem armFlush_eq (s : State) :
    armFlush s =
      { s with
        notes :=
          { s.notes with
            flushTimer :=
              if s.notes.flushTimer = none ∧ s.notes.pathOpen = true ∧ s.notes.flushDue = false ∧ 0 < s.notes.waiting then
                some (flushPeriod s)
              else s.notes.flushTimer } } := by
  have hiff : (s.notes.flushTimer.isNone && s.notes.pathOpen && !s.notes.flushDue && decide (0 < s.notes.waiting)) = true ↔
      s.notes.flushTimer = none ∧ s.notes.pathOpen = true ∧ s.notes.flushDue = false ∧ 0 < s.notes.waiting := by
    simp [and_assoc]
  unfold armFlush; split
  · next h => rw [if_pos (hiff.1 h)]
  · next h => rw [if_neg fun k => h (hiff.2 k)]

/-- The burst that starts now. -/
def firstBurst (s : State) : Burst :=
  let k := min (min 8 (fifoAtStart s.notes).length) (freeSlots s)
  ⟨.first, k, pageSplit (writeSlot s) k, (writeSlot s, k)⟩

/-- The notes writer with its burst in flight, the flush timer not yet started. -/
def burstReady (s : State) : State :=
  { s with
    notes :=
      { s.notes with
        fifo := fifoAtStart s.notes, burst := some (firstBurst s), flushTimer := none, flushDue := false } }

/-- The notes writer with its burst in flight, the program not yet requested. -/
def burstTaken (s : State) : State :=
  { s with
    notes :=
      { s.notes with
        fifo := fifoAtStart s.notes, burst := some (firstBurst s), flushDue := false
        flushTimer :=
          if s.notes.pathOpen = true ∧ (firstBurst s).count < (fifoAtStart s.notes).length then
            some (s.settings.flush * 100)
          else none } }

/-- The flush timer starts where records are left waiting (R20, R21). -/
theorem armFlush_burstReady (s : State) : armFlush (burstReady s) = burstTaken s := by
  have hiff : (burstReady s).notes.flushTimer = none ∧ (burstReady s).notes.pathOpen = true ∧
      (burstReady s).notes.flushDue = false ∧ 0 < (burstReady s).notes.waiting ↔
      s.notes.pathOpen = true ∧ (firstBurst s).count < (fifoAtStart s.notes).length := by
    have hwaiting : (burstReady s).notes.waiting = (fifoAtStart s.notes).length - (firstBurst s).count := rfl
    rw [hwaiting, Nat.sub_pos_iff_lt]
    exact ⟨fun ⟨_, hopen, _, hlt⟩ => ⟨hopen, hlt⟩, fun ⟨hopen, hlt⟩ => ⟨rfl, hopen, rfl, hlt⟩⟩
  rw [armFlush_eq, if_congr hiff rfl rfl]; rfl

theorem startBurst_eq (s : State) : startBurst s = startProgram (burstTaken s) := by
  rw [← armFlush_burstReady]; rfl

theorem exec_burstStart {s : State} (hflash : s.port.flash = .free) (hgranted : s.port.burstGranted = true)
    (hwants : s.notes.wantsBurst = true) : exec .burstStart s = .next (startProgram (burstTaken s)) := by
  rw [← startBurst_eq]
  exact congrArg Host.Outcome.next (if_pos ⟨hflash, hgranted, hwants⟩)

/-- A region that does not allow a program has it refused (R34). -/
theorem programAllowed_of_not_mem {s : State} {r : Region} (hr : s.port.region .notes = some r)
    (h : PortOp.flashProgram ∉ r.allowed) : programAllowed s = false := by
  unfold programAllowed; split
  · simp [MemoryPort.allows, hr, h]
  · rfl

/-- Settles O21: the burst taken has its first operation in the region, or has it refused. -/
theorem burstStartTakesWaitingRecords : Obligations.BurstStartTakesWaitingRecords := by
  refine ⟨fun s r w hflash hgranted hnone hopen hdue hfifo hregion hpos hroom => ?_,
    fun s r hflash hgranted hwants hregion hrefused => ?_⟩
  · have hwants : s.notes.wantsBurst = true := by
      unfold NotesWriter.wantsBurst NotesWriter.waiting
      rw [hnone, hopen]
      rcases hdue with hlong | hd
      · simp [hlong]
      · simp [hd]
    have hslot : writeSlot s = w := by simp [writeSlot, hpos]
    have hfree : freeSlots s = r.size / 16 - w := by unfold freeSlots; rw [hregion.notesSlots, hslot]
    have hcount : (firstBurst s).count = min (min 8 (fifoAtStart s.notes).length) (r.size / 16 - w) := by
      unfold firstBurst; dsimp only; rw [hfree]
    have hlen : 0 < (fifoAtStart s.notes).length := List.length_pos_iff.2 (fifoAtStart_ne_nil hfifo)
    have hops : (firstBurst s).ops = pageSplit w (firstBurst s).count := by unfold firstBurst; rw [hslot]
    have hfits : OpsFit r (firstBurst s).ops := by
      rw [hops]; exact pageSplit_fits (by omega) (by omega) (by omega)
    have hallowed : programAllowed (burstTaken s) = true := by
      obtain ⟨⟨slot, n⟩, ops, hcons⟩ : ∃ op ops, (firstBurst s).ops = op :: ops := by
        rw [hops]; unfold pageSplit; dsimp only; split <;> exact ⟨_, _, rfl⟩
      exact programAllowed_of_fits rfl hregion hcons hfits
    have hexec := exec_burstStart hflash hgranted hwants
    rw [startProgram_of_allowed hallowed] at hexec
    refine ⟨_, firstBurst s, hexec, rfl, rfl, hcount, ?_, ?_, fifoAtStart_of_noneDue, fifoAtStart_of_due, ?_, rfl⟩
    · unfold firstBurst; rw [hslot]
    · rw [hops]; unfold pageSplit; dsimp only
      by_cases hpage : w % 16 + (firstBurst s).count ≤ 16
      · rw [if_pos hpage, if_pos (by omega)]
      · rw [if_neg hpage, if_neg (by omega)]
    · simp only [burstTaken, hopen, true_and]
  · have hexec := exec_burstStart hflash hgranted hwants
    rw [startProgram_of_refused (programAllowed_of_not_mem (s := burstTaken s) hregion hrefused)] at hexec
    exact ⟨_, hexec, rfl⟩

end Sys2Proof.Machine
end


section
/-! PROOFS. The first failure of a burst: its overwrite with VOID records, and the second attempt behind it (R24, R37).
-/

namespace Sys2Proof.Machine

/-! ### Data of an operation -/

theorem Note.bytes_length (n : Note) : n.bytes.length = 16 := by
  simp [Note.bytes, Note.body]

theorem bytes_void : Note.void.bytes = List.replicate 16 0 := by decide +kernel

/-- An operation programs 16 bytes for each of its records (R22). -/
theorem opData_length {s : State} {b : Burst} {slot m : Nat} {rest : List (Nat × Nat)} (ho : b.ops = (slot, m) :: rest) :
    (opData s b).2.length = 16 * m := by
  unfold opData; rw [ho]
  simp [List.length_flatMap, Note.bytes_length, Nat.mul_comm]

theorem opData_address {s : State} {b : Burst} {r : Region} {slot m : Nat} {rest : List (Nat × Nat)}
    (hr : s.port.region .notes = some r) (ho : b.ops = (slot, m) :: rest) :
    (opData s b).1 = r.base + 16 * slot := by
  have hbase : notesBase s = r.base := by unfold notesBase; rw [hr]; rfl
  unfold opData; rw [ho]; dsimp only; rw [hbase]

/-- The overwrite programs zeros (R24). -/
theorem opData_overwrite {s : State} {b : Burst} {slot m : Nat} {rest : List (Nat × Nat)} (hs : b.stage = .overwrite)
    (ho : b.ops = (slot, m) :: rest) : (opData s b).2 = List.replicate (16 * m) 0 := by
  have hrecord : ∀ i, recordFor s.notes b i = .void := fun i => by unfold recordFor; rw [hs]
  unfold opData; rw [ho]; dsimp only
  simp only [hrecord, bytes_void]
  exact List.eq_replicate_iff.2 ⟨by simp [List.length_flatMap, Nat.mul_comm], by simp⟩

/-- A program that did not complete leaves what stands outside its span as it is. -/
theorem Memory.read_programPartly_outside (m : Memory) (op a : Nat) (bs : List Byte) {x : Nat}
    (hx : x < a ∨ a + bs.length ≤ x) : Memory.read (Memory.programPartly m op a bs) x = Memory.read m x := by
  induction bs generalizing m a with
  | nil => rfl
  | cons v bs ih =>
    rw [List.length_cons] at hx
    rw [Memory.programPartly, ih _ _ (by omega), Memory.read_write_ne _ _ (by omega)]

/-! ### The overwrite (R24) -/

/-- A first failure has the span overwritten, with the device holding what the failed program left. -/
def overwriting (b : Burst) (s : State) : State :=
  setBurst (some ⟨.overwrite, b.count, pageSplit b.span.1 b.span.2, b.span⟩) (endProgram (leaveResidue s))

theorem operationFailed_first {s : State} {b : Burst} (hb : s.notes.burst = some b) (hs : b.stage = .first) :
    operationFailed s = startProgram (overwriting b s) := by
  unfold operationFailed overwriting; rw [hb]; dsimp only; rw [hs]

theorem leaveResidue_inFlight {s : State} {b : Burst} (hb : s.notes.burst = some b) :
    leaveResidue s =
      { s with
        freeCount := s.freeCount + 1
        port :=
          { s.port with
            flashMem := Memory.programPartly s.port.flashMem s.freeCount (opData s b).1 (opData s b).2 } } := by
  unfold leaveResidue; rw [hb]

theorem pageSplit_cons (p k : Nat) : ∃ slot n ops, pageSplit p k = (slot, n) :: ops := by
  unfold pageSplit; dsimp only; split <;> exact ⟨_, _, _, rfl⟩

/-- A burst whose operations are those of a span of the region has its first operation allowed (R22, R34). -/
theorem programAllowed_of_span {s : State} {b : Burst} {r : Region} {p k : Nat} (hb : s.notes.burst = some b)
    (hr : NotesRegion s r) (ho : b.ops = pageSplit p k) (h1 : 1 ≤ k) (h8 : k ≤ 16) (hsize : p + k ≤ r.size / 16) :
    programAllowed s = true := by
  obtain ⟨slot, n, ops, hcons⟩ := pageSplit_cons p k
  exact programAllowed_of_fits hb hr (ho.trans hcons) (by rw [ho]; exact pageSplit_fits h1 h8 hsize)

/-! ### Behind the overwrite (R24, R27) -/

/-- The write position has passed the overwritten span, and the region is checked. -/
def spanPassed (b : Burst) (s : State) : State :=
  checkRegion (freeSlots s) (advanceWrite b.span.2 (setBurst none s))

/-- The second attempt at the records of a burst. -/
def secondBurst (b : Burst) (s : State) : Burst :=
  let k := min b.count (freeSlots s)
  ⟨.second, k, pageSplit (writeSlot s) k, b.span⟩

theorem operationDone_overwritten {s : State} {b : Burst} {op : Nat × Nat} (hb : s.notes.burst = some b)
    (ho : b.ops = [op]) (hs : b.stage = .overwrite) :
    operationDone s =
      let u := spanPassed b (operationProgrammed b s)
      if u.notes.full then releaseFlash u
      else startProgram (armFlush (setBurst (some (secondBurst b u)) u)) := by
  unfold operationDone; rw [hb]; dsimp only; rw [ho]; dsimp only; rw [hs]; rfl

section
variable {s : State} {b : Burst} {r : Region} {w : Nat}

theorem InBurst.freeSlots_passed (h : InBurst s b r w) :
    Machine.freeSlots (advanceWrite b.span.2 (setBurst none s)) = r.size / 16 - (w + b.span.2) := by
  show Machine.notesSlots s - (s.notes.writePos.getD 0 + 16 * b.span.2) / 16 = _
  rw [h.notesSlots, h.writePos_eq, Option.getD_some]; omega

/-- The write position has passed the span; a region then full loses the records (R24, R27). -/
theorem InBurst.spanPassed_notes (h : InBurst s b r w) :
    (spanPassed b s).notes =
      let passed := { s.notes with burst := none, writePos := some (16 * (w + b.span.2)) }
      if r.size / 16 - (w + b.span.2) = 0 then
        { passed with
          full := true, lostCount := addLost s.notes.lostCount (handedCount s.notes.fifo), fifo := []
          flushTimer := none }
      else passed := by
  have hpassed : (advanceWrite b.span.2 (setBurst none s)).notes =
      { s.notes with burst := none, writePos := some (16 * (w + b.span.2)) } := by
    simp [h.writePos_eq, Nat.mul_add]
  rw [spanPassed, checkRegion_notes, h.freeSlots_passed, hpassed]

theorem spanPassed_frame (b : Burst) (s : State) :
    spanPassed b s = { s with notes := (spanPassed b s).notes, status := (spanPassed b s).status } :=
  checkRegion_frame _ _

end

/-- Settles O23: the failed span is overwritten, and behind the overwrite the records are tried again in the slots that
are left. -/
theorem failedBurstIsOverwrittenWithVoid : Obligations.FailedBurstIsOverwrittenWithVoid := by
  refine ⟨fun s b r w slot m rest c hin hstage hops hfail hwf => ?_, fun s hflash hburst => ?_,
    fun s b r w slot m hin hflash hstage hops hwf => ?_⟩
  · obtain ⟨hb, hregion, -, -, -, -, -, -, -, -, hspan1, hspan8, hspan⟩ := id hin
    have hexec := exec_reportsFailure (by rw [hb]; rfl) hfail
    have hallowed : programAllowed (overwriting b s) = true := by
      refine programAllowed_of_span (r := r) rfl ?_ rfl hspan1 (by omega) hspan
      unfold NotesRegion overwriting; rw [leaveResidue_inFlight hb]; exact hregion
    rw [operationFailed_first hb hstage, startProgram_of_allowed hallowed] at hexec
    refine ⟨_, hexec, ?_, ?_⟩
    · unfold overwriting; rw [leaveResidue_inFlight hb, opData_address hregion.1 hops]
      refine ⟨fun x => Memory.programPartly_clears hwf _ _ _ x, fun x hx => ?_⟩
      exact Memory.read_programPartly_outside _ _ _ _ (by rw [opData_length hops]; exact hx)
    · unfold overwriting; rw [leaveResidue_inFlight hb]; rfl
  · have helapsed : ∀ n, (elapse n s).port.flash = .recovering ∧ (elapse n s).notes.burst.isSome = true :=
      fun _ => ⟨hflash, hburst⟩
    show execRecoveryEnd false s = execRecoveryEnd true _
    unfold execRecoveryEnd
    rw [if_pos ⟨hflash, hburst⟩, if_pos (helapsed _)]; rfl
  · obtain ⟨hb, hregion, -, -, -, -, hfull, -, hcount1, hcount8, -, -, -⟩ := id hin
    have hexec : exec (.programPollResult false) s = .next (operationDone s) := by
      simp [exec, execProgramPollResult, hflash]
    have hdone : InBurst (operationProgrammed b s) b r w := hin
    have hmem : (operationProgrammed b s).port.flashMem =
        Memory.program s.port.flashMem (r.base + 16 * slot) (List.replicate (16 * m) 0) := by
      unfold operationProgrammed; rw [opData_address hregion.1 hops, opData_overwrite hstage hops]; rfl
    have hprogrammed : ∀ t : State, t.port.flashMem = (operationProgrammed b s).port.flashMem →
        ProgrammedAt s t (r.base + 16 * slot) (List.replicate (16 * m) 0) := by
      intro t ht
      unfold ProgrammedAt; rw [ht, hmem]
      exact ⟨fun i hi => Memory.read_program_inside hwf _ _ hi, fun x hx => Memory.read_program_outside _ _ _ hx⟩
    have hnotes := hdone.spanPassed_notes
    have hframe := spanPassed_frame b (operationProgrammed b s)
    rw [operationDone_overwritten hb hops hstage] at hexec
    generalize hu : spanPassed b (operationProgrammed b s) = u at hexec hnotes hframe
    by_cases hnone : r.size / 16 - (w + b.span.2) = 0
    · rw [if_pos hnone] at hnotes
      have hisFull : u.notes.full = true := by rw [hnotes]
      dsimp only at hexec; rw [if_pos hisFull, releaseFlash_eq] at hexec
      refine ⟨_, hexec, hprogrammed _ (by rw [hframe]), ?_, fun hroom => by omega, fun _ => ?_⟩
      · show u.notes.writePos = _; rw [hnotes]
      · refine ⟨?_, hisFull, ?_, ?_, ?_⟩
        · show u.notes.burst = _; rw [hnotes]
        · show u.notes.fifo = _; rw [hnotes]
        · show u.status.isSet .notesFull = true
          rw [← hu, spanPassed, isSet_checkRegion, hdone.freeSlots_passed, hnone]; simp
        · show u.notes.lostCount = _; rw [hnotes]; rfl
    · rw [if_neg hnone] at hnotes
      have hnotFull : u.notes.full = false := by rw [hnotes]; exact hfull
      dsimp only at hexec; rw [if_neg (by rw [hnotFull]; exact Bool.false_ne_true)] at hexec
      have hslot : writeSlot u = w + b.span.2 := by unfold writeSlot; rw [hnotes]; dsimp only; simp
      have hregion' : NotesRegion u r := by unfold NotesRegion; rw [hframe]; exact hregion
      have hfree : freeSlots u = r.size / 16 - (w + b.span.2) := by
        unfold freeSlots; rw [hregion'.notesSlots, hslot]
      have hallowed : programAllowed (armFlush (setBurst (some (secondBurst b u)) u)) = true := by
        rw [armFlush_eq]
        exact programAllowed_of_span (p := writeSlot u) (k := min b.count (freeSlots u)) rfl hregion' rfl (by omega)
          (by omega) (by omega)
      rw [startProgram_of_allowed hallowed, armFlush_eq] at hexec
      refine ⟨_, hexec, hprogrammed _ (by rw [hframe]; rfl), ?_, fun _ => ⟨?_, ?_, rfl, rfl⟩, fun hroom => by omega⟩
      · show u.notes.writePos = _; rw [hnotes]
      · show some (secondBurst b u) = _
        unfold secondBurst; rw [hslot, hfree]
      · show u.notes.fifo = _; rw [hnotes]; rfl

end Sys2Proof.Machine
end


section
/-! PROOFS. A probe run to its end: past the slots on its way, to the entry stored, an empty slot or the limit (R44,
R45). -/

namespace Sys2Proof.Machine

section
variable {port : MemoryPort} {r : RegionName} {g : Geometry} {outline : List KeySet}

/-- The probe at its j-th visit, about to read the slot. -/
def visitProbe (g : Geometry) (outline : List KeySet) (j : Nat) : Probe := ⟨visitedSlot g outline j, j, .slot⟩

theorem firstProbe_eq (g : Geometry) (outline : List KeySet) :
    firstProbe g (outlineHash outline) = visitProbe g outline 0 := rfl

/-- From the j-th visit the probe goes on to the next one, up to the limit (R44). -/
theorem probeOn_visit (g : Geometry) (outline : List KeySet) (j : Nat) (read : ProbeRead) :
    probeOn g ⟨visitedSlot g outline j, j, read⟩ =
      if j + 1 < g.probe then .more (visitProbe g outline (j + 1)) else .miss := by
  have hnext : (visitedSlot g outline j + 1) % g.slots = visitedSlot g outline (j + 1) := by
    unfold visitedSlot; rw [Nat.mod_add_mod, Nat.add_assoc]
  unfold probeOn nextSlot visitProbe; rw [hnext]

theorem probeRam_more {p q : Probe} (h : probeStep port r g outline p = .more q) (n : Nat) :
    probeRam port r g outline (n + 1) p = probeRam port r g outline n q := by
  rw [probeRam, h]

theorem probeRam_ended {p : Probe} {text : Option (EntryKind × List Byte)} {cont bad : Bool}
    (h : probeStep port r g outline p = .ended text cont bad) (n : Nat) :
    probeRam port r g outline (n + 1) p = .ended text cont bad := by
  rw [probeRam, h]

section
variable (hslots : ∀ i < g.slots, port.readAt r (g.slotBase + 4 * i) 4 ≠ none) (hpos : 0 < g.slots)
include hslots hpos

/-- Every slot on the probe's way is read. -/
theorem probeStep_visit (j : Nat) :
    probeStep port r g outline (visitProbe g outline j) =
      let v := slotAt port r g (visitedSlot g outline j)
      if v = 0xFFFFFFFF then .miss
      else if v = 0xFFFFFFFE then probeOn g (visitProbe g outline j)
      else if g.heapSize ≤ v then .bad
      else requestRead port r (g.heapBase + v) 2 { visitProbe g outline j with read := .entry v } :=
  (probeStep_slot rfl).trans (onSlot_read (hslots _ (Nat.mod_lt _ hpos)))

/-- A slot with an entry that stands whole in the heap has the entry read. -/
theorem probeStep_visit_entry {j : Nat} {k : EntryKind} {other : List KeySet} {text : List Byte}
    (hlow : slotAt port r g (visitedSlot g outline j) < 0xFFFFFFFE)
    (h : EntryAt port r g (slotAt port r g (visitedSlot g outline j)) k other text) :
    probeStep port r g outline (visitProbe g outline j) =
      .more { visitProbe g outline j with read := .entry (slotAt port r g (visitedSlot g outline j)) } := by
  obtain ⟨-, -, -, hheap, -⟩ := id h
  rw [probeStep_visit hslots hpos]; dsimp only
  rw [if_neg (by omega), if_neg (by omega), if_neg (by omega)]
  exact requestRead_granted (by rw [h.readAt_counts]; nofun)

/-- A slot that the probe goes past takes it to the next visit in at most two reads, or to the limit (R44). -/
theorem probeRam_goesPast {j : Nat} (h : GoesPast port r g outline (visitedSlot g outline j)) (n : Nat) :
    ∃ m, n ≤ m ∧ m ≤ n + 1 ∧ probeRam port r g outline (n + 2) (visitProbe g outline j) =
      if j + 1 < g.probe then probeRam port r g outline m (visitProbe g outline (j + 1)) else .miss := by
  rcases h with hdeleted | ⟨k, other, text, hother, hentry, hlow⟩
  · have hstep := probeStep_visit (outline := outline) hslots hpos j
    dsimp only at hstep
    rw [hdeleted, if_neg (by omega), if_pos rfl] at hstep
    have hon := hstep.trans (probeOn_visit g outline j .slot)
    refine ⟨n + 1, by omega, le_rfl, ?_⟩
    split at hon
    · next hlimit => rw [if_pos hlimit, probeRam_more hon]
    · next hlimit => rw [if_neg hlimit]; exact probeRam_ended hon _
  · rw [probeRam_more (probeStep_visit_entry hslots hpos hlow hentry)]
    have hon := (probeStep_entry (p := { visitProbe g outline j with read := .entry _ }) rfl).trans
      ((onEntry_entryAt (wanted := outline) hentry).trans
        ((if_neg hother).trans (probeOn_visit g outline j (.entry _))))
    refine ⟨n, le_rfl, by omega, ?_⟩
    split at hon
    · next hlimit => rw [if_pos hlimit, probeRam_more hon]
    · next hlimit => rw [if_neg hlimit]; exact probeRam_ended hon _

/-- A probe reaches its d-th visit with what it needs there when it goes past the slots before it (R44). -/
theorem probeRam_reaches {d : Nat} {e : ProbeStep} (hpast : ∀ j < d, GoesPast port r g outline (visitedSlot g outline j))
    (hd : d < g.probe) (hlast : ∀ n, 3 ≤ n → probeRam port r g outline n (visitProbe g outline d) = e) :
    ∀ i ≤ d, ∀ n, 2 * i + 3 ≤ n → probeRam port r g outline n (visitProbe g outline (d - i)) = e := by
  intro i
  induction i with
  | zero => exact fun _ n hn => hlast n hn
  | succ i ih =>
    intro hi n hn
    obtain ⟨fuel, rfl⟩ : ∃ fuel, n = fuel + 2 := ⟨n - 2, by omega⟩
    obtain ⟨m, hm, -, hrun⟩ := probeRam_goesPast hslots hpos (hpast (d - (i + 1)) (by omega)) fuel
    have hnext : d - (i + 1) + 1 = d - i := by omega
    rw [hrun, hnext, if_pos (by omega)]
    exact ih (by omega) m (by omega)

/-- What the d-th visit gives is what the whole probe gives. -/
theorem probeRam_first {d : Nat} {e : ProbeStep} (hpast : ∀ j < d, GoesPast port r g outline (visitedSlot g outline j))
    (hd : d < g.probe) (hlast : ∀ n, 3 ≤ n → probeRam port r g outline n (visitProbe g outline d) = e) :
    probeRam port r g outline (probeFuel g) (firstProbe g (outlineHash outline)) = e := by
  have hall := probeRam_reaches hslots hpos hpast hd hlast d le_rfl (probeFuel g) (by unfold probeFuel; omega)
  rwa [Nat.sub_self] at hall

/-- A visit at the entry of the outline ends the probe with a hit, whose text is read but for CONT (R45). -/
theorem probeRam_hit {d : Nat} {k : EntryKind} {text : List Byte}
    (hlow : slotAt port r g (visitedSlot g outline d) < 0xFFFFFFFE)
    (h : EntryAt port r g (slotAt port r g (visitedSlot g outline d)) k outline text) {n : Nat} (hn : 3 ≤ n) :
    probeRam port r g outline n (visitProbe g outline d) =
      if k = .cont then .ended none true false else .ended (some (k, text)) (k == .wordCont) false := by
  obtain ⟨m, rfl⟩ : ∃ m, n = m + 3 := ⟨n - 3, by omega⟩
  rw [probeRam_more (probeStep_visit_entry hslots hpos hlow h)]
  have hentry := (probeStep_entry
    (p := { visitProbe g outline d with read := .entry (slotAt port r g (visitedSlot g outline d)) }) rfl).trans
    ((onEntry_entryAt (wanted := outline) h).trans (if_pos rfl))
  by_cases hcont : k = .cont
  · rw [if_pos hcont] at hentry ⊢; exact probeRam_ended hentry _
  · rw [if_neg hcont] at hentry ⊢
    rw [probeRam_more hentry]
    exact probeRam_ended ((probeStep_text rfl).trans (onText_entryAt h)) m

end
end

/-- Settles O26: the slots before the d-th visit only take the probe on, and the visit itself decides. -/
theorem probeFindsStoredEntry : Obligations.ProbeFindsStoredEntry := by
  intro port r g outline d hpos hslots hpast run v
  refine ⟨fun k text hd hlow hentry hkind => ?_, fun text hd hlow hentry => ?_, fun hd hempty => ?_,
    fun hprobe hd => ?_⟩
  · refine probeRam_first hslots hpos hpast hd fun n hn => ?_
    rw [probeRam_hit hslots hpos hlow hentry hn, if_neg hkind]
  · refine probeRam_first hslots hpos hpast hd fun n hn => ?_
    rw [probeRam_hit hslots hpos hlow hentry hn, if_pos rfl]
  · refine probeRam_first hslots hpos hpast hd fun n hn => ?_
    obtain ⟨m, rfl⟩ : ∃ m, n = m + 1 := ⟨n - 1, by omega⟩
    exact probeRam_ended ((probeStep_visit hslots hpos d).trans (if_pos hempty)) m
  · refine probeRam_first (d := d - 1) hslots hpos (fun j hj => hpast j (by omega)) (by omega) fun n hn => ?_
    obtain ⟨m, rfl⟩ : ∃ m, n = m + 2 := ⟨n - 2, by omega⟩
    obtain ⟨_, -, -, hrun⟩ := probeRam_goesPast hslots hpos (hpast (d - 1) (by omega)) m
    rw [hrun, if_neg (by omega)]; rfl

end Sys2Proof.Machine
end


section
/-! PROOFS. A PASS to another station and a FLOOR_FREE, by the state of the floor (R153, R154, R157, R164). -/

namespace Sys2Proof.Machine

section
variable {s : State} {a : Station}

/-! ### A PASS to another station (R164) -/

/-- A requester asks the station that the floor has passed to, unless that is its partner already. -/
def requestMoved (a : Station) (s : State) : State :=
  if s.floor.partner = some a then setHolder a s
  else setFloor { heldBy s a s.floor with partner := some a } (sendTo a .reliefReq (setHolder a s))

/-- A PASS to another station, before the release check. -/
def passSeen (a : Station) (s : State) : State :=
  if s.seq.phase = .run then
    match s.floor.state with
    | .off => holderShown a s
    | .claiming => setHolder a (pendingLost s)
    | .requesting => requestMoved a s
    | .on | .yielding | .draining => s
  else setHolder a s

theorem passSeen_idle (h : s.seq.phase ≠ .run) : passSeen a s = setHolder a s := if_neg h

theorem passSeen_off (hrun : s.seq.phase = .run) (h : s.floor.state = .off) : passSeen a s = holderShown a s := by
  unfold passSeen; rw [if_pos hrun, h]

theorem passSeen_claiming (hrun : s.seq.phase = .run) (h : s.floor.state = .claiming) :
    passSeen a s = setHolder a (pendingLost s) := by
  unfold passSeen; rw [if_pos hrun, h]

theorem passSeen_requesting (hrun : s.seq.phase = .run) (h : s.floor.state = .requesting) :
    passSeen a s = requestMoved a s := by
  unfold passSeen; rw [if_pos hrun, h]

theorem passSeen_holding (hrun : s.seq.phase = .run) (h : Holding s) : passSeen a s = s := by
  unfold passSeen; rw [if_pos hrun]
  rcases h with h | h | h <;> rw [h]

theorem requestMoved_act (a : Station) (s : State) : FloorAct s (requestMoved a s) := by
  unfold requestMoved; split
  · exact setHolder_act a s
  · exact (setHolder_act a s).trans ((sendTo_act _ _ _).trans (setFloor_act _ _))

theorem requestMoved_queue (hpartner : s.floor.partner ≠ some a) (hroom : RoomToSend s) :
    (requestMoved a s).bus.queue = s.bus.queue ++ [waitingFrame .reliefReq (some a)] := by
  unfold requestMoved; rw [if_neg hpartner]
  rw [sendTo_room (s := setHolder a s) (m := .reliefReq) (show FrameKind.cls .reliefReq < 2 by decide) hroom]; rfl

/-- A claim given up to the station that the floor has passed to. -/
abbrev ClaimPassedOver (s : State) : Prop := s.seq.phase = .run ∧ s.floor.state = .claiming

/-- Where no claim is lost, a PASS to another station is an act of the floor controller. -/
theorem passSeen_act (h : ¬ ClaimPassedOver s) : FloorAct s (passSeen a s) := by
  by_cases hrun : s.seq.phase = .run
  · cases hstate : s.floor.state with
    | off => rw [passSeen_off hrun hstate]; exact holderShown_act a s
    | claiming => exact absurd ⟨hrun, hstate⟩ h
    | requesting => rw [passSeen_requesting hrun hstate]; exact requestMoved_act a s
    | on | yielding | draining => rw [passSeen_holding hrun (by simp [Holding, hstate])]; exact .refl s
  · rw [passSeen_idle hrun]; exact setHolder_act a s

theorem passSeen_lost (h : ClaimPassedOver s) :
    FloorAct (restream .pending (fun _ => .shadow) s) (passSeen a s) := by
  rw [passSeen_claiming h.1 h.2]; exact claimLost_act a s

theorem passSeen_outside (a : Station) (s : State) :
    (passSeen a s).release = s.release ∧ OutsideFloor s (passSeen a s) := by
  by_cases h : ClaimPassedOver s
  · exact ⟨(passSeen_lost h).release, (passSeen_lost h).restreamed_outside⟩
  · exact ⟨(passSeen_act h).release, (passSeen_act h).outsideFloor⟩

theorem passOther_lost (h : ClaimPassedOver s) : passOther a s = settle (passSeen a s) := by
  obtain ⟨hrun, hclaiming⟩ := h
  rw [passSeen_claiming hrun hclaiming]
  unfold passOther; rw [if_pos (inRun_of_run hrun), hclaiming]

theorem passOther_kept (h : ¬ ClaimPassedOver s) : passOther a s = passSeen a s := by
  by_cases hrun : s.seq.phase = .run
  · cases hstate : s.floor.state with
    | claiming => exact absurd ⟨hrun, hstate⟩ h
    | off =>
      rw [passSeen_off hrun hstate]
      unfold passOther; rw [if_pos (inRun_of_run hrun), hstate]
    | requesting =>
      rw [passSeen_requesting hrun hstate]
      unfold passOther requestMoved
      rw [if_pos (inRun_of_run hrun), hstate]; dsimp only
      rw [sendTo_floor]; rfl
    | on | yielding | draining =>
      rw [passSeen_holding hrun (by simp [Holding, hstate])]
      unfold passOther; rw [if_pos (inRun_of_run hrun), hstate]
  · rw [passSeen_idle hrun]
    unfold passOther; rw [if_neg (by simpa [inRun] using hrun)]

theorem passOther_releases (a : Station) (s : State) :
    ReleasesWhere (ClaimPassedOver s) s (passSeen a s) (passOther a s) := by
  refine ⟨fun h => ?_, fun h => ?_⟩
  · rw [passOther_lost h]; exact (passSeen_lost h).restreamed_then
  · exact passOther_kept h

theorem claimLost_noted : Noted s (setHolder a (pendingLost s)) (.floor false (knownField s)) :=
  enterOff_noted (s' := restream .pending (fun _ => .shadow) s) rfl

/-- A PASS to another station is seen with the known it has raised (R118). -/
theorem exec_passOtherReceived {f : LineFrame} {target : Station} {known cut : Word}
    (h : Accepts s f a (.pass target known cut)) (hother : target ≠ s.seq.addr) :
    exec (.passOtherReceived f) s = .next (passOther target (raiseKnown known (frameEnded f s))) :=
  (congrArg Host.Outcome.next (receive_accepted takePassOther h)).trans (congrArg Host.Outcome.next (if_neg hother))

/-! ### A FLOOR_FREE (R153, R164) -/

theorem floorFreed_idle (h : s.seq.phase ≠ .run) : floorFreed a s = setFloor (holderDropped a s.floor) s := by
  unfold floorFreed
  rw [if_neg (by simpa [inRun] using h), dropHolder_eq]

theorem floorFreed_off (hrun : s.seq.phase = .run) (h : s.floor.state = .off) :
    floorFreed a s = if s.floor.holder = some a then vacancyFound (clearHolder s) else s := by
  unfold floorFreed; rw [if_pos (inRun_of_run hrun), h]

theorem floorFreed_claiming (hrun : s.seq.phase = .run) (h : s.floor.state = .claiming) :
    floorFreed a s = setFloor (holderDropped a s.floor) s := by
  unfold floorFreed; rw [if_pos (inRun_of_run hrun), h, ← dropHolder_eq]

theorem floorFreed_requesting (hrun : s.seq.phase = .run) (h : s.floor.state = .requesting) :
    floorFreed a s =
      if s.floor.partner = some a then claimFromRequest s else setFloor (holderDropped a s.floor) s := by
  unfold floorFreed; rw [if_pos (inRun_of_run hrun), h, ← dropHolder_eq]

theorem floorFreed_holding (hrun : s.seq.phase = .run) (h : Holding s) : floorFreed a s = s := by
  unfold floorFreed; rw [if_pos (inRun_of_run hrun)]
  rcases h with h | h | h <;> rw [h]

/-- The vacancy that the holder's leaving makes starts the claim wait at most (R154). -/
theorem vacated_eq (hrun : s.seq.phase = .run) (h : s.floor.state = .off) :
    vacancyFound (clearHolder s) = setFloor (waitStarted s { s.floor with holder := none }) s := by
  rw [vacancyFound_eq, (vacancyFound_floor (s := clearHolder s) (inRun_of_run hrun)).1, if_pos ⟨h, rfl⟩]; rfl

theorem exec_floorFreeReceived {f : LineFrame} {known : Word} (h : Accepts s f a (.floorFree known)) :
    exec (.floorFreeReceived f) s = .next (floorFreed a (raiseKnown known (frameEnded f s))) :=
  congrArg Host.Outcome.next (receive_accepted takeFloorFree h)

end

/-- Settles O43: both frames by the state of the floor, with the known raised before. -/
theorem passAndFreeMoveTheHolder : Obligations.PassAndFreeMoveTheHolder := by
  refine ⟨fun s f a target known cut haccepts hother => ?_, ?_⟩
  · let r := raiseKnown known (frameEnded f s)
    obtain ⟨hrelease, houtside⟩ := passSeen_outside target r
    refine ⟨_, passSeen target r, exec_passOtherReceived haccepts hother, passOther_releases target r,
      by rw [hrelease]; rfl, houtside, fun hidle => ?_,
      fun hrun => ⟨fun hoff => ?_, fun hclaiming => ?_, fun hasking hpartner => ?_, fun hasking hpartner => ?_,
        fun hholding => ?_⟩, fun hkept => ?_⟩
    · rw [passSeen_idle (s := r) hidle]; rfl
    · rw [passSeen_off (s := r) hrun hoff]; exact holderShown_floor (s := r) hrun hoff
    · rw [passSeen_claiming (s := r) hrun hclaiming]
      exact ⟨claimLost_floor (s := r), (claimLost_act target r).restreamed_history, claimLost_noted (s := r)⟩
    · rw [passSeen_requesting (s := r) hrun hasking]
      unfold requestMoved; rw [if_pos (by exact hpartner)]; exact ⟨rfl, rfl⟩
    · rw [passSeen_requesting (s := r) hrun hasking]
      refine ⟨?_, fun hroom => requestMoved_queue (s := r) hpartner ⟨hrun, hroom⟩⟩
      unfold requestMoved; rw [if_neg (by exact hpartner)]; rfl
    · rw [passSeen_holding (s := r) hrun hholding]; rfl
    · have hact : FloorAct r (passSeen target r) :=
        passSeen_act fun ⟨hrun, hclaiming⟩ => hkept.elim (fun h => h hclaiming) (fun h => h hrun)
      exact hact.translator
  · intro s f a known haccepts cleared
    let r := raiseKnown known (frameEnded f s)
    have hact := floorFreed_act a r
    refine ⟨_, exec_floorFreeReceived haccepts, by rw [hact.release]; rfl, hact.outsideFloor, hact.translator,
      fun hidle => ?_, fun hrun => ⟨fun hoff hholder => ?_, fun hoff hholder => ?_, fun hclaiming => ?_,
        fun hasking hpartner => ?_, fun hasking hpartner => ?_, fun hholding => ?_⟩⟩
    · rw [floorFreed_idle (s := r) hidle]; exact ⟨rfl, rfl⟩
    · rw [floorFreed_off (s := r) hrun hoff, if_pos (by exact hholder), vacated_eq (s := r) hrun hoff]
      exact ⟨rfl, rfl⟩
    · rw [floorFreed_off (s := r) hrun hoff, if_neg (by exact hholder)]; exact ⟨rfl, rfl⟩
    · rw [floorFreed_claiming (s := r) hrun hclaiming]; exact ⟨rfl, rfl⟩
    · rw [floorFreed_requesting (s := r) hrun hasking, if_neg (by exact hpartner)]; exact ⟨rfl, rfl⟩
    · rw [floorFreed_requesting (s := r) hrun hasking, if_pos (by exact hpartner)]
      exact ⟨claimFromRequest_floor r, fun hroom => claimFromRequest_queue (s := r) ⟨hrun, hroom⟩⟩
    · rw [floorFreed_holding (s := r) hrun hholding]; exact ⟨rfl, rfl⟩

end Sys2Proof.Machine
end


section
/-! PROOFS. A frame sent and heard: the payload of each message reads back as that message (R127 to R129, R135,
R182). -/

namespace Sys2Proof.Machine

/-! ### Fields of a payload, one behind another (R182) -/

section
variable {b : Byte} {rest : List Byte} {n k v off : Nat}

theorem fieldAt_first (hv : v < 256 ^ n) : fieldAt (beBytes n v ++ rest) 0 n = v := fieldAt_beBytes (pre := []) rfl hv

theorem fieldAt_only (hv : v < 256 ^ n) : fieldAt (beBytes n v) 0 n = v := by
  rw [← List.append_nil (beBytes n v)]; exact fieldAt_first hv

theorem fieldAt_behind (h : k ≤ off) : fieldAt (beBytes k v ++ rest) off n = fieldAt rest (off - k) n := by
  unfold fieldAt; rw [List.drop_append, List.drop_of_length_le (by simpa using h), beBytes_length, List.nil_append]

theorem fieldAt_cons_first : fieldAt (b :: rest) 0 1 = b.toNat := by simp [fieldAt, beNat]

theorem fieldAt_cons_behind (h : 1 ≤ off) : fieldAt (b :: rest) off n = fieldAt rest (off - 1) n := by
  obtain ⟨m, rfl⟩ : ∃ m, off = m + 1 := ⟨off - 1, by omega⟩
  rfl

theorem drop_behind (h : k ≤ off) : (beBytes k v ++ rest).drop off = rest.drop (off - k) := by
  rw [List.drop_append, List.drop_of_length_le (by simpa using h), beBytes_length, List.nil_append]

theorem word_lt (w : Word) : w.toNat < 256 ^ 4 := w.isLt

theorem word_back (w : Word) : BitVec.ofNat 32 w.toNat = w := BitVec.ofNat_toNat .. |>.trans (BitVec.setWidth_eq w)

end

/-! ### Codes -/

theorem FloorState.ofCode_code (x : FloorState) : FloorState.ofCode x.code = some x := by cases x <;> rfl

theorem FloorState.code_lt (x : FloorState) : x.code < 256 ^ 1 := by cases x <;> decide

theorem FrameKind.ofCodes_code (k : FrameKind) : FrameKind.ofCodes k.cls k.code = some k := by cases k <;> rfl

/-- The flags of a text are read back one by one. -/
theorem textFlags_back : ∀ a b c d e f g : Bool,
    let flags := bit a 0 + bit b 1 + bit c 2 + bit d 3 + bit e 4 + bit f 5 + bit g 6
    flags < 256 ^ 2 ∧ flags.testBit 0 = a ∧ flags.testBit 1 = b ∧ flags.testBit 2 = c ∧ flags.testBit 3 = d ∧
      flags.testBit 4 = e ∧ flags.testBit 5 = f ∧ flags.testBit 6 = g := by decide

/-! ### The payload of each message reads back (R135, R182, R183) -/

theorem TextBody.parse_payload {b : TextBody} (h : b.WellFormed) : TextBody.parse b.payload = some b := by
  obtain ⟨hlen, hgap, hspeaker⟩ := h
  obtain ⟨hflags, h0, h1, h2, h3, h4, h5, h6⟩ :=
    textFlags_back b.spaceBefore b.paragraph b.marked b.offRecord b.truncated b.gap.isSome b.resumed
  have hgapLt : b.gap.getD 0 < 256 ^ 2 := by
    cases hg : b.gap with
    | none => decide
    | some g => exact hgap g hg
  have hspeakerLt : b.speaker.getD 0 < 256 ^ 1 := by
    cases hs : b.speaker with
    | none => decide
    | some n => exact (hspeaker n hs).2
  have hgapBack : (if b.gap.isSome = true then some (b.gap.getD 0) else none) = b.gap := by cases b.gap <;> rfl
  have hspeakerBack : (if b.speaker.getD 0 = 0 then none else some (b.speaker.getD 0)) = b.speaker := by
    cases hs : b.speaker with
    | none => rfl
    | some n => exact if_neg (Nat.ne_of_gt (hspeaker n hs).1)
  have hfields : fieldAt b.payload 0 4 = b.seq.toNat ∧ fieldAt b.payload 4 4 = b.unit.toNat ∧
      fieldAt b.payload 8 4 = b.start.toNat ∧ fieldAt b.payload 12 2 = b.flags ∧
      fieldAt b.payload 14 2 = b.gap.getD 0 ∧ fieldAt b.payload 16 1 = b.speaker.getD 0 ∧
      fieldAt b.payload 17 1 = b.text.length ∧ b.payload.drop 18 = b.text := by
    unfold TextBody.payload
    simp only [List.append_assoc]
    refine ⟨fieldAt_first (word_lt _), ?_, ?_, ?_, ?_, ?_, ?_, ?_⟩
    all_goals simp only [fieldAt_behind, drop_behind, Nat.reduceLeDiff, Nat.reduceSub, Nat.le_refl, Nat.sub_self,
      List.drop_zero]
    · exact fieldAt_first (word_lt _)
    · exact fieldAt_first (word_lt _)
    · exact fieldAt_first hflags
    · exact fieldAt_first hgapLt
    · exact fieldAt_first hspeakerLt
    · exact fieldAt_first (by omega)
  obtain ⟨f0, f4, f8, f12, f14, f16, f17, ftext⟩ := hfields
  have hsize : b.payload.length = 18 + b.text.length := by simp [TextBody.payload]; omega
  unfold TextBody.parse
  rw [f17, if_pos ⟨by omega, hsize⟩]
  simp only [f0, f4, f8, f12, f14, f16, ftext, word_back]
  unfold TextBody.flags
  simp only [h0, h1, h2, h3, h4, h5, h6, hgapBack, hspeakerBack]

theorem PresenceBody.parse_payload (b : PresenceBody) : PresenceBody.parse b.payload = some b := by
  have hkind : (if b.writer then 1 else 2) < 256 ^ 1 := by split <;> decide
  have hfields : fieldAt b.payload 0 4 = b.time.toNat ∧ fieldAt b.payload 4 1 = (if b.writer then 1 else 2) ∧
      fieldAt b.payload 5 1 = b.floor.code ∧ fieldAt b.payload 6 1 = (onCode b.recordOn).toNat ∧
      fieldAt b.payload 7 2 = b.restart.toNat ∧ fieldAt b.payload 9 4 = b.known.toNat ∧
      fieldAt b.payload 13 4 = b.flags.toNat := by
    unfold PresenceBody.payload
    simp only [List.append_assoc, List.cons_append, List.nil_append]
    refine ⟨fieldAt_first (word_lt _), ?_, ?_, ?_, ?_, ?_, ?_⟩
    all_goals simp only [fieldAt_behind, fieldAt_cons_behind, fieldAt_cons_first, Nat.reduceLeDiff, Nat.reduceSub,
      Nat.le_refl, Nat.sub_self]
    · exact fieldAt_first hkind
    · exact fieldAt_first b.floor.code_lt
    · exact fieldAt_first b.restart.isLt
    · exact fieldAt_first (word_lt _)
    · exact fieldAt_only (word_lt _)
  obtain ⟨f0, f4, f5, f6, f7, f9, f13⟩ := hfields
  have hsize : b.payload.length = 17 := by simp [PresenceBody.payload]
  have hon : (onCode b.recordOn).toNat ≤ 1 ∧ ((onCode b.recordOn).toNat == 1) = b.recordOn := by
    cases b.recordOn <;> decide
  have hwriter : (((if b.writer then 1 else 2) : Nat) = 1 ∨ ((if b.writer then 1 else 2) : Nat) = 2) ∧
      (((if b.writer then 1 else 2) : Nat) == 1) = b.writer := by cases b.writer <;> decide
  have hrestart : BitVec.ofNat 16 b.restart.toNat = b.restart := BitVec.eq_of_toNat_eq (by simp)
  unfold PresenceBody.parse
  rw [f4, f5, f6, if_pos ⟨hsize, hwriter.1, hon.1⟩, FloorState.ofCode_code, f0, f7, f9, f13]
  simp only [Option.map_some, word_back, hwriter.2, hon.2, hrestart]

/-- The stream of a retraction or a replacement reads back. -/
theorem streamCode_back (official : Bool) :
    ((streamCode official).toNat = 1 ∨ (streamCode official).toNat = 2) ∧
      ((streamCode official).toNat == 1) = official := by cases official <;> decide

/-- A payload reads back as the message it was made for. -/
theorem Msg.parse_payload {m : Msg} (h : m.WellFormed) : Msg.parse m.kind m.payload = some m := by
  cases m with
  | claim known held =>
    have hheld : ∀ held : Bool, (if held then (1 : Byte) else 0).toNat.testBit 0 = held := by decide
    simp only [Msg.kind, Msg.parse, Msg.payload, List.length_append, beBytes_length, fieldAt_behind,
      fieldAt_first (word_lt _), fieldAt_cons_first, Nat.le_refl, Nat.sub_self, hheld, word_back]
    rfl
  | reliefReq => rfl
  | reliefBusy notHolder => cases notHolder <;> rfl
  | pass target known cut =>
    have htarget : (BitVec.setWidth 8 target).toNat = target.toNat := by
      rw [BitVec.toNat_setWidth]; have := target.isLt; omega
    have hback : BitVec.ofNat 4 target.toNat = target := BitVec.eq_of_toNat_eq (by simp)
    have hle : target.toNat ≤ 15 := by have := target.isLt; omega
    simp [Msg.kind, Msg.parse, Msg.payload, fieldAt_cons_behind, fieldAt_cons_first, fieldAt_behind,
      fieldAt_first (word_lt _), fieldAt_only (word_lt _), htarget, hback, hle]
  | floorFree known => simp [Msg.kind, Msg.parse, Msg.payload, fieldAt_only (word_lt _)]
  | record on => cases on <;> rfl
  | clear flags => simp [Msg.kind, Msg.parse, Msg.payload, fieldAt_only (word_lt _)]
  | retract official seq =>
    obtain ⟨hcode, hback⟩ := streamCode_back official
    simp [Msg.kind, Msg.parse, Msg.payload, fieldAt_cons_behind, fieldAt_cons_first, fieldAt_only (word_lt _), hcode,
      hback]
  | replace official seq chars =>
    obtain ⟨hcode, hback⟩ := streamCode_back official
    have hlen : chars.length < 256 ^ 1 := Nat.lt_of_le_of_lt h (by decide)
    simp [Msg.kind, Msg.parse, Msg.payload, fieldAt_cons_behind, fieldAt_cons_first, fieldAt_behind, drop_behind,
      fieldAt_first (word_lt _), fieldAt_first hlen, hcode, hback]
    omega
  | text b => exact congrArg (Option.map Msg.text) (TextBody.parse_payload h)
  | shadow b => exact congrArg (Option.map Msg.shadow) (TextBody.parse_payload h)
  | define payload => rfl
  | presence b => exact congrArg (Option.map Msg.presence) (PresenceBody.parse_payload b)

theorem Msg.payload_length_le {m : Msg} (h : m.WellFormed) : m.payload.length ≤ 160 := by
  cases m with
  | replace official seq chars =>
    have hchars : chars.length ≤ 120 := h
    simp [Msg.payload]; omega
  | text b =>
    have htext : b.text.length ≤ 120 := h.1
    simp [Msg.payload, TextBody.payload]; omega
  | shadow b =>
    have htext : b.text.length ≤ 120 := h.1
    simp [Msg.payload, TextBody.payload]; omega
  | define payload => exact h
  | _ => simp [Msg.payload, PresenceBody.payload]

/-! ### The frame around it (R127 to R129) -/

/-- The identifier holds class, kind and source. -/
theorem FrameKind.ident_fields (k : FrameKind) (src : Station) :
    (k.ident src).toNat / 256 = k.cls ∧ (k.ident src).toNat / 16 % 16 = k.code ∧
      BitVec.ofNat 4 (k.ident src).toNat = src := by
  have hcls : k.cls < 7 := by cases k <;> decide
  have hcode : k.code < 5 := by cases k <;> decide
  have hsrc := src.isLt
  have hident : (k.ident src).toNat = k.cls * 256 + k.code * 16 + src.toNat := by
    unfold FrameKind.ident; rw [BitVec.toNat_ofNat]; omega
  refine ⟨by omega, by omega, BitVec.eq_of_toNat_eq ?_⟩
  rw [BitVec.toNat_ofNat, hident]; omega

/-- A frame with the CRC of its own bits is intact where its length and its end bits are right. -/
theorem intact_withCrc {f : LineFrame} (hlen : f.length.toNat ≤ 160) (hpayload : f.payload.length = f.length.toNat)
    (hend : f.endBits = BitVec.allOnes 7) : { f with crc := crc16 f.covered }.intact = true := by
  unfold LineFrame.intact
  simp only [LineFrame.covered, Bool.and_eq_true, decide_eq_true_eq, beq_iff_eq]
  exact ⟨⟨⟨hlen, hpayload⟩, trivial⟩, hend⟩

theorem Msg.frame_intact {m : Msg} (h : m.WellFormed) (src : Station) (dest : Option Station) :
    (m.frame src dest).intact = true := by
  have hle := Msg.payload_length_le h
  have hlength : (BitVec.ofNat 8 m.payload.length).toNat = m.payload.length := by
    rw [BitVec.toNat_ofNat]; omega
  unfold Msg.frame
  exact intact_withCrc (hlength.trans_le hle) hlength.symm rfl

theorem Msg.frame_kind (m : Msg) (src : Station) (dest : Option Station) : (m.frame src dest).kind = some m.kind := by
  obtain ⟨hcls, hcode, -⟩ := m.kind.ident_fields src
  show FrameKind.ofCodes ((m.kind.ident src).toNat / 256) ((m.kind.ident src).toNat / 16 % 16) = _
  rw [hcls, hcode, FrameKind.ofCodes_code]

theorem Msg.frame_source (m : Msg) (src : Station) (dest : Option Station) : (m.frame src dest).source = src :=
  (m.kind.ident_fields src).2.2

/-- A broadcast frame reaches every station, an addressed one the station it names (R135 step 3). -/
theorem Msg.frame_reaches (m : Msg) (src : Station) {dest : Option Station} {me : Station}
    (h : dest = none ∨ dest = some me) : (m.frame src dest).reaches me = true := by
  show ((destField dest).msb || (destField dest).toNat == me.toNat) = true
  rcases h with rfl | rfl
  · rfl
  · have hme : (destField (some me)).toNat = me.toNat := by
      show (BitVec.setWidth 5 me).toNat = _
      rw [BitVec.toNat_setWidth]; have := me.isLt; omega
    rw [hme, beq_self_eq_true, Bool.or_true]

/-- Settles O60: the checks of R135 one after another, then the payload read back. -/
theorem sentFrameIsAccepted : Obligations.SentFrameIsAccepted := by
  intro m src me dest hwf hne hdest
  have hparse : ((m.frame src dest).kind.bind fun k => Msg.parse k (m.frame src dest).payload) = some m := by
    rw [Msg.frame_kind]; exact Msg.parse_payload hwf
  unfold LineFrame.judge
  rw [Msg.frame_intact hwf, Msg.frame_source, Msg.frame_reaches m src hdest, hparse, if_neg hne]
  rfl

end Sys2Proof.Machine
end


section
/-! PROOFS. Text assembly of literal characters and format codes, with or without a SPEAKER code in the leading place
(R73, R74, R76 to R81, R83). -/

namespace Sys2Proof.Machine

/-! ### Codes and places (R72, R73) -/

theorem tokenOf_eq_para : ∀ b : Byte, tokenOf b = .code .para ↔ b = 0x04 := by decide

theorem isFormatByte_isCodeByte {b : Byte} (h : isFormatByte b = true) : isCodeByte b = true := by
  unfold isCodeByte; rw [h, Bool.true_or]

theorem isFormatByte_not_letter : ∀ b : Byte, isFormatByte b = true → isLetter b = false := by decide

/-- The format codes stand for no character and no command (R74). -/
theorem tokenOf_isFormat : ∀ b : Byte, isFormatByte b = true →
    ∃ c ∈ [Code.attach, .cap, .lower, .para, .glue], tokenOf b = .code c := by decide

/-- Behind the last character stand the tokens behind it. -/
theorem trailing_lit (X : List Token) {t : Token} (ht : t.isLit = true) {Y : List Token}
    (hY : ∀ y ∈ Y, y.isLit = false) : trailing (X ++ t :: Y) = Y := by
  unfold trailing
  rw [if_pos (by simp [ht]), List.reverse_append, List.reverse_cons, List.append_assoc,
    List.takeWhile_append_of_pos (by simpa using hY), List.singleton_append,
    List.takeWhile_cons_of_neg (by simp [ht]), List.append_nil, List.reverse_reverse]

theorem trailing_noLit {ts : List Token} (h : ∀ t ∈ ts, t.isLit = false) : trailing ts = [] := by
  unfold trailing
  refine if_neg ?_
  rw [List.any_eq_true]
  rintro ⟨t, ht, hlit⟩
  rw [h t ht] at hlit; cases hlit

/-- Behind as many characters as there are stand the tokens behind the last one. -/
theorem afterLiteral_lit (X : List Token) {t : Token} (ht : t.isLit = true) {Y : List Token}
    (hY : ∀ y ∈ Y, y.isLit = false) : afterLiteral ((X ++ t :: Y).countP Token.isLit) (X ++ t :: Y) = Y := by
  have hnone : Y.countP Token.isLit = 0 := List.countP_eq_zero.2 fun y hy => by simp [hY y hy]
  induction X with
  | nil =>
    cases t with
    | lit b => rw [List.nil_append, List.countP_cons_of_pos ht, hnone]; simp [afterLiteral]
    | code c => cases ht
    | speaker n => cases ht
  | cons x X ih =>
    obtain ⟨k, hk⟩ : ∃ k, (X ++ t :: Y).countP Token.isLit = k + 1 :=
      ⟨_, (Nat.succ_pred_eq_of_pos (List.countP_pos_iff.2 ⟨t, by simp, ht⟩)).symm⟩
    cases x with
    | lit b => rw [List.cons_append, List.countP_cons_of_pos rfl]; exact ih
    | code c => rw [List.cons_append, List.countP_cons_of_neg (by nofun), hk]; rw [hk] at ih; exact ih
    | speaker n => rw [List.cons_append, List.countP_cons_of_neg (by nofun), hk]; rw [hk] at ih; exact ih

/-! ### The last case code of a text (R78) -/

theorem lastCase_append (a b : List Byte) : lastCase (a ++ b) = (lastCase b).or (lastCase a) := by
  unfold lastCase
  rw [List.filter_append, List.getLast?_append, Option.map_or]

theorem lastCase_letter {c : Byte} (hc : isLetter c = true) (post : List Byte) : lastCase (c :: post) = lastCase post := by
  have hcode : ∀ b : Byte, isLetter b = true → ¬ (b = 0x02 ∨ b = 0x03) := by decide
  unfold lastCase
  rw [List.filter_cons_of_neg (by simpa using hcode c hc)]

/-- A text has no letter, or a first one. -/
theorem noLetter_or_first (text : List Byte) :
    (∀ x ∈ text, isLetter x = false) ∨
      ∃ pre c post, text = pre ++ c :: post ∧ (∀ x ∈ pre, isLetter x = false) ∧ isLetter c = true := by
  induction text with
  | nil => exact .inl nofun
  | cons b text ih =>
    cases hb : isLetter b with
    | true => exact .inr ⟨[], b, text, rfl, nofun, hb⟩
    | false =>
      refine ih.imp (fun h => List.forall_mem_cons.2 ⟨hb, h⟩) ?_
      rintro ⟨pre, c, post, rfl, hpre, hc⟩
      exact ⟨b :: pre, c, post, rfl, List.forall_mem_cons.2 ⟨hb, hpre⟩, hc⟩

/-- The codes behind the text stand behind its first letter. -/
theorem letter_before_trail {front trail pre post : List Byte} {c : Byte} (htrail : ∀ b ∈ trail, isLetter b = false)
    (hc : isLetter c = true) (h : front ++ trail = pre ++ c :: post) : ∃ rest, post = rest ++ trail := by
  rcases List.append_eq_append_iff.1 h with ⟨x, -, htail⟩ | ⟨x, -, htail⟩
  · have : c ∈ trail := htail ▸ by simp
    rw [htrail c this] at hc; cases hc
  · cases x with
    | nil =>
      have : c ∈ trail := by rw [List.nil_append] at htail; rw [← htail]; exact List.mem_cons_self
      rw [htrail c this] at hc; cases hc
    | cons y rest =>
      rw [List.cons_append, List.cons.injEq] at htail
      exact ⟨rest, htail.2⟩

/-! ### Whether a code of the text has set the mode (R78, R80) -/

theorem step_byCode {w : CaseWalk} {b : Byte} (h : w.passed = true ∨ isLetter b = false) :
    (w.step (tokenOf b)).byCode = (w.byCode || (lastCase [b]).isSome) := by
  unfold tokenOf
  cases hlit : isLiteral b with
  | true =>
    have hnone : ∀ b : Byte, isLiteral b = true → (lastCase [b]).isSome = false := by decide
    have hact : ¬ (isLetter b && !w.passed) = true := by rcases h with h | h <;> simp [h]
    rw [if_pos rfl, hnone b hlit, Bool.or_false]
    unfold CaseWalk.step; dsimp only; rw [if_neg hact]
  | false =>
    have hcode : ∀ b : Byte, isLiteral b = false → (lastCase [b]).isSome =
        decide ((Code.ofByte b.toNat).getD .ack = .cap ∨ (Code.ofByte b.toNat).getD .ack = .lower) := by decide
    rw [if_neg (by simp), hcode b hlit]
    generalize (Code.ofByte b.toNat).getD .ack = c
    cases c <;> simp [CaseWalk.step]

theorem caseWalk_byCode_kept {text : List Byte} :
    ∀ {w : CaseWalk}, (w.passed = true ∨ ∀ x ∈ text, isLetter x = false) →
      ((text.map tokenOf).foldl CaseWalk.step w).byCode = (w.byCode || (lastCase text).isSome) := by
  induction text with
  | nil => intro w _; exact (Bool.or_false _).symm
  | cons b text ih =>
    intro w h
    have hb := h.imp id fun h => h b List.mem_cons_self
    rw [List.map_cons, List.foldl_cons,
      ih (h.imp (fun h => (step_tokenOf hb).2.1.trans h) fun h x hx => h x (List.mem_cons_of_mem _ hx)),
      step_byCode hb, Bool.or_assoc]
    have hsplit : lastCase (b :: text) = (lastCase text).or (lastCase [b]) := lastCase_append [b] text
    rw [hsplit, Option.isSome_or, Bool.or_comm (lastCase text).isSome]

theorem caseWalk_byCode_noLetter {m : CapMode} {text : List Byte} (h : ∀ x ∈ text, isLetter x = false) :
    (caseWalk m (text.map tokenOf)).byCode = (lastCase text).isSome := caseWalk_byCode_kept (.inr h)

/-- Behind the first letter only the codes behind it count. -/
theorem caseWalk_byCode_letter {m : CapMode} {pre post : List Byte} {c : Byte} (hpre : ∀ x ∈ pre, isLetter x = false)
    (hc : isLetter c = true) :
    (caseWalk m ((pre ++ c :: post).map tokenOf)).byCode = (lastCase post).isSome := by
  have hpassed := (caseWalk_kept (w := ⟨m, false, false, []⟩) (.inr hpre)).2.1
  unfold caseWalk
  rw [List.map_append, List.map_cons, List.foldl_append, List.foldl_cons]
  generalize (pre.map tokenOf).foldl CaseWalk.step ⟨m, false, false, []⟩ = w at hpassed ⊢
  have hstep : w.step (tokenOf c) = ⟨.none, false, true, w.chars ++ [w.mode.act c]⟩ := by
    unfold tokenOf; rw [if_pos (isLetter_isLiteral c hc)]
    unfold CaseWalk.step; dsimp only; rw [if_pos (by simp [hc, hpassed])]
  rw [hstep, caseWalk_byCode_kept (.inl rfl)]; exact Bool.false_or _

/-- The walk changes no sentence end (R78, R79). -/
theorem caseWalk_endsSentence (m : CapMode) (text : List Byte) :
    (caseWalk m (text.map tokenOf)).chars.getLast?.map endsSentence = (literalBytes text).getLast?.map endsSentence := by
  have hact : ∀ (m : CapMode) (b : Byte), isLetter b = true → endsSentence (m.act b) = endsSentence b := by
    intro m; cases m <;> decide
  rcases noLetter_or_first text with hnone | ⟨pre, c, post, rfl, hpre, hc⟩
  · rw [(caseWalk_noLetter hnone).2]
  · have hlit : literalBytes (pre ++ c :: post) = literalBytes pre ++ c :: literalBytes post := by
      unfold literalBytes
      rw [List.filter_append, List.filter_cons_of_pos (p := definable) (isLetter_isLiteral c hc)]
    rw [(caseWalk_letter hpre hc).2, hlit, List.getLast?_append, List.getLast?_append, List.getLast?_cons,
      List.getLast?_cons]
    cases (literalBytes post).getLast? with
    | none => simp [hact _ _ hc]
    | some b => simp

theorem caseWalk_chars_length (m : CapMode) (text : List Byte) :
    (caseWalk m (text.map tokenOf)).chars.length = (literalBytes text).length := by
  unfold caseWalk
  rw [caseWalk_length, List.countP_map, List.countP_congr fun b _ => by rw [Function.comp_apply, isLit_tokenOf]]
  rw [List.countP_eq_length_filter]; exact Nat.zero_add _

/-! ### The tokens of a text of characters and format codes, with SPEAKER codes in the leading place -/

/-- The parts of a text as the statement gives them: format codes around a body that begins and ends with a character.
-/
structure TextParts (lead body trail : List Byte) : Prop where
  codes : ∀ b ∈ lead ++ trail, isFormatByte b = true
  bytes : ∀ b ∈ body, definable b = true ∨ isFormatByte b = true
  bare : body = [] → trail = []
  ends : ∀ b, body.head? = some b ∨ body.getLast? = some b → definable b = true

/-- The tokens of such a text, with SPEAKER codes in the leading place. -/
def spokenTokens (sp : List Token) (lead₁ lead₂ body trail : List Byte) : List Token :=
  lead₁.map tokenOf ++ sp ++ (lead₂ ++ body ++ trail).map tokenOf

section
variable {sp : List Token} {lead₁ lead₂ body trail : List Byte} (hsp : ∀ t ∈ sp, ∃ n, t = Token.speaker n)

theorem spokenTokens_nil (lead body trail : List Byte) :
    spokenTokens [] [] lead body trail = (lead ++ body ++ trail).map tokenOf := rfl

include hsp in
theorem caseWalk_spoken (m : CapMode) :
    caseWalk m (spokenTokens sp lead₁ lead₂ body trail) =
      caseWalk m ((lead₁ ++ lead₂ ++ body ++ trail).map tokenOf) := by
  have hsilent : ∀ (l : List Token) (w : CaseWalk), (∀ t ∈ l, ∃ n, t = Token.speaker n) → l.foldl CaseWalk.step w = w := by
    intro l
    induction l with
    | nil => exact fun _ _ => rfl
    | cons t l ih =>
      intro w h
      obtain ⟨⟨n, rfl⟩, hl⟩ := List.forall_mem_cons.1 h
      exact ih w hl
  unfold caseWalk spokenTokens
  simp only [List.append_assoc, List.map_append, List.foldl_append, hsilent sp _ hsp]

include hsp in
theorem holds_spoken {c : Code} {k : Byte} (hc : ∀ b, tokenOf b = .code c ↔ b = k) :
    holds c (spokenTokens sp lead₁ lead₂ body trail) = decide (k ∈ lead₁ ++ lead₂ ++ body ++ trail) := by
  have hnone : Token.code c ∉ sp := fun h => by obtain ⟨n, hn⟩ := hsp _ h; cases hn
  rw [← holds_map_tokenOf hc]
  unfold holds spokenTokens
  rw [Bool.eq_iff_iff, List.contains_iff_mem, List.contains_iff_mem]
  simp only [List.map_append, List.mem_append, hnone, or_false, or_assoc]

theorem TextParts.notLit_lead (h : TextParts (lead₁ ++ lead₂) body trail) :
    (∀ b ∈ lead₁, isLiteral b = false) ∧ (∀ b ∈ lead₂, isLiteral b = false) ∧ ∀ b ∈ trail, isLiteral b = false := by
  have hcode : ∀ b ∈ lead₁ ++ lead₂ ++ trail, isLiteral b = false := fun b hb =>
    (isCodeByte_ofByte b (isFormatByte_isCodeByte (h.codes b hb))).1
  exact ⟨fun b hb => hcode b (by simp [hb]), fun b hb => hcode b (by simp [hb]), fun b hb => hcode b (by simp [hb])⟩

include hsp in
/-- The leading place holds the codes before the body (R73). -/
theorem TextParts.leading_spoken (h : TextParts (lead₁ ++ lead₂) body trail) :
    leading (spokenTokens sp lead₁ lead₂ body trail) = lead₁.map tokenOf ++ sp ++ lead₂.map tokenOf := by
  obtain ⟨h1, h2, -⟩ := h.notLit_lead
  have hfront : ∀ t ∈ lead₁.map tokenOf ++ sp, t.isLit = false := by
    intro t ht
    rcases List.mem_append.1 ht with ht | ht
    · obtain ⟨b, hb, rfl⟩ := List.mem_map.1 ht
      rw [isLit_tokenOf]; exact h1 b hb
    · obtain ⟨n, rfl⟩ := hsp t ht; rfl
  have hbehind := leading_map_tokenOf (behind := body ++ trail) h2 fun b hb => by
    cases hbody : body with
    | nil => rw [hbody, h.bare hbody] at hb; cases hb
    | cons x xs => rw [hbody] at hb; cases hb; exact h.ends _ (.inl (by rw [hbody]; rfl))
  unfold leading at hbehind ⊢
  unfold spokenTokens
  rw [List.takeWhile_append_of_pos (by simpa using hfront), List.append_assoc lead₂, hbehind]

include hsp in
theorem TextParts.holds_leading (h : TextParts (lead₁ ++ lead₂) body trail) {c : Code} {k : Byte}
    (hc : ∀ b, tokenOf b = .code c ↔ b = k) :
    holds c (leading (spokenTokens sp lead₁ lead₂ body trail)) = decide (k ∈ lead₁ ++ lead₂) := by
  have hsame : lead₁.map tokenOf ++ sp ++ lead₂.map tokenOf = spokenTokens sp lead₁ lead₂ [] [] := by
    simp [spokenTokens]
  rw [h.leading_spoken hsp, hsame, holds_spoken hsp hc, List.append_nil, List.append_nil]

/-- The tokens up to the last character, and behind it. -/
theorem spokenTokens_last (sp : List Token) (lead₁ lead₂ init trail : List Byte) (b : Byte) :
    spokenTokens sp lead₁ lead₂ (init ++ [b]) trail =
      (lead₁.map tokenOf ++ sp ++ (lead₂ ++ init).map tokenOf) ++ tokenOf b :: trail.map tokenOf := by
  simp [spokenTokens]

theorem TextParts.isLit_trail (h : TextParts (lead₁ ++ lead₂) body trail) : ∀ y ∈ trail.map tokenOf, y.isLit = false := by
  intro y hy
  obtain ⟨b, hb, rfl⟩ := List.mem_map.1 hy
  rw [isLit_tokenOf]; exact h.notLit_lead.2.2 b hb

/-- A body has a last character. -/
theorem TextParts.last (h : TextParts (lead₁ ++ lead₂) body trail) (hbody : body ≠ []) :
    ∃ init b, body = init ++ [b] ∧ (tokenOf b).isLit = true := by
  obtain ⟨b, hb⟩ := Option.ne_none_iff_exists'.1 (mt List.getLast?_eq_none_iff.1 hbody)
  obtain ⟨init, rfl⟩ := List.getLast?_eq_some_iff.1 hb
  exact ⟨init, b, rfl, (isLit_tokenOf b).trans (h.ends b (.inr hb))⟩

theorem TextParts.trailing_spoken (h : TextParts (lead₁ ++ lead₂) body trail) (hbody : body ≠ []) :
    trailing (spokenTokens sp lead₁ lead₂ body trail) = trail.map tokenOf := by
  obtain ⟨init, b, hinit, hb⟩ := h.last hbody
  have htrail := h.isLit_trail
  subst hinit
  rw [spokenTokens_last]; exact trailing_lit _ hb htrail

include hsp in
/-- A text of codes alone holds no character. -/
theorem TextParts.notLit_bare (h : TextParts (lead₁ ++ lead₂) [] trail) :
    ∀ t ∈ spokenTokens sp lead₁ lead₂ [] trail, t.isLit = false := by
  obtain ⟨h1, h2, -⟩ := h.notLit_lead
  intro t ht
  unfold spokenTokens at ht
  rw [h.bare rfl] at ht
  simp only [List.append_nil, List.mem_append, List.mem_map] at ht
  rcases ht with (⟨b, hb, rfl⟩ | ht) | ⟨b, hb, rfl⟩
  · rw [isLit_tokenOf]; exact h1 b hb
  · obtain ⟨n, rfl⟩ := hsp t ht; rfl
  · rw [isLit_tokenOf]; exact h2 b hb

theorem literals_eq_nil_iff {ts : List Token} : literals ts = [] ↔ ∀ t ∈ ts, t.isLit = false := by
  unfold literals
  rw [List.filterMap_eq_nil_iff]
  refine forall₂_congr fun t _ => ?_
  cases t <;> simp [Token.byte?, Token.isLit]

theorem TextParts.literals_spoken (h : TextParts (lead₁ ++ lead₂) body trail) (hbody : body ≠ []) :
    (literals (spokenTokens sp lead₁ lead₂ body trail)).isEmpty = false := by
  obtain ⟨init, b, rfl, hb⟩ := h.last hbody
  rw [List.isEmpty_eq_false_iff]
  intro hnil
  have := literals_eq_nil_iff.1 hnil (tokenOf b) (by rw [spokenTokens_last]; simp)
  rw [hb] at this; cases this

/-- Whether a case code stands behind the last character (R79). -/
theorem TextParts.codeAfter_spoken (h : TextParts (lead₁ ++ lead₂) body trail) (hbody : body ≠ []) (m : CapMode) :
    ((afterLiteral (caseWalk m (spokenTokens sp lead₁ lead₂ body trail)).chars.length
      (spokenTokens sp lead₁ lead₂ body trail)).any fun t => t == .code .cap || t == .code .lower) =
      (lastCase trail).isSome := by
  have hlen : (caseWalk m (spokenTokens sp lead₁ lead₂ body trail)).chars.length =
      (spokenTokens sp lead₁ lead₂ body trail).countP Token.isLit :=
    (caseWalk_length _ _).trans (Nat.zero_add _)
  have hcase : ∀ b : Byte, (tokenOf b == .code .cap || tokenOf b == .code .lower) = decide (b = 0x02 ∨ b = 0x03) := by
    decide
  obtain ⟨init, b, hinit, hb⟩ := h.last hbody
  have htrail := h.isLit_trail
  subst hinit
  rw [hlen, spokenTokens_last, afterLiteral_lit _ hb htrail, List.any_map]
  unfold lastCase
  rw [Option.isSome_map, Bool.eq_iff_iff, List.getLast?_isSome, ← List.length_pos_iff, ← List.countP_eq_length_filter,
    List.countP_pos_iff, List.any_eq_true]
  simp only [Function.comp_apply, hcase]

end

end Sys2Proof.Machine
end


section
/-! PROOFS. What text assembly makes of a text of literal characters and format codes: its unit, and the formatting
state it leaves (R74, R76 to R81, R83). -/

namespace Sys2Proof.Machine

/-! ### The cap mode left (R78 to R80) -/

/-- A case code behind the last letter is the mode at the end of the walk, and has set it. -/
theorem caseWalk_trailCode {m k : CapMode} {front trail : List Byte} (htrail : ∀ b ∈ trail, isLetter b = false)
    (hk : lastCase trail = some k) :
    (caseWalk m ((front ++ trail).map tokenOf)).mode = k ∧ (caseWalk m ((front ++ trail).map tokenOf)).byCode = true := by
  have hlast : ∀ x, lastCase (x ++ trail) = some k := fun x => by rw [lastCase_append, hk]; rfl
  rcases noLetter_or_first (front ++ trail) with hnone | ⟨pre, c, post, htext, hpre, hc⟩
  · rw [(caseWalk_noLetter hnone).1, caseWalk_byCode_noLetter hnone, hlast]; exact ⟨rfl, rfl⟩
  · obtain ⟨rest, rfl⟩ := letter_before_trail htrail hc htext
    rw [htext, (caseWalk_letter hpre hc).1, caseWalk_byCode_letter hpre hc, hlast]; exact ⟨rfl, rfl⟩

/-- The mode left without a sentence end: behind a SPEAKER code it is CAP_NEXT unless a code of the text stands. -/
def modeLeft (spoken : Bool) (w : CaseWalk) : CapMode :=
  if spoken then (if w.byCode then w.mode else .capNext) else w.mode

/-- The mode left, as the rules for it say (R78, R79). -/
theorem capLeft_of_walk {m after : CapMode} {front trail : List Byte} (spoken : Bool)
    (htrail : ∀ b ∈ trail, isLetter b = false)
    (hafter : after =
      if ((literalBytes (front ++ trail)).getLast?.map endsSentence).getD false then
        (if (lastCase trail).isSome then (caseWalk m ((front ++ trail).map tokenOf)).mode else .capNext)
      else modeLeft spoken (caseWalk m ((front ++ trail).map tokenOf))) :
    CapLeft (if spoken then .capNext else .none) (if spoken then .capNext else m) after (front ++ trail) trail := by
  have hgetD : ∀ (x : Option CapMode) (y z : CapMode), (if x.isSome = true then x.getD y else z) = x.getD z := by
    intro x y z; cases x <;> rfl
  refine ⟨fun k hk => ?_, fun b hb hnone => ⟨fun hends => ?_, fun hends => ⟨fun pre c post htext hpre hc => ?_,
    fun hletters => ?_⟩⟩⟩
  · obtain ⟨hmode, hcode⟩ := caseWalk_trailCode (m := m) (front := front) htrail hk
    rw [hafter, hk]; unfold modeLeft; rw [hmode, hcode]; simp
  · rw [hafter, hb, hnone]
    simp [hends]
  · rw [hafter, hb, Option.map_some, Option.getD_some, hends, if_neg Bool.false_ne_true, htext]
    unfold modeLeft
    rw [(caseWalk_letter hpre hc).1, caseWalk_byCode_letter hpre hc]
    cases spoken with
    | false => rfl
    | true => exact hgetD _ _ _
  · rw [hafter, hb, Option.map_some, Option.getD_some, hends, if_neg Bool.false_ne_true]
    unfold modeLeft
    rw [(caseWalk_noLetter hletters).1, caseWalk_byCode_noLetter hletters]
    cases spoken with
    | false => rfl
    | true => exact hgetD _ _ _

section
variable {sp : List Token} {lead₁ lead₂ body trail : List Byte} (hsp : ∀ t ∈ sp, ∃ n, t = Token.speaker n)

theorem TextParts.not_letter_trail (h : TextParts (lead₁ ++ lead₂) body trail) : ∀ b ∈ trail, isLetter b = false :=
  fun b hb => isFormatByte_not_letter b (h.codes b (List.mem_append_right _ hb))

include hsp in
/-- The cap mode of a WORD unit that is not cut (R78 to R80). -/
theorem TextParts.capAfterWord_spoken (h : TextParts (lead₁ ++ lead₂) body trail) (hbody : body ≠ []) (m : CapMode)
    (speaker : Option Nat) {label : Nat}
    (hshort : label + (literalBytes (lead₁ ++ lead₂ ++ body ++ trail)).length ≤ 120) :
    let text := lead₁ ++ lead₂ ++ body ++ trail
    let w := caseWalk m (text.map tokenOf)
    capAfterWord (spokenTokens sp lead₁ lead₂ body trail) w speaker label =
      if ((literalBytes text).getLast?.map endsSentence).getD false then
        (if (lastCase trail).isSome then w.mode else .capNext)
      else modeLeft speaker.isSome w := by
  intro text w
  have hlen : w.chars.length = (literalBytes text).length := caseWalk_chars_length m text
  have hroom : label + (literalBytes text).length ≤ 120 := hshort
  have hkept : min w.chars.length (textLimit - label) = w.chars.length := by
    unfold textLimit; omega
  have hcode := h.codeAfter_spoken (sp := sp) hbody m
  rw [caseWalk_spoken hsp] at hcode
  unfold capAfterWord; dsimp only
  rw [hkept, List.take_length, caseWalk_endsSentence, hcode]; rfl

/-! ### The unit (R76, R77, R80) -/

/-- The speaker behind one token of the leading place (R74). -/
def speakerAfter (acc : Option Nat) : Token → Option Nat
  | .speaker n => some n
  | _ => acc

theorem leadingSpeaker_eq (ts : List Token) : leadingSpeaker ts = (leading ts).foldl speakerAfter none := rfl

theorem foldl_speaker_codes {l : List Byte} (h : ∀ b ∈ l, isFormatByte b = true) (acc : Option Nat) :
    (l.map tokenOf).foldl speakerAfter acc = acc := by
  induction l with
  | nil => rfl
  | cons b l ih =>
    obtain ⟨hb, hl⟩ := List.forall_mem_cons.1 h
    obtain ⟨c, -, hc⟩ := tokenOf_isFormat b hb
    rw [List.map_cons, List.foldl_cons, hc]; exact ih hl

include hsp in
/-- The speaker is that of the SPEAKER codes (R74). -/
theorem TextParts.leadingSpeaker_spoken (h : TextParts (lead₁ ++ lead₂) body trail) :
    leadingSpeaker (spokenTokens sp lead₁ lead₂ body trail) =
      sp.foldl speakerAfter none := by
  have h1 : ∀ b ∈ lead₁, isFormatByte b = true := fun b hb => h.codes b (by simp [hb])
  have h2 : ∀ b ∈ lead₂, isFormatByte b = true := fun b hb => h.codes b (by simp [hb])
  rw [leadingSpeaker_eq, h.leading_spoken hsp, List.foldl_append, List.foldl_append, foldl_speaker_codes h1, foldl_speaker_codes h2]

theorem TextParts.literalBytes_text (h : TextParts (lead₁ ++ lead₂) body trail) :
    literalBytes (lead₁ ++ lead₂ ++ body ++ trail) = literalBytes body := by
  obtain ⟨h1, h2, h3⟩ := h.notLit_lead
  have hnone : ∀ l : List Byte, (∀ b ∈ l, isLiteral b = false) → l.filter definable = [] := fun l hl =>
    List.filter_eq_nil_iff.2 fun b hb hd => by rw [show definable b = false from hl b hb] at hd; cases hd
  unfold literalBytes
  simp only [List.filter_append, hnone _ h1, hnone _ h2, hnone _ h3, List.nil_append, List.append_nil]

/-- The characters of the walk are as many as those of the body. -/
theorem TextParts.walk_length (h : TextParts (lead₁ ++ lead₂) body trail) (m : CapMode) :
    (caseWalk m ((lead₁ ++ lead₂ ++ body ++ trail).map tokenOf)).chars.length = (literalBytes body).length := by
  rw [caseWalk_chars_length, h.literalBytes_text]

theorem TextParts.walk_ne_nil (h : TextParts (lead₁ ++ lead₂) body trail) (hbody : body ≠ []) (m : CapMode) :
    (caseWalk m ((lead₁ ++ lead₂ ++ body ++ trail).map tokenOf)).chars.isEmpty = false := by
  have hlen := h.walk_length m
  obtain ⟨b, hb⟩ := Option.ne_none_iff_exists'.1 (mt List.head?_eq_none_iff.1 hbody)
  have hmem : b ∈ literalBytes body := List.mem_filter.2 ⟨List.mem_of_mem_head? hb, h.ends b (.inl hb)⟩
  rw [List.isEmpty_eq_false_iff, ← List.length_pos_iff, hlen]
  exact List.length_pos_of_mem hmem

/-- What a WORD unit of such a text is, whatever its speaker and label (R76, R77, R80, R83). -/
def wordOf (f : Formatting) (lead body trail : List Byte) (speaker : Option Nat) (label : List Byte) (cap : CapMode) :
    Assembled :=
  let text := lead ++ body ++ trail
  let chars := label ++ (caseWalk f.cap (text.map tokenOf)).chars
  let first := f.paragraphStart || decide (0x04 ∈ lead) || speaker.isSome
  { kind := .word
    text := chars.take 120
    spaceBefore := takesSpace f first (decide (0x01 ∈ lead)) (decide (0x06 ∈ text))
    paragraph := first
    truncated := decide (120 < chars.length)
    speaker := speaker
    after := ⟨cap, decide (0x01 ∈ trail), decide (0x06 ∈ text), speaker <|> f.speaker, decide (0x04 ∈ trail)⟩ }

include hsp in
theorem TextParts.assembleWord_spoken (h : TextParts (lead₁ ++ lead₂) body trail) (hbody : body ≠ []) (f : Formatting)
    (speaker : Option Nat) (label : List Byte) :
    let ts := spokenTokens sp lead₁ lead₂ body trail
    let w := caseWalk f.cap ((lead₁ ++ lead₂ ++ body ++ trail).map tokenOf)
    assembleWord f ts speaker label =
      wordOf f (lead₁ ++ lead₂) body trail speaker label (capAfterWord ts w speaker label.length) := by
  intro ts w
  unfold assembleWord wordOf; dsimp only
  rw [caseWalk_spoken hsp, h.holds_leading hsp tokenOf_eq_para, h.holds_leading hsp tokenOf_eq_attach,
    holds_spoken hsp tokenOf_eq_glue, h.trailing_spoken hbody, holds_map_tokenOf tokenOf_eq_attach,
    holds_map_tokenOf tokenOf_eq_para, h.walk_ne_nil hbody, Bool.or_false]
  rfl

include hsp in
/-- A text with characters is a WORD unit (R76). -/
theorem TextParts.assembleEntry_word (h : TextParts (lead₁ ++ lead₂) body trail) (hbody : body ≠ [])
    {bytes : List Byte} (hbytes : tokens bytes = spokenTokens sp lead₁ lead₂ body trail) (labels : List (List Byte))
    (f : Formatting) :
    let speaker := sp.foldl speakerAfter none
    assembleEntry labels f bytes =
      some (assembleWord f (spokenTokens sp lead₁ lead₂ body trail) speaker
        ((speaker.map (labelChars labels)).getD [])) := by
  intro speaker
  unfold assembleEntry; dsimp only
  rw [hbytes, h.leadingSpeaker_spoken hsp, h.literals_spoken hbody]; rfl

/-! ### A text without characters (R76, R80, R83) -/

theorem commandsOf_codes {l : List Byte} (h : ∀ b ∈ l, isFormatByte b = true) : commandsOf (l.map tokenOf) = [] := by
  unfold commandsOf
  rw [List.filterMap_eq_nil_iff]
  intro t ht
  obtain ⟨b, hb, rfl⟩ := List.mem_map.1 ht
  obtain ⟨c, hc, heq⟩ := tokenOf_isFormat b (h b hb)
  rw [heq]
  have hformat : ∀ c ∈ [Code.attach, .cap, .lower, .para, .glue], c.isFormat = true := by decide
  exact if_pos (hformat c hc)

theorem TextParts.walk_bare (h : TextParts (lead₁ ++ lead₂) [] []) (m : CapMode) :
    let w := caseWalk m ((lead₁ ++ lead₂ ++ [] ++ []).map tokenOf)
    w.chars = [] ∧ w.mode = (lastCase (lead₁ ++ lead₂)).getD m ∧ w.byCode = (lastCase (lead₁ ++ lead₂)).isSome := by
  have hletters : ∀ x ∈ lead₁ ++ lead₂, isLetter x = false := fun b hb =>
    isFormatByte_not_letter b (h.codes b (List.mem_append_left _ hb))
  intro w
  refine ⟨List.length_eq_zero_iff.1 (h.walk_length m), ?_, ?_⟩
  · show (caseWalk m _).mode = _
    rw [List.append_nil, List.append_nil]; exact (caseWalk_noLetter hletters).1
  · show (caseWalk m _).byCode = _
    rw [List.append_nil, List.append_nil]; exact caseWalk_byCode_noLetter hletters

include hsp in
/-- A FORMAT unit changes only what its codes set (R80, R83). -/
theorem TextParts.assembleFormat_spoken (h : TextParts (lead₁ ++ lead₂) [] []) (f : Formatting) (speaker : Option Nat) :
    assembleFormat f (spokenTokens sp lead₁ lead₂ [] []) speaker =
      ⟨.format, [], false, false, false, speaker,
        ⟨(lastCase (lead₁ ++ lead₂)).getD (if speaker.isSome then .capNext else f.cap),
          f.attachNext || decide (0x01 ∈ lead₁ ++ lead₂), f.glueLast || decide (0x06 ∈ lead₁ ++ lead₂),
          speaker <|> f.speaker, f.paragraphStart || decide (0x04 ∈ lead₁ ++ lead₂) || speaker.isSome⟩⟩ := by
  obtain ⟨-, hmode, hcode⟩ := h.walk_bare f.cap
  unfold assembleFormat; dsimp only
  rw [caseWalk_spoken hsp, holds_spoken hsp tokenOf_eq_attach, holds_spoken hsp tokenOf_eq_glue,
    holds_spoken hsp tokenOf_eq_para, hmode, hcode, List.append_nil, List.append_nil]
  cases lastCase (lead₁ ++ lead₂) <;> rfl

include hsp in
/-- A label alone makes a WORD unit (R80). -/
theorem TextParts.assembleWord_bare (h : TextParts (lead₁ ++ lead₂) [] []) (f : Formatting) (n : Nat)
    (label : List Byte) :
    assembleWord f (spokenTokens sp lead₁ lead₂ [] []) (some n) label =
      ⟨.word, label.take 120, false, true, decide (120 < label.length), some n,
        ⟨(lastCase (lead₁ ++ lead₂)).getD .capNext, true, decide (0x06 ∈ lead₁ ++ lead₂), some n, false⟩⟩ := by
  obtain ⟨hchars, hmode, hcode⟩ := h.walk_bare f.cap
  have hcap : ∀ ts label, capAfterWord ts (caseWalk f.cap ((lead₁ ++ lead₂ ++ [] ++ []).map tokenOf)) (some n) label =
      (lastCase (lead₁ ++ lead₂)).getD .capNext := by
    intro ts label
    unfold capAfterWord; dsimp only
    rw [hchars, hmode, hcode]
    cases lastCase (lead₁ ++ lead₂) <;> rfl
  unfold assembleWord; dsimp only
  rw [caseWalk_spoken hsp, hcap, hchars, holds_spoken hsp tokenOf_eq_glue, trailing_noLit (h.notLit_bare hsp),
    List.append_nil, List.append_nil, List.append_nil]
  simp [takesSpace, textLimit, holds]
  rfl

/-- Bytes of characters and codes have their tokens in front of what follows. -/
theorem tokens_append {front behind : List Byte} (h : ∀ b ∈ front, isFormatByte b = true) :
    tokens (front ++ behind) = front.map tokenOf ++ tokens behind := by
  induction front with
  | nil => rfl
  | cons b front ih =>
    obtain ⟨hb, hfront⟩ := List.forall_mem_cons.1 h
    obtain ⟨hlit, h5, hcode⟩ := isCodeByte_ofByte b (isFormatByte_isCodeByte hb)
    obtain ⟨c, hc⟩ := Option.isSome_iff_exists.1 hcode
    have htoken : tokenOf b = .code c := by unfold tokenOf; rw [if_neg (by simp [hlit]), hc]; rfl
    rw [List.cons_append, tokens.eq_def]; dsimp only
    rw [if_neg h5, if_neg (by simp [hlit]), hc, List.map_cons, htoken, List.cons_append,
      ← ih hfront]

theorem TextParts.tokens_eq (h : TextParts (lead₁ ++ lead₂) body trail) :
    tokens (lead₂ ++ body ++ trail) = (lead₂ ++ body ++ trail).map tokenOf := by
  refine Machine.tokens_eq fun b hb => ?_
  rw [List.mem_append, List.mem_append] at hb
  rcases hb with (hb | hb) | hb
  · exact .inr (isFormatByte_isCodeByte (h.codes b (by simp [hb])))
  · exact (h.bytes b hb).imp id isFormatByte_isCodeByte
  · exact .inr (isFormatByte_isCodeByte (h.codes b (by simp [hb])))

/-- The tokens of a text with a SPEAKER code in its leading place (R72, R74). -/
theorem TextParts.tokens_speaker (h : TextParts (lead₁ ++ lead₂) body trail) {n : Byte} (h1 : 1 ≤ n.toNat)
    (h15 : n.toNat ≤ 15) :
    tokens (lead₁ ++ [0x05, n] ++ lead₂ ++ body ++ trail) =
      spokenTokens [.speaker n.toNat] lead₁ lead₂ body trail := by
  have hlead : ∀ b ∈ lead₁, isFormatByte b = true := fun b hb => h.codes b (by simp [hb])
  have hsplit : lead₁ ++ [0x05, n] ++ lead₂ ++ body ++ trail = lead₁ ++ (0x05 :: n :: (lead₂ ++ body ++ trail)) := by simp
  have hspeaker : tokens (0x05 :: n :: (lead₂ ++ body ++ trail)) = .speaker n.toNat :: tokens (lead₂ ++ body ++ trail) := by
    rw [tokens.eq_def]; dsimp only; rw [if_pos rfl, if_pos ⟨h1, h15⟩]
  rw [hsplit, tokens_append hlead, hspeaker, h.tokens_eq]
  simp [spokenTokens]

end

/-- Commands alone make no unit (R76). -/
theorem assembleEntry_commands {commands : List Byte} (hne : commands ≠ [])
    (h : ∀ b ∈ commands, 0x08 ≤ b.toNat ∧ b.toNat ≤ 0x10) (labels : List (List Byte)) (f : Formatting) :
    assembleEntry labels f commands = none := by
  have hcode : ∀ b : Byte, 0x08 ≤ b.toNat ∧ b.toNat ≤ 0x10 →
      isCodeByte b = true ∧ ∃ c ∈ [Code.ofByte b.toNat], c.any (fun c => !c.isFormat) = true ∧
        tokenOf b = .code (c.getD .ack) := by decide
  have hcommand : ∀ t ∈ commands.map tokenOf, ∃ c, t = .code c ∧ c.isFormat = false := by
    intro t ht
    obtain ⟨b, hb, rfl⟩ := List.mem_map.1 ht
    obtain ⟨-, c, -, hc, htoken⟩ := hcode b (h b hb)
    cases c with
    | none => cases hc
    | some c => exact ⟨c, htoken, by simpa using hc⟩
  have htokens : tokens commands = commands.map tokenOf := tokens_eq fun b hb => .inr (hcode b (h b hb)).1
  have hlit : ∀ t ∈ commands.map tokenOf, t.isLit = false := fun t ht => by
    obtain ⟨c, rfl, -⟩ := hcommand t ht; rfl
  have hspeaker : leadingSpeaker (commands.map tokenOf) = none := by
    have hall : ∀ l : List Token, (∀ t ∈ l, ∃ c, t = Token.code c) → l.foldl speakerAfter none = none := by
      intro l
      induction l with
      | nil => exact fun _ => rfl
      | cons t l ih =>
        intro h
        obtain ⟨⟨c, rfl⟩, hl⟩ := List.forall_mem_cons.1 h
        exact ih hl
    rw [leadingSpeaker_eq]
    refine hall _ fun t ht => ?_
    obtain ⟨c, hc, -⟩ := hcommand t ((List.takeWhile_sublist _).subset ht)
    exact ⟨c, hc⟩
  have hformat : hasFormat (commands.map tokenOf) = false := by
    unfold hasFormat
    rw [List.any_eq_false]
    intro t ht
    obtain ⟨c, rfl, hc⟩ := hcommand t ht
    simp [hc]
  have hsome : (commandsOf (commands.map tokenOf)).isEmpty = false := by
    obtain ⟨b, bs, rfl⟩ := List.exists_cons_of_ne_nil hne
    obtain ⟨c, hc, hnot⟩ := hcommand (tokenOf b) (by simp)
    unfold commandsOf
    rw [List.map_cons, hc, List.filterMap_cons]; dsimp only; rw [if_neg (by simp [hnot])]; rfl
  unfold assembleEntry; dsimp only
  rw [htokens, hspeaker, literals_eq_nil_iff.2 hlit, hformat, hsome]; rfl

end Sys2Proof.Machine
end


section
/-! PROOFS. The statement about text assembly: the four kinds of text, each with the unit it makes. -/

namespace Sys2Proof.Machine

section
variable {lead body trail : List Byte} {labels : List (List Byte)} {f : Formatting}

theorem noSpeaker : ∀ t ∈ ([] : List Token), ∃ n, t = Token.speaker n := nofun

theorem oneSpeaker (n : Nat) : ∀ t ∈ [Token.speaker n], ∃ k, t = Token.speaker k := fun _ ht =>
  ⟨n, List.mem_singleton.1 ht⟩

/-- The tokens of a text without a SPEAKER code. -/
theorem TextParts.tokens_plain (h : TextParts lead body trail) :
    tokens (lead ++ body ++ trail) = spokenTokens [] [] lead body trail :=
  TextParts.tokens_eq (lead₁ := []) h

/-- A text with characters and no SPEAKER code is a WORD unit of its characters (R76). -/
theorem TextParts.assembleEntry_plain (h : TextParts lead body trail) (hbody : body ≠ [])
    (hshort : (literalBytes body).length ≤ 120) :
    ∃ cap, assembleEntry labels f (lead ++ body ++ trail) = some (wordOf f lead body trail none [] cap) ∧
      CapLeft .none f.cap cap (lead ++ body ++ trail) trail := by
  have hparts : TextParts ([] ++ lead) body trail := h
  have hassemble := hparts.assembleEntry_word noSpeaker hbody h.tokens_plain labels f
  have hword := hparts.assembleWord_spoken noSpeaker hbody f none []
  have hlen : 0 + (literalBytes ([] ++ lead ++ body ++ trail)).length ≤ 120 := by
    rw [hparts.literalBytes_text, Nat.zero_add]; exact hshort
  have hcap := hparts.capAfterWord_spoken noSpeaker hbody f.cap none hlen
  exact ⟨_, hassemble.trans (congrArg some hword), capLeft_of_walk (spoken := false) hparts.not_letter_trail hcap⟩

/-- A text with characters behind a SPEAKER code of its leading place is a WORD unit behind the label (R80). -/
theorem TextParts.assembleEntry_labelled {lead₁ lead₂ : List Byte} (h : TextParts (lead₁ ++ lead₂) body trail)
    (hbody : body ≠ []) {n : Byte} (h1 : 1 ≤ n.toNat) (h15 : n.toNat ≤ 15) :
    let label := labelChars labels n.toNat
    ∃ cap, assembleEntry labels f (lead₁ ++ [0x05, n] ++ lead₂ ++ body ++ trail) =
        some (wordOf f (lead₁ ++ lead₂) body trail (some n.toNat) label cap) ∧
      (label.length + (literalBytes body).length ≤ 120 →
        CapLeft .capNext .capNext cap (lead₁ ++ lead₂ ++ body ++ trail) trail) := by
  intro label
  have hassemble := h.assembleEntry_word (oneSpeaker _) hbody (h.tokens_speaker h1 h15) labels f
  have hword := h.assembleWord_spoken (oneSpeaker n.toNat) hbody f (some n.toNat) label
  refine ⟨_, hassemble.trans (congrArg some hword), fun hshort => ?_⟩
  have hcap := h.capAfterWord_spoken (oneSpeaker n.toNat) hbody f.cap (some n.toNat) (label := label.length)
    (by rw [h.literalBytes_text]; exact hshort)
  exact capLeft_of_walk (spoken := true) h.not_letter_trail hcap

/-- Codes alone make a FORMAT unit (R76, R83). -/
theorem TextParts.assembleEntry_codes (h : TextParts lead [] []) :
    assembleEntry labels f lead = some
      ⟨.format, [], false, false, false, none,
        ⟨(lastCase lead).getD f.cap, f.attachNext || decide (0x01 ∈ lead), f.glueLast || decide (0x06 ∈ lead),
          f.speaker, f.paragraphStart || decide (0x04 ∈ lead)⟩⟩ := by
  have hparts : TextParts ([] ++ lead) [] [] := h
  have htokens : tokens lead = spokenTokens [] [] lead [] [] := by
    have := h.tokens_plain; rwa [List.append_nil, List.append_nil] at this
  have hspeaker := hparts.leadingSpeaker_spoken noSpeaker
  have hcond : (!hasFormat (tokens lead) && !(commandsOf (tokens lead)).isEmpty) = false := by
    rw [htokens, spokenTokens_nil, List.append_nil, List.append_nil,
      commandsOf_codes fun b hb => h.codes b (List.mem_append_left _ hb)]
    simp
  unfold assembleEntry; dsimp only
  rw [hcond, htokens, hspeaker, literals_eq_nil_iff.2 (hparts.notLit_bare noSpeaker), List.foldl_nil,
    hparts.assembleFormat_spoken noSpeaker]
  simp

/-- Codes alone with a SPEAKER code make a WORD unit of the label, or a FORMAT unit where it has no characters (R80). -/
theorem TextParts.assembleEntry_speaker {lead₁ lead₂ : List Byte} (h : TextParts (lead₁ ++ lead₂) [] [])
    {n : Byte} (h1 : 1 ≤ n.toNat) (h15 : n.toNat ≤ 15) :
    let label := labelChars labels n.toNat
    let ts := spokenTokens [.speaker n.toNat] lead₁ lead₂ [] []
    assembleEntry labels f (lead₁ ++ [0x05, n] ++ lead₂) =
      some (if label = [] then assembleFormat f ts (some n.toNat) else assembleWord f ts (some n.toNat) label) := by
  intro label ts
  have htokens : tokens (lead₁ ++ [0x05, n] ++ lead₂) = ts := by
    have := h.tokens_speaker h1 h15; rwa [List.append_nil, List.append_nil] at this
  have hspeaker : leadingSpeaker ts = some n.toNat := h.leadingSpeaker_spoken (oneSpeaker _)
  have hformat : hasFormat ts = true := by
    unfold hasFormat
    rw [List.any_eq_true]
    exact ⟨.speaker n.toNat, by simp [ts, spokenTokens], rfl⟩
  unfold assembleEntry; dsimp only
  rw [htokens, hspeaker, literals_eq_nil_iff.2 (h.notLit_bare (oneSpeaker _)), hformat]
  by_cases hlabel : label = []
  · rw [if_pos hlabel]
    exact if_pos (by simpa [label] using hlabel)
  · rw [if_neg hlabel]
    exact if_neg (by simpa [label] using hlabel)

end

/-- Settles O34: a WORD unit by the case walk through its characters, a FORMAT unit by its codes. -/
theorem plainTextAssembly : Obligations.PlainTextAssembly := by
  intro labels f lead body trail hcodes hbytes hbare hends hshort text
  have hparts : TextParts lead body trail := ⟨hcodes, hbytes, hbare, hends⟩
  have hlen : ∀ m : CapMode, (caseWalk m (text.map tokenOf)).chars.length ≤ 120 := fun m => by
    have := TextParts.walk_length (lead₁ := []) hparts m
    exact this.trans_le hshort
  have htake : ∀ cap, (wordOf f lead body trail none [] cap).text = (caseWalk f.cap (text.map tokenOf)).chars :=
    fun _ => List.take_of_length_le (hlen f.cap)
  refine ⟨fun hbody => ?_, fun hbody => ?_, ?_,
    fun commands hne h => assembleEntry_commands hne h labels f⟩
  · obtain ⟨cap, hassemble, hcap⟩ := hparts.assembleEntry_plain (labels := labels) (f := f) hbody hshort
    refine ⟨_, hassemble, rfl, ?_, rfl, ?_, ?_, fun pre b post htext hpre hb => ?_, fun hnone => ?_, ?_, hcap⟩
    · exact decide_eq_false (Nat.not_lt.2 (hlen f.cap))
    · show (f.paragraphStart || decide (0x04 ∈ lead) || false) = _
      rw [Bool.or_false]
    · show takesSpace f _ _ _ = true ↔ (wordOf f lead body trail none [] cap).paragraph = false ∧ _
      unfold wordOf takesSpace text
      simp only [Option.isSome_none, Bool.or_false, Bool.and_eq_true, Bool.not_eq_true', and_assoc,
        decide_eq_false_iff_not, Bool.and_eq_false_iff, not_and_or, Bool.not_eq_true]
    · rw [htake, htext]; exact (caseWalk_letter hpre hb).2
    · rw [htake]; exact (caseWalk_noLetter hnone).2
    · rfl
  · subst hbody
    obtain rfl := hbare rfl
    have htext : text = lead := by simp [text]
    rw [htext]; exact hparts.assembleEntry_codes
  · intro lead₁ lead₂ n hlead h1 h15 label
    subst hlead
    by_cases hbody : body = []
    · subst hbody
      obtain rfl := hbare rfl
      have htext : text = lead₁ ++ lead₂ := by simp [text]
      have hassemble := hparts.assembleEntry_speaker (labels := labels) (f := f) h1 h15
      refine ⟨_, by rw [List.append_nil, List.append_nil]; exact hassemble, ?_, fun h => absurd rfl h,
        fun _ hlabel => ?_, fun _ hlabel => ?_⟩
      · split <;> rfl
      · rw [if_neg (show ¬ labelChars labels n.toNat = [] from hlabel), hparts.assembleWord_bare (oneSpeaker _), htext]
        rfl
      · rw [if_pos (show labelChars labels n.toNat = [] from hlabel), hparts.assembleFormat_spoken (oneSpeaker _), htext]
        simp
    · obtain ⟨cap₀, hplain, -⟩ := hparts.assembleEntry_plain (labels := labels) (f := f) hbody hshort
      obtain ⟨cap, hassemble, hcap⟩ := hparts.assembleEntry_labelled (labels := labels) (f := f) hbody h1 h15
      refine ⟨_, hassemble, rfl, fun _ => ⟨_, hplain, rfl, ?_, ?_, ?_, ?_, rfl, fun hall => hcap ?_⟩,
        fun h => absurd h hbody, fun h => absurd h hbody⟩
      · rw [htake]; rfl
      · rw [htake]; rfl
      · show (f.paragraphStart || _ || true) = true
        rw [Bool.or_true]
      · show takesSpace f (f.paragraphStart || _ || true) _ _ = false
        unfold takesSpace; rw [Bool.or_true]; rfl
      · rw [htake, List.length_append] at hall
        have := TextParts.walk_length (lead₁ := []) hparts f.cap
        rw [← this]; exact hall

end Sys2Proof.Machine
end

section
/-! PROOFS. Untranslate text (R67): the letters of a key set in three parts, of which the middle one cannot be mistaken,
so that a text has one key set. -/

namespace Sys2Proof.Machine

/-! ### Three parts told apart by a test -/

/-- A list in three parts: the middle one holds what passes the test, the outer ones nothing that does, and the last one
is empty where the middle one is. -/
def Parted {α : Type} (test : α → Bool) (left middle right : List α) : Prop :=
  (∀ x ∈ left, test x = false) ∧ (∀ x ∈ middle, test x = true) ∧ (∀ x ∈ right, test x = false) ∧
    (middle = [] → right = [])

section
variable {α : Type} {test : α → Bool} {left middle right left' middle' right' : List α}

theorem Parted.takeWhile_left (h : Parted test left middle right) :
    (left ++ (middle ++ right)).takeWhile (fun x => !test x) = left := by
  obtain ⟨hleft, hmiddle, -, hempty⟩ := h
  rw [List.takeWhile_append_of_pos (by simpa using hleft)]
  cases middle with
  | nil => simp [hempty rfl]
  | cons x xs => simp [hmiddle x]

theorem Parted.dropWhile_left (h : Parted test left middle right) :
    (left ++ (middle ++ right)).dropWhile (fun x => !test x) = middle ++ right := by
  obtain ⟨hleft, hmiddle, -, hempty⟩ := h
  rw [List.dropWhile_append_of_pos (by simpa using hleft)]
  cases middle with
  | nil => simp [hempty rfl]
  | cons x xs => simp [hmiddle x]

theorem Parted.takeWhile_middle (h : Parted test left middle right) : (middle ++ right).takeWhile test = middle := by
  obtain ⟨-, hmiddle, hright, -⟩ := h
  rw [List.takeWhile_append_of_pos (by simpa using hmiddle)]
  cases right with
  | nil => simp
  | cons x xs => simp [hright x]

/-- A list has one such parting. -/
theorem Parted.unique (h : Parted test left middle right) (h' : Parted test left' middle' right')
    (heq : left ++ (middle ++ right) = left' ++ (middle' ++ right')) :
    left = left' ∧ middle = middle' ∧ right = right' := by
  have hleft : left = left' := by rw [← h.takeWhile_left, heq, h'.takeWhile_left]
  have hrest : middle ++ right = middle' ++ right' := by rw [← h.dropWhile_left, heq, h'.dropWhile_left]
  have hmiddle : middle = middle' := by rw [← h.takeWhile_middle, hrest, h'.takeWhile_middle]
  exact ⟨hleft, hmiddle, List.append_cancel_left (hmiddle ▸ hrest)⟩

end

/-! ### The letters of a key set -/

/-- The character that shows the key of a position. -/
def keyLetter (p : Nat) : Byte := charByte (stenoLetters.getD p '#')

/-- The positions left of the vowels, of the vowels with the asterisk, and right of them. -/
def leftKeys : List Nat := List.range 8
def middleKeys : List Nat := [8, 9, 10, 11, 12]
def rightKeys : List Nat := [13, 14, 15, 16, 17, 18, 19, 20, 21, 22]

/-- The middle part of an untranslate text: the vowels, or the hyphen in their place. -/
def middleText (k : KeySet) : List Byte :=
  lettersOf k middleKeys ++
    if (lettersOf k middleKeys).isEmpty && !(lettersOf k rightKeys).isEmpty then chars "-" else []

/-- A character of the middle part. -/
def isMiddle (b : Byte) : Bool := (chars "AO*EU-").contains b

theorem untranslate_parts (k : KeySet) :
    untranslate k = lettersOf k leftKeys ++ (middleText k ++ lettersOf k rightKeys) := by
  unfold middleText; rw [← List.append_assoc, ← List.append_assoc]; rfl

section
variable {k j : KeySet} {positions : List Nat} {p : Nat} {b : Byte}

theorem mem_lettersOf : b ∈ lettersOf k positions ↔ ∃ p ∈ positions, k.getLsbD p = true ∧ keyLetter p = b := by
  simp only [lettersOf, keyLetter, List.mem_map, List.mem_filter, and_assoc]

theorem lettersOf_length_le : (lettersOf k positions).length ≤ positions.length := by
  unfold lettersOf; rw [List.length_map]; exact List.length_filter_le _ _

/-- Where the letters of some positions differ, a letter stands for its own key. -/
theorem keyLetter_mem_lettersOf (hone : ∀ p ∈ positions, ∀ q ∈ positions, keyLetter p = keyLetter q → p = q)
    (hp : p ∈ positions) : keyLetter p ∈ lettersOf k positions ↔ k.getLsbD p = true := by
  rw [mem_lettersOf]
  constructor
  · rintro ⟨q, hq, hbit, heq⟩
    rwa [hone p hp q hq heq.symm]
  · exact fun hbit => ⟨p, hp, hbit, rfl⟩

theorem leftKeys_keyLetter_inj : ∀ p ∈ leftKeys, ∀ q ∈ leftKeys, keyLetter p = keyLetter q → p = q := by decide +kernel
theorem middleKeys_keyLetter_inj : ∀ p ∈ middleKeys, ∀ q ∈ middleKeys, keyLetter p = keyLetter q → p = q := by
  decide +kernel
theorem rightKeys_keyLetter_inj : ∀ p ∈ rightKeys, ∀ q ∈ rightKeys, keyLetter p = keyLetter q → p = q := by
  decide +kernel

theorem keyLetter_outer_not_middle : ∀ p ∈ leftKeys ++ rightKeys, isMiddle (keyLetter p) = false := by decide +kernel
theorem keyLetter_middle : ∀ p ∈ middleKeys, isMiddle (keyLetter p) = true ∧ keyLetter p ∉ chars "-" := by
  decide +kernel
theorem keyLetter_printable : ∀ p ∈ leftKeys ++ middleKeys ++ rightKeys,
    0x20 ≤ (keyLetter p).toNat ∧ (keyLetter p).toNat ≤ 0x7E := by decide +kernel

/-- A vowel stands in the middle part where its key is pressed; the hyphen is no vowel. -/
theorem keyLetter_mem_middleText (hp : p ∈ middleKeys) : keyLetter p ∈ middleText k ↔ k.getLsbD p = true := by
  rw [← keyLetter_mem_lettersOf middleKeys_keyLetter_inj hp]
  unfold middleText
  rw [List.mem_append, or_iff_left]
  split
  · exact (keyLetter_middle p hp).2
  · exact List.not_mem_nil

theorem middleText_isMiddle (h : b ∈ middleText k) : isMiddle b = true := by
  unfold middleText at h
  rcases List.mem_append.1 h with h | h
  · obtain ⟨p, hp, -, rfl⟩ := mem_lettersOf.1 h
    exact (keyLetter_middle p hp).1
  · split at h
    · have : ∀ b ∈ chars "-", isMiddle b = true := by decide +kernel
      exact this b h
    · exact absurd h List.not_mem_nil

theorem middleText_empty (h : middleText k = []) : lettersOf k rightKeys = [] := by
  unfold middleText at h
  obtain ⟨hvowels, hhyphen⟩ := List.append_eq_nil_iff.1 h
  by_contra hright
  rw [if_pos (by simp [hvowels, hright])] at hhyphen
  exact absurd hhyphen (by decide +kernel)

/-- The middle part is found in the text by its characters. -/
theorem untranslate_parted (k : KeySet) :
    Parted isMiddle (lettersOf k leftKeys) (middleText k) (lettersOf k rightKeys) := by
  refine ⟨fun b hb => ?_, fun b hb => middleText_isMiddle hb, fun b hb => ?_, middleText_empty⟩
  · obtain ⟨p, hp, -, rfl⟩ := mem_lettersOf.1 hb
    exact keyLetter_outer_not_middle p (List.mem_append_left _ hp)
  · obtain ⟨p, hp, -, rfl⟩ := mem_lettersOf.1 hb
    exact keyLetter_outer_not_middle p (List.mem_append_right _ hp)

theorem mem_keys (hp : p < 23) : p ∈ leftKeys ∨ p ∈ middleKeys ∨ p ∈ rightKeys := by
  have : ∀ p < 23, p ∈ leftKeys ∨ p ∈ middleKeys ∨ p ∈ rightKeys := by decide +kernel
  exact this p hp

theorem untranslate_injective (h : untranslate j = untranslate k) : j = k := by
  rw [untranslate_parts, untranslate_parts] at h
  obtain ⟨hleft, hmiddle, hright⟩ := (untranslate_parted j).unique (untranslate_parted k) h
  refine BitVec.eq_of_getLsbD_eq fun p hp => Bool.eq_iff_iff.2 ?_
  rcases mem_keys hp with hp | hp | hp
  · rw [← keyLetter_mem_lettersOf leftKeys_keyLetter_inj hp, hleft,
      keyLetter_mem_lettersOf leftKeys_keyLetter_inj hp]
  · rw [← keyLetter_mem_middleText hp, hmiddle, keyLetter_mem_middleText hp]
  · rw [← keyLetter_mem_lettersOf rightKeys_keyLetter_inj hp, hright,
      keyLetter_mem_lettersOf rightKeys_keyLetter_inj hp]

/-- A key pressed shows its letter. -/
theorem keyLetter_mem_untranslate (hp : p < 23) (hbit : k.getLsbD p = true) : keyLetter p ∈ untranslate k := by
  rw [untranslate_parts, List.mem_append, List.mem_append]
  rcases mem_keys hp with hp | hp | hp
  · exact .inl (mem_lettersOf.2 ⟨p, hp, hbit, rfl⟩)
  · exact .inr (.inl ((keyLetter_mem_middleText hp).2 hbit))
  · exact .inr (.inr (mem_lettersOf.2 ⟨p, hp, hbit, rfl⟩))

theorem middleText_length_le (k : KeySet) : (middleText k).length ≤ 6 := by
  have hvowels : (lettersOf k middleKeys).length ≤ 5 := lettersOf_length_le
  have hhyphen : (chars "-").length = 1 := by decide +kernel
  unfold middleText
  rw [List.length_append]
  split
  · omega
  · rw [List.length_nil]; omega

theorem untranslate_length (h : k ≠ 0) : 1 ≤ (untranslate k).length ∧ (untranslate k).length ≤ 24 := by
  constructor
  · obtain ⟨p, hp, hbit⟩ : ∃ p, p < 23 ∧ k.getLsbD p = true := by
      by_contra hnone
      refine h (BitVec.eq_of_getLsbD_eq fun p hp => ?_)
      have hbit : k.getLsbD p = false := by simpa using fun hbit => hnone ⟨p, hp, hbit⟩
      rw [hbit]; exact BitVec.getLsbD_zero.symm
    exact List.length_pos_of_mem (keyLetter_mem_untranslate hp hbit)
  · have hleft : (lettersOf k leftKeys).length ≤ 8 := lettersOf_length_le
    have hmiddle := middleText_length_le k
    have hright : (lettersOf k rightKeys).length ≤ 10 := lettersOf_length_le
    rw [untranslate_parts, List.length_append, List.length_append]
    omega

theorem untranslate_printable (h : b ∈ untranslate k) : 0x20 ≤ b.toNat ∧ b.toNat ≤ 0x7E := by
  have hhyphen : ∀ b ∈ chars "-", 0x20 ≤ b.toNat ∧ b.toNat ≤ 0x7E := by decide +kernel
  have hletters : ∀ positions, (∀ p ∈ positions, p ∈ leftKeys ++ middleKeys ++ rightKeys) →
      b ∈ lettersOf k positions → 0x20 ≤ b.toNat ∧ b.toNat ≤ 0x7E := by
    intro positions hsub hb
    obtain ⟨p, hp, -, rfl⟩ := mem_lettersOf.1 hb
    exact keyLetter_printable p (hsub p hp)
  rw [untranslate_parts, List.mem_append, List.mem_append] at h
  rcases h with h | h | h
  · exact hletters _ (fun p hp => by simp [hp]) h
  · unfold middleText at h
    rcases List.mem_append.1 h with h | h
    · exact hletters _ (fun p hp => by simp [hp]) h
    · split at h
      · exact hhyphen b h
      · exact absurd h List.not_mem_nil
  · exact hletters _ (fun p hp => by simp [hp]) h

end

end Sys2Proof.Machine
end

section
/-! PROOFS. Retranslation (R106, R107): the newest run of an outline's untranslates, its replacement by one unit, and
the frames of that; what a definition stored leaves before it. -/

namespace Sys2Proof.Machine

/-! ### The newest run (R106) -/

/-- The last place of a range that passes a test. -/
theorem find?_reverse_range {test : Nat → Bool} {n i : Nat} (hi : i < n) (htest : test i = true)
    (hlast : ∀ j, i < j → j < n → test j = false) : (List.range n).reverse.find? test = some i := by
  induction n with
  | zero => omega
  | succ n ih =>
    rw [List.range_succ, List.reverse_append, List.reverse_singleton, List.singleton_append, List.find?_cons]
    rcases Nat.lt_succ_iff_lt_or_eq.1 hi with hlt | rfl
    · rw [hlast n hlt (Nat.lt_succ_self n)]
      exact ih hlt fun j h1 h2 => hlast j h1 (Nat.lt_succ_of_lt h2)
    · rw [htest]

section
variable {h pre run post us : List TextUnit} {outline : List KeySet} {u : TextUnit} {i : Nat}

theorem UntranRun.length_eq (hr : UntranRun run outline) : run.length = outline.length := by
  simpa using congrArg List.length hr

theorem isUntranslate_iff {k : KeySet} :
    isUntranslate u (untranslate k) = true ↔ (u.kind, u.text) = (UnitKind.untran, untranslate k) := by
  simp [isUntranslate]

/-- Units matched one by one against an outline's untranslates. -/
theorem untranRun_iff_zip :
    UntranRun run outline ↔
      run.length = outline.length ∧
        ((run.zip (outline.map untranslate)).all fun p => isUntranslate p.1 p.2) = true := by
  unfold UntranRun
  induction run generalizing outline with
  | nil => cases outline <;> simp
  | cons u run ih =>
    cases outline with
    | nil => simp
    | cons k outline =>
      rw [List.map_cons, List.map_cons, List.cons.injEq, ih, List.map_cons, List.zip_cons_cons, List.all_cons,
        Bool.and_eq_true, isUntranslate_iff, List.length_cons, List.length_cons, Nat.succ_inj]
      tauto

theorem runMatches_iff :
    runMatches h (outline.map untranslate) i = true ↔ UntranRun ((h.drop i).take outline.length) outline := by
  unfold runMatches; dsimp only
  rw [untranRun_iff_zip, Bool.and_eq_true, beq_iff_eq, List.length_map]

theorem runMatches_of_split (hh : h = pre ++ run ++ post) (hr : UntranRun run outline) :
    runMatches h (outline.map untranslate) pre.length = true := by
  rw [runMatches_iff, hh, List.append_assoc, List.drop_left, ← hr.length_eq, List.take_left]
  exact hr

/-- Without a run none is found. -/
theorem newestRun_none
    (hnone : ∀ pre run post, h = pre ++ run ++ post → ¬ UntranRun run outline) :
    newestRun h (outline.map untranslate) = none := by
  refine List.find?_eq_none.2 fun i _ hmatch => ?_
  refine hnone (h.take i) _ ((h.drop i).drop outline.length) ?_ (runMatches_iff.1 hmatch)
  rw [List.append_assoc, List.take_append_drop, List.take_append_drop]

/-- The newest run is found by its place. -/
theorem newestRun_some (hh : h = pre ++ (u :: us) ++ post) (hr : UntranRun (u :: us) outline)
    (hlast : ∀ pre' run' post', h = pre' ++ run' ++ post' → UntranRun run' outline → pre'.length ≤ pre.length) :
    newestRun h (outline.map untranslate) = some pre.length := by
  refine find?_reverse_range (by rw [hh]; simp) (runMatches_of_split hh hr) fun j hj hlt => ?_
  by_contra hmatch
  rw [Bool.not_eq_false] at hmatch
  have hsplit : h = h.take j ++ (h.drop j).take outline.length ++ (h.drop j).drop outline.length := by
    rw [List.append_assoc, List.take_append_drop, List.take_append_drop]
  have := hlast _ _ _ hsplit (runMatches_iff.1 hmatch)
  rw [List.length_take] at this; omega

end

/-! ### The frames of a run (R107, R121, R130) -/

section
variable {s : State}

theorem runFrames_length (say : Bool → Word → Msg) (u : TextUnit) : (runFrames say u).length ≤ 1 := by
  unfold runFrames; split <;> simp

/-- A message of classes 2 to 5 broadcast in RUN with fewer than 20 frames waiting waits behind them. -/
theorem broadcast_roomLow {m : Msg} (hk : m.kind ≠ .presence) (hc : 2 ≤ m.kind.cls) (hphase : s.seq.phase = .run)
    (hroom : s.bus.queue.length < 20) : broadcast m s = setQueue (s.bus.queue ++ [waitingFrame m none]) s :=
  handFrame_roomLow (f := waitingFrame m none) hphase hroom hk hc

theorem setQueue_same : setQueue (s.bus.queue ++ []) s = s := by rw [List.append_nil]; rfl

/-- A unit that is RELEASED with a sequence sends one frame of a run, and any other none. -/
theorem runFrames_sends {n : Word} {u : TextUnit} (hreleased : u.released = true) (hseq : u.seq = some n)
    (say : Bool → Word → Msg) :
    runFrames say u = [waitingFrame (say (decide (u.stream = .official)) n) none] := by
  simp only [runFrames, hreleased, hseq]

theorem runFrames_silent {u : TextUnit} (h : u.released = false ∨ u.seq = none) (say : Bool → Word → Msg) :
    runFrames say u = [] := by
  rcases h with h | h
  · simp only [runFrames, h]
  · cases hreleased : u.released <;> simp only [runFrames, h, hreleased]

theorem released_with_sequence (u : TextUnit) :
    (∃ n, u.released = true ∧ u.seq = some n) ∨ (u.released = false ∨ u.seq = none) := by
  cases u.released with
  | false => exact .inr (.inl rfl)
  | true =>
    cases u.seq with
    | none => exact .inr (.inr rfl)
    | some n => exact .inl ⟨n, rfl, rfl⟩

theorem replaceFrame_sends {n : Word} {u : TextUnit} (hreleased : u.released = true) (hseq : u.seq = some n)
    (text : List Byte) : replaceFrame u text s = broadcast (.replace (decide (u.stream = .official)) n text) s := by
  simp only [replaceFrame, hreleased, hseq]

theorem replaceFrame_silent {u : TextUnit} (h : u.released = false ∨ u.seq = none) (text : List Byte) :
    replaceFrame u text s = s := by
  rcases h with h | h
  · simp only [replaceFrame, h]
  · cases hreleased : u.released <;> simp only [replaceFrame, h, hreleased]

theorem retract_sends {n : Word} {u : TextUnit} (hreleased : u.released = true) (hseq : u.seq = some n) :
    retract u s = broadcast (.retract (decide (u.stream = .official)) n) s := by
  simp only [retract, hreleased, hseq]

theorem retract_silent {u : TextUnit} (h : u.released = false ∨ u.seq = none) : retract u s = s := by
  rcases h with h | h
  · simp only [retract, h]
  · cases hreleased : u.released <;> simp only [retract, h, hreleased]

theorem replaceFrame_queued (u : TextUnit) (text : List Byte) (hphase : s.seq.phase = .run)
    (hroom : s.bus.queue.length < 20) :
    replaceFrame u text s =
      setQueue (s.bus.queue ++ runFrames (fun official n => .replace official n text) u) s := by
  rcases released_with_sequence u with ⟨n, hreleased, hseq⟩ | hsilent
  · have hkind : (Msg.replace (decide (u.stream = .official)) n text).kind = .replace := rfl
    rw [replaceFrame_sends hreleased hseq, runFrames_sends hreleased hseq,
      broadcast_roomLow (by rw [hkind]; nofun) (by rw [hkind]; exact le_rfl) hphase hroom]
  · rw [replaceFrame_silent hsilent, runFrames_silent hsilent, setQueue_same]

theorem retract_queued (u : TextUnit) (hphase : s.seq.phase = .run) (hroom : s.bus.queue.length < 20) :
    retract u s = setQueue (s.bus.queue ++ runFrames .retract u) s := by
  rcases released_with_sequence u with ⟨n, hreleased, hseq⟩ | hsilent
  · have hkind : (Msg.retract (decide (u.stream = .official)) n).kind = .retract := rfl
    rw [retract_sends hreleased hseq, runFrames_sends hreleased hseq,
      broadcast_roomLow (by rw [hkind]; nofun) (by rw [hkind]; exact le_rfl) hphase hroom]
  · rw [retract_silent hsilent, runFrames_silent hsilent, setQueue_same]

theorem foldl_retract_queued (us : List TextUnit) (hphase : s.seq.phase = .run)
    (hroom : s.bus.queue.length + us.length ≤ 20) :
    us.foldl (fun s u => retract u s) s = setQueue (s.bus.queue ++ us.flatMap (runFrames .retract)) s := by
  induction us generalizing s with
  | nil => exact setQueue_same.symm
  | cons u us ih =>
    rw [List.length_cons] at hroom
    have hone := runFrames_length Msg.retract u
    rw [List.foldl_cons, retract_queued u hphase (by omega),
      ih (s := setQueue (s.bus.queue ++ runFrames .retract u) s) hphase
        (by rw [setQueue_bus, List.length_append]; omega),
      setQueue_bus, List.flatMap_cons, ← List.append_assoc]
    rfl

/-- The frames of a run join the queue in order. -/
theorem run_frames_queued (u : TextUnit) (us : List TextUnit) (text : List Byte) (hphase : s.seq.phase = .run)
    (hroom : s.bus.queue.length + us.length + 1 ≤ 20) :
    us.foldl (fun s v => retract v s) (replaceFrame u text s) =
      setQueue (s.bus.queue ++ (runFrames (fun official n => .replace official n text) u ++
        us.flatMap (runFrames .retract))) s := by
  have hone := runFrames_length (fun official n => .replace official n text) u
  rw [replaceFrame_queued u text hphase (by omega)]
  generalize runFrames _ u = first at hone
  rw [foldl_retract_queued us (s := setQueue (s.bus.queue ++ first) s) hphase
    (by rw [setQueue_bus, List.length_append]; omega), setQueue_bus, List.append_assoc]
  rfl

end

/-! ### The replacement (R107) -/

section
variable {s : State} {pre post us : List TextUnit} {u : TextUnit} {outline : List KeySet} {text : List Byte}

theorem retranslate_noRun (hnone : newestRun s.translator.history (outline.map untranslate) = none) :
    retranslate outline text s = s := by
  unfold retranslate; dsimp only; rw [hnone]

/-- The history with a run replaced by one unit. -/
def replacedHistory (pre : List TextUnit) (u : TextUnit) (us post : List TextUnit) (text : List Byte) : List TextUnit :=
  pre ++ retranslated u (u :: us) text :: post

/-- The frames that replace a run. -/
def replacedFrames (u : TextUnit) (us : List TextUnit) (text : List Byte) : List TxFrame :=
  runFrames (fun official n => .replace official n (retranslated u (u :: us) text).text) u ++
    us.flatMap (runFrames .retract)

/-- A unit that replaces one of the same age and release state makes nothing due. -/
theorem nothingDue_replaced (hh : s.translator.history = pre ++ (u :: us) ++ post) (hdue : NothingDue s) {t : State}
    (hhistory : t.translator.history = replacedHistory pre u us post text) (hsettings : t.settings = s.settings)
    (hseq : t.seq = s.seq) : NothingDue t := by
  have hsame : ∀ v, due t v = due s v := fun v => by unfold due; rw [hsettings, hseq]
  intro v hv hheld
  rw [hhistory, replacedHistory, List.mem_append, List.mem_cons] at hv
  rw [hsame]
  rcases hv with hv | rfl | hv
  · exact hdue v (by rw [hh]; simp [hv]) hheld
  · exact hdue u (by rw [hh]; simp) hheld
  · exact hdue v (by rw [hh]; simp [hv]) hheld

/-- With room for its frames and nothing due, retranslation replaces the newest run, sends its frames and may set the
hold-back timer. -/
theorem retranslate_replaces (hh : s.translator.history = pre ++ (u :: us) ++ post)
    (hr : UntranRun (u :: us) outline)
    (hlast : ∀ pre' run' post', s.translator.history = pre' ++ run' ++ post' → UntranRun run' outline →
      pre'.length ≤ pre.length)
    (hphase : s.seq.phase = .run) (hroom : s.bus.queue.length + outline.length ≤ 20) (hdue : NothingDue s)
    (hfloor : s.floor.state ≠ .draining) :
    ∃ x, retranslate outline text s =
      { s with
        translator := { s.translator with history := replacedHistory pre u us post text }
        bus := { s.bus with queue := s.bus.queue ++ replacedFrames u us text }
        release := { s.release with holdTimer := x } } := by
  have hlength : us.length + 1 = outline.length := hr.length_eq
  have hnewest := newestRun_some hh hr hlast
  have hrun : (s.translator.history.drop pre.length).take (outline.map untranslate).length = u :: us := by
    rw [hh, List.append_assoc, List.drop_left, List.length_map, ← hr.length_eq, List.take_left]
  have hhistory : s.translator.history.take pre.length ++ [retranslated u (u :: us) text] ++
      s.translator.history.drop (pre.length + (outline.map untranslate).length) =
        replacedHistory pre u us post text := by
    rw [← List.drop_drop, hh, List.append_assoc pre, List.take_left, List.drop_left, List.length_map, ← hr.length_eq,
      List.drop_left, List.append_assoc]
    rfl
  have hframes := run_frames_queued u us (retranslated u (u :: us) text).text
    (s := setHistory (replacedHistory pre u us post text) s) hphase (by rw [setHistory_bus]; omega)
  unfold retranslate; dsimp only
  rw [hnewest]; dsimp only
  rw [hrun]; dsimp only
  rw [hhistory, hframes]
  generalize hm : setQueue _ (setHistory (replacedHistory pre u us post text) s) = m
  have hdrain : drainCheck m = m := by
    refine (drainCheck_checked m).1 ?_
    rintro ⟨hdraining, -⟩
    rw [← hm] at hdraining
    exact hfloor hdraining
  have hduem : NothingDue m := by
    rw [← hm]; exact nothingDue_replaced hh hdue rfl rfl rfl
  obtain ⟨x, hsettle⟩ := settle_none hduem
  rw [hdrain, hsettle, ← hm]
  split
  · split
    · exact ⟨x, rfl⟩
    · exact ⟨s.release.holdTimer, rfl⟩
  · exact ⟨s.release.holdTimer, rfl⟩

/-- The word that replaces a run is the one that the text's assembly gives (R107). -/
theorem PlainText.assembleStored_eq (h : PlainText text) (labels : List (List Byte)) (f : Formatting) :
    assembleEntry labels f text = some (assembleStored f text) ∧ (assembleStored f text).truncated = false := by
  have hparts : TextParts ([] ++ []) text [] :=
    ⟨nofun, fun b hb => .inl (h.2.1 b hb), fun _ => rfl, fun b hb => h.2.1 b (by
      rcases hb with hb | hb
      · exact List.mem_of_mem_head? hb
      · exact List.mem_of_getLast? hb)⟩
  have htokens : text.map tokenOf = text.map Token.lit :=
    List.map_congr_left fun b hb => if_pos (h.2.1 b hb)
  have hall : tokens text = text.map Token.lit := h.tokens_eq.trans htokens
  have hspoken : tokens text = spokenTokens [] [] [] text [] := by
    rw [h.tokens_eq]; unfold spokenTokens; simp
  have hword := hparts.assembleEntry_word noSpeaker h.1 hspoken labels f
  rw [← hspoken, hall] at hword
  refine ⟨hword, ?_⟩
  obtain ⟨a, ha, -, -, htruncated, -⟩ := h.assembleEntry_eq labels f
  rw [hword] at ha
  cases ha
  exact htruncated

end

/-! ### A definition stored (R96, R98) -/

/-- The RAM alone has changed. -/
def RamOnly (s t : State) : Prop := t = { s with port := { s.port with ramMem := t.port.ramMem } }

theorem RamOnly.refl (s : State) : RamOnly s s := rfl

theorem RamOnly.trans {s t u : State} (h : RamOnly s t) (k : RamOnly t u) : RamOnly s u := by
  unfold RamOnly at *; rw [k, h]

theorem overlayWrite_ramOnly (off : Nat) (bs : List Byte) (s : State) : RamOnly s (overlayWrite off bs s) := rfl

theorem writeHeader_ramOnly (c : OverlayCounts) (good : Bool) (s : State) : RamOnly s (writeHeader c good s) := rfl

theorem appendEntry_ramOnly (k : EntryKind) (outline : List KeySet) (text : List Byte) (count slot : Nat)
    (x : OverlayCounts × State) : RamOnly x.2 (appendEntry k outline text count slot x).2 :=
  (overlayWrite_ramOnly _ _ x.2).trans (overlayWrite_ramOnly _ _ _)

theorem createPrefix_ramOnly (p : List KeySet × Found) (x : OverlayCounts × State) :
    RamOnly x.2 (createPrefix p x).2 := by
  unfold createPrefix; split
  · exact appendEntry_ramOnly _ _ _ _ _ (_, x.2)
  · exact .refl x.2

theorem placeStored_ramOnly (p : List KeySet × Found) (text : List Byte) (x : OverlayCounts × State) :
    RamOnly x.2 (placeStored p text x).2 := by
  unfold placeStored; split
  · exact appendEntry_ramOnly _ _ _ _ _ x
  · exact appendEntry_ramOnly _ _ _ _ _ (_, x.2)
  · exact .refl x.2

theorem raisePrefix_ramOnly (v : Nat) (s : State) : RamOnly s (raisePrefix v s) :=
  (overlayWrite_ramOnly _ _ s).trans (overlayWrite_ramOnly _ _ _)

theorem foldl_createPrefix_ramOnly (plan : List (List KeySet × Found)) (x : OverlayCounts × State) :
    RamOnly x.2 (plan.foldl (fun x p => createPrefix p x) x).2 := by
  induction plan generalizing x with
  | nil => exact .refl x.2
  | cons p plan ih => exact (createPrefix_ramOnly p x).trans (ih _)

theorem foldl_raisePrefix_ramOnly (vs : List Nat) (s : State) :
    RamOnly s (vs.foldl (fun s v => raisePrefix v s) s) := by
  induction vs generalizing s with
  | nil => exact .refl s
  | cons v vs ih => exact (raisePrefix_ramOnly v s).trans (ih _)

theorem writeStore_ramOnly (plan : List (List KeySet × Found)) (text : List Byte) (s : State) :
    RamOnly s (writeStore plan text s) := by
  have hheader := writeHeader_ramOnly (readCounts s) false s
  unfold writeStore; dsimp only; split
  · exact hheader
  · rename_i o _
    have hplaced := (hheader.trans (foldl_createPrefix_ramOnly plan.dropLast (readCounts s, _))).trans
      (placeStored_ramOnly o text _)
    split
    · exact hplaced.trans (writeHeader_ramOnly _ _ _)
    · exact (hplaced.trans (foldl_raisePrefix_ramOnly _ _)).trans (writeHeader_ramOnly _ _ _)

/-- A definition stored, its DEFINE note handed and the stale mark set, before retranslation. -/
def storedOnly (a : Station) (outline : List KeySet) (text : List Byte) (s : State) : State :=
  setStale (handNote (.define true (outline.headD 0) (outlineHash outline) outline.length a)
    (writeStore (storePlan s outline) text s))

section
variable {s : State} {outline : List KeySet} {text : List Byte} {a : Station}

theorem applyPeer_stored (hne : text ≠ [])
    (h : storeRefused s (storePlan s outline) outline text.length = false) :
    applyPeer ⟨a, outline, text⟩ s = retranslate outline text (storedOnly a outline text s) := by
  unfold applyPeer storeDefinition; dsimp only
  rw [if_neg (by simpa using hne), h]; rfl

theorem applyPeer_refused (hne : text ≠ [])
    (h : storeRefused s (storePlan s outline) outline text.length = true) :
    applyPeer ⟨a, outline, text⟩ s = setFlag .overlayFull s := by
  unfold applyPeer storeDefinition; dsimp only
  rw [if_neg (by simpa using hne), h]; rfl

/-- What a store changes before retranslation: RAM, the notes path with the arbiter's grant, the status unit and the
stale mark. -/
theorem storedOnly_eq (a : Station) (outline : List KeySet) (text : List Byte) (s : State) :
    let t := storedOnly a outline text s
    t = { s with
      port := t.port, notes := t.notes, status := t.status, translator := { s.translator with stale := true } } := by
  have hram := writeStore_ramOnly (storePlan s outline) text s
  unfold storedOnly
  generalize writeStore (storePlan s outline) text s = m at hram
  rw [handNote_eq]
  unfold RamOnly at hram
  rw [hram]; rfl

end

theorem storePlan_frameEnded (f : LineFrame) (s : State) (outline : List KeySet) :
    storePlan (frameEnded f s) outline = storePlan s outline :=
  storePlan_congr (s := s) (t := frameEnded f s) rfl rfl outline

theorem storeRefused_frameEnded (f : LineFrame) (s : State) (plan : List (List KeySet × Found))
    (outline : List KeySet) (len : Nat) :
    storeRefused (frameEnded f s) plan outline len = storeRefused s plan outline len := by
  cases s; rfl

/-- A definition that is not refused is stored once its frame has ended. -/
theorem DefineApplies.stores {s : State} {f : LineFrame} {a : Station} {outline : List KeySet} {text : List Byte}
    (h : DefineApplies s f a outline text) (hne : text ≠ [])
    (hfits : storeRefused s (storePlan s outline) outline text.length = false) :
    exec (.defineReceived f) s = .next (retranslate outline text (storedOnly a outline text (frameEnded f s))) := by
  rw [h.arrives, applyPeer_stored hne (by rw [storePlan_frameEnded, storeRefused_frameEnded]; exact hfits)]

/-! ### The statement -/

/-- Settles O33: an untranslate text by its parts, and a definition stored by its retranslation. -/
theorem untranslateTextDeterminesKeys : Obligations.UntranslateTextDeterminesKeys := by
  refine ⟨fun _ _ => untranslate_injective, fun k hk => ?_, ?_⟩
  · obtain ⟨hlow, hhigh⟩ := untranslate_length hk
    exact ⟨hlow, hhigh, fun b => untranslate_printable⟩
  · rintro s f a outline text happlies hne hfits hdue ⟨hphase, -⟩ hroom hfloor
    refine ⟨_, happlies.stores hne hfits, ?_⟩
    have hplain : PlainText text := by
      obtain ⟨-, -, -, -, -, -, -, -, h120, htext⟩ := happlies
      exact ⟨hne, htext, h120⟩
    have hstored := storedOnly_eq a outline text (frameEnded f s)
    generalize storedOnly a outline text (frameEnded f s) = m at hstored ⊢
    dsimp only at hstored
    have htranslator : m.translator = { s.translator with stale := true } := by rw [hstored]; rfl
    have hbus : m.bus.queue = s.bus.queue := by rw [hstored]; rfl
    have hrelease : m.release = s.release := by rw [hstored]; rfl
    have hsettings : m.settings = s.settings := by rw [hstored]; rfl
    have hseq : m.seq = s.seq := by rw [hstored]; rfl
    have hstands : m.floor = s.floor := by rw [hstored]; rfl
    have hhistory : m.translator.history = s.translator.history := by rw [htranslator]
    refine ⟨fun hnone => ?_, fun pre u us post hh hr hlast => ?_⟩
    · rw [retranslate_noRun (by rw [hhistory]; exact newestRun_none hnone)]
      exact ⟨htranslator, hbus, hrelease⟩
    · obtain ⟨hassembled, htruncated⟩ := hplain.assembleStored_eq s.settings.labels u.snapshot
      refine ⟨_, hassembled, ?_⟩
      obtain ⟨x, hreplaced⟩ := retranslate_replaces (text := text) (hhistory.trans hh) hr
        (fun pre' run' post' h => hlast pre' run' post' (hhistory.symm.trans h))
        (by rw [hseq]; exact hphase) (by rw [hbus]; exact hroom) (hdue.of_eq hhistory hsettings hseq)
        (by rw [hstands]; exact hfloor)
      rw [hreplaced]
      refine ⟨?_, ?_, ?_⟩
      · dsimp only
        rw [htranslator, ← htruncated]; rfl
      · dsimp only
        rw [hbus, List.append_assoc]; rfl
      · dsimp only
        rw [hrelease]

end Sys2Proof.Machine
end

section
/-! PROOFS. What a store finds (R94): the outlines in their order, free slots of which no two are the same, and entries
by the slots that hold their offsets. -/

namespace Sys2Proof.Machine

/-! ### Free slots (R94) -/

/-- A slot of the array that is not taken and holds no offset. -/
def IsFree (s : State) (taken : List Nat) (j : Nat) : Prop :=
  j < overlaySlots s ∧ j ∉ taken ∧ (slotValue s j = emptySlot ∨ slotValue s j = deletedSlot)

section
variable {s : State} {outline : List KeySet} {taken : List Nat} {n i j : Nat} {free : Option Nat}

theorem isFree_or (hfree : ∀ j, free = some j → IsFree s taken j) (hi : IsFree s taken i) :
    ∀ j, (free <|> some i) = some j → IsFree s taken j := by
  intro j hj
  cases free with
  | none => cases hj; exact hi
  | some k => exact hfree j hj

/-- A search that finds no entry gives a free slot, if any. -/
theorem findFrom_free (hi : i < overlaySlots s) (hfree : ∀ j, free = some j → IsFree s taken j)
    (h : findFrom s outline taken n i free = .absent (some j)) : IsFree s taken j := by
  induction n generalizing i free with
  | zero => exact hfree j (Found.absent.inj h)
  | succ n ih =>
    have hnext : nextSlot (overlaySlots s) i < overlaySlots s := Nat.mod_lt _ (by omega)
    unfold findFrom at h
    dsimp only at h
    split at h
    · exact ih hnext hfree h
    · rename_i htaken
      have hnot : i ∉ taken := by simpa using htaken
      split at h
      · rename_i hempty
        exact isFree_or hfree ⟨hi, hnot, .inl hempty⟩ j (Found.absent.inj h)
      · split at h
        · rename_i hdeleted
          exact ih hnext (isFree_or hfree ⟨hi, hnot, .inr hdeleted⟩) h
        · split at h
          · cases h
          · exact ih hnext hfree h

theorem findOutline_free (h : findOutline s outline taken = .absent (some j)) : IsFree s taken j :=
  findFrom_free (Nat.mod_lt _ (Nat.two_pow_pos _)) (free := none) (by rintro _ ⟨⟩) h

end

/-! ### The searches in their order -/

section
variable {s : State} {os : List (List KeySet)} {taken : List Nat}

theorem slotsTaken_cons_some (o : List KeySet) (j : Nat) (plan : List (List KeySet × Found)) :
    slotsTaken ((o, .absent (some j)) :: plan) = j :: slotsTaken plan := rfl

theorem findAll_map_fst (os : List (List KeySet)) (taken : List Nat) : (findAll s os taken).map Prod.fst = os := by
  induction os generalizing taken with
  | nil => rfl
  | cons o os ih => unfold findAll; dsimp only; rw [List.map_cons, ih]

theorem mem_findAll {p : List KeySet × Found} (h : p ∈ findAll s os taken) :
    ∃ taken', p.2 = findOutline s p.1 taken' := by
  induction os generalizing taken with
  | nil => cases h
  | cons o os ih =>
    unfold findAll at h
    rcases List.mem_cons.1 h with rfl | h
    · exact ⟨taken, rfl⟩
    · exact ih h

/-- The slots taken are free, and no two are the same. -/
theorem slotsTaken_findAll (os : List (List KeySet)) (taken : List Nat) :
    (∀ j ∈ slotsTaken (findAll s os taken), IsFree s taken j) ∧ (slotsTaken (findAll s os taken)).Nodup := by
  induction os generalizing taken with
  | nil => exact ⟨nofun, List.nodup_nil⟩
  | cons o os ih =>
    unfold findAll; dsimp only
    cases hfound : findOutline s o taken with
    | entry i v => exact ih taken
    | absent free =>
      cases free with
      | none => exact ih taken
      | some j =>
        obtain ⟨hfree, hnodup⟩ := ih (j :: taken)
        rw [slotsTaken_cons_some]
        refine ⟨fun i hi => ?_, List.nodup_cons.2 ⟨fun hj => ?_, hnodup⟩⟩
        · rcases List.mem_cons.1 hi with rfl | hi
          · exact findOutline_free hfound
          · obtain ⟨hlt, hnot, hvalue⟩ := hfree i hi
            exact ⟨hlt, fun h => hnot (List.mem_cons_of_mem j h), hvalue⟩
        · obtain ⟨-, hnot, -⟩ := hfree j hj
          exact hnot List.mem_cons_self

end

/-! ### The plan of a store -/

section
variable {s : State} {outline : List KeySet}

/-- The order of the searches is that of the plan but for its last, and backwards. -/
theorem storePlan_reverse :
    ∃ o rest, (findAll s ((properPrefixes outline).reverse ++ [outline]) []).reverse = o :: rest ∧
      storePlan s outline = rest ++ [o] := by
  have hlength : (findAll s ((properPrefixes outline).reverse ++ [outline]) []).length ≠ 0 := by
    rw [← List.length_map (f := Prod.fst), findAll_map_fst]; simp
  unfold storePlan
  cases h : (findAll s ((properPrefixes outline).reverse ++ [outline]) []).reverse with
  | nil => exact absurd (congrArg List.length (List.reverse_eq_nil_iff.1 h)) hlength
  | cons o rest => exact ⟨o, rest, rfl, rfl⟩

theorem storePlan_perm :
    (storePlan s outline).Perm (findAll s ((properPrefixes outline).reverse ++ [outline]) []) := by
  obtain ⟨o, rest, hfound, hplan⟩ := storePlan_reverse (s := s) (outline := outline)
  rw [hplan]
  exact (List.perm_append_singleton o rest).trans (hfound ▸ List.reverse_perm _)

theorem storePlan_map_fst : (storePlan s outline).map Prod.fst = properPrefixes outline ++ [outline] := by
  obtain ⟨o, rest, hfound, hplan⟩ := storePlan_reverse (s := s) (outline := outline)
  have houtlines := congrArg (List.map Prod.fst) hfound
  rw [List.map_reverse, findAll_map_fst, List.reverse_append, List.reverse_reverse, List.reverse_singleton,
    List.singleton_append, List.map_cons] at houtlines
  obtain ⟨ho, hrest⟩ := List.cons.inj houtlines
  rw [hplan, List.map_append, List.map_singleton, ← ho, ← hrest]

end

/-- The slot that a search comes to. -/
def Found.slot : Found → Nat
  | .entry i _ => i
  | .absent free => free.getD 0

/-- What the plan of a store says of a state: its slots are of the array, those taken hold no offset and are not the
same, and those of entries hold their offsets. -/
structure PlanSound (s : State) (r : Region) (plan : List (List KeySet × Found)) : Prop where
  outlines : (plan.map Prod.fst).Nodup
  strokes : ∀ p ∈ plan, 1 ≤ p.1.length ∧ p.1.length ≤ 8
  taken : ∀ i ∈ slotsTaken plan, i < 2 ^ s.settings.overlayLog2 ∧ 0xFFFFFFFE ≤ slotHolds s r i
  nodup : (slotsTaken plan).Nodup
  entry : ∀ p i v, (p, Found.entry i v) ∈ plan →
    i < 2 ^ s.settings.overlayLog2 ∧ slotHolds s r i = v ∧ v < 0xFFFFFFFE

theorem mem_slotsTaken {plan : List (List KeySet × Found)} {i : Nat} :
    i ∈ slotsTaken plan ↔ ∃ p, (p, Found.absent (some i)) ∈ plan := by
  unfold slotsTaken
  rw [List.mem_filterMap]
  constructor
  · rintro ⟨⟨p, found⟩, hp, hfound⟩
    cases found with
    | entry j v => cases hfound
    | absent free => cases hfound; exact ⟨p, hp⟩
  · rintro ⟨p, hp⟩
    exact ⟨_, hp, rfl⟩

section
variable {s : State} {r : Region} {used : Nat} {outline : List KeySet} {plan : List (List KeySet × Found)}

theorem mem_properPrefixes_length {p : List KeySet} (h : p ∈ properPrefixes outline) : 1 ≤ p.length := by
  obtain ⟨n, hn, rfl⟩ := List.mem_map.1 h
  have hn := List.mem_range.1 hn
  rw [List.length_take]; omega

theorem storePlan_sound (ho : OverlayOpen s r used) (h1 : 1 ≤ outline.length) (h8 : outline.length ≤ 8) :
    PlanSound s r (storePlan s outline) := by
  obtain ⟨hfree, hnodup⟩ := slotsTaken_findAll (s := s) ((properPrefixes outline).reverse ++ [outline]) []
  have hperm := storePlan_perm (s := s) (outline := outline)
  have htaken : (slotsTaken (storePlan s outline)).Perm (slotsTaken (findAll s _ [])) := hperm.filterMap _
  refine ⟨?_, fun p hp => ?_, fun i hi => ?_, htaken.nodup_iff.2 hnodup, fun p i v hp => ?_⟩
  · rw [storePlan_map_fst]
    refine List.nodup_append.2 ⟨properPrefixes_nodup outline, List.nodup_singleton _, fun p hp q hq h => ?_⟩
    rw [List.mem_singleton.1 hq] at h
    exact (length_lt_of_mem_properPrefixes hp).ne (congrArg List.length h)
  · have hmem : p.1 ∈ properPrefixes outline ++ [outline] := by
      rw [← storePlan_map_fst (s := s)]; exact List.mem_map_of_mem hp
    rcases List.mem_append.1 hmem with h | h
    · have := length_lt_of_mem_properPrefixes h
      exact ⟨mem_properPrefixes_length h, by omega⟩
    · rw [List.mem_singleton.1 h]; exact ⟨h1, h8⟩
  · obtain ⟨hlt, -, hvalue⟩ := hfree i (htaken.mem_iff.1 hi)
    rw [ho.slotValue_eq hlt] at hvalue
    unfold emptySlot deletedSlot at hvalue
    exact ⟨hlt, by omega⟩
  · obtain ⟨taken, hfound⟩ := mem_findAll (hperm.mem_iff.1 hp)
    exact ho.found_slot hfound.symm

/-- No two outlines of a plan come to the same slot. -/
theorem PlanSound.slots_nodup (h : PlanSound s r plan) (hplaces : ∀ p, (p, Found.absent none) ∉ plan)
    (hstand : ∀ p i v, (p, Found.entry i v) ∈ plan → ∃ k t c, EntryStands s r used v k p t c) :
    (plan.map fun p => p.2.slot).Nodup := by
  have houtlines := List.pairwise_map.1 h.outlines
  have hfree := List.pairwise_filterMap.1 h.nodup
  refine List.pairwise_map.2 ((houtlines.and hfree).imp_of_mem ?_)
  rintro ⟨p, found⟩ ⟨q, found'⟩ hp hq ⟨hne, hapart⟩ heq
  dsimp only at hne heq hapart
  have hmixed : ∀ {p q i v j}, (p, Found.entry i v) ∈ plan → (q, Found.absent (some j)) ∈ plan → i ≠ j := by
    rintro p q i v j hentry habsent rfl
    obtain ⟨-, hholds, hlt⟩ := h.entry p i v hentry
    obtain ⟨-, hge⟩ := h.taken i (mem_slotsTaken.2 ⟨q, habsent⟩)
    omega
  cases found with
  | entry i v =>
    cases found' with
    | entry j w =>
      obtain ⟨-, hi, -⟩ := h.entry p i v hp
      obtain ⟨-, hj, -⟩ := h.entry q j w hq
      obtain rfl : i = j := heq
      obtain rfl : v = w := hi.symm.trans hj
      obtain ⟨k, t, c, he⟩ := hstand p i v hp
      obtain ⟨k', t', c', he'⟩ := hstand q i v hq
      exact hne (he.unique he').2.1
    | absent free =>
      cases free with
      | none => exact hplaces q hq
      | some j => exact hmixed hp hq heq
  | absent free =>
    cases free with
    | none => exact hplaces p hp
    | some i =>
      cases found' with
      | entry j w => exact hmixed hq hp heq.symm
      | absent free' =>
        cases free' with
        | none => exact hplaces q hq
        | some j => exact hapart i rfl j rfl heq

end

end Sys2Proof.Machine
end

section
/-! PROOFS. An entry appended to the overlay's heap, and the missing prefixes of an outline created one behind another
(R90, R93, R96 step 1). -/

namespace Sys2Proof.Machine

/-! ### Entries and slots under a change -/

section
variable {s t : State} {P : Nat → Prop} {r : Region} {used used' v count i : Nat} {k : EntryKind}
  {outline : List KeySet} {text : List Byte}

theorem EntryStands.mono (he : EntryStands s r used v k outline text count) (h : used ≤ used') :
    EntryStands s r used' v k outline text count := by
  obtain ⟨h1, h8, h120, h255, hused, hbytes⟩ := he
  exact ⟨h1, h8, h120, h255, hused.trans h, hbytes⟩

theorem EntryStands.end_le (he : EntryStands s r used v k outline text count) : v + entrySpan outline text ≤ used := by
  obtain ⟨-, -, -, -, hused, -⟩ := he
  exact hused

/-- The overlay with its used end elsewhere in the heap. -/
theorem OverlayOpen.at (ho : OverlayOpen s r used) (h : used' ≤ s.settings.overlayHeap * 1024) :
    OverlayOpen s r used' :=
  ⟨ho.toOverlayRegion, ho.log, h, ho.room, ho.wf⟩

/-- A slot holds an offset at which an entry stands. -/
def Placed (s : State) (r : Region) (used i v : Nat) (k : EntryKind) (outline : List KeySet) (text : List Byte)
    (count : Nat) : Prop :=
  slotHolds s r i = v ∧ EntryStands s r used v k outline text count

theorem Placed.mono (h : Placed s r used i v k outline text count) (hused : used ≤ used') :
    Placed s r used' i v k outline text count :=
  ⟨h.1, h.2.mono hused⟩

theorem RamChange.placed (h : RamChange s t P) (hp : ∀ x, InSlot r i x ∨ InEntry s r v outline text x → ¬ P x)
    (hs : Placed s r used i v k outline text count) : Placed t r used i v k outline text count :=
  ⟨(h.slotHolds_eq fun x hx => hp x (.inl hx)).trans hs.1, h.entryStands (fun x hx => hp x (.inr hx)) hs.2⟩

/-! ### A heap that is sound (R90, R93) -/

/-- A slot of the array that holds an offset. -/
def Holds (s : State) (r : Region) (i : Nat) : Prop := i < 2 ^ s.settings.overlayLog2 ∧ slotHolds s r i < 0xFFFFFFFE

/-- Two spans of the heap share no byte. -/
def Apart (v : Nat) (outline : List KeySet) (text : List Byte) (w : Nat) (outline' : List KeySet)
    (text' : List Byte) : Prop :=
  v + entrySpan outline text ≤ w ∨ w + entrySpan outline' text' ≤ v

/-- For soundness one entry at each slot will do, since what stands at an offset is one entry. -/
theorem HeapSound.intro
    (hstand : ∀ i, Holds s r i → ∃ k o text count, EntryStands s r used (slotHolds s r i) k o text count)
    (hapart : ∀ i j, Holds s r i → Holds s r j → i ≠ j → ∃ k o text count k' o' text' count',
      EntryStands s r used (slotHolds s r i) k o text count ∧
      EntryStands s r used (slotHolds s r j) k' o' text' count' ∧
      Apart (slotHolds s r i) o text (slotHolds s r j) o' text') : HeapSound s r used := by
  refine ⟨hstand, fun i j hi hj hij k o text count k' o' text' count' he he' => ?_⟩
  obtain ⟨k₁, o₁, text₁, count₁, k₂, o₂, text₂, count₂, he₁, he₂, hor⟩ := hapart i j hi hj hij
  obtain ⟨-, rfl, rfl, -⟩ := he.unique he₁
  obtain ⟨-, rfl, rfl, -⟩ := he'.unique he₂
  exact hor

theorem HeapSound.stands (h : HeapSound s r used) (hi : Holds s r i) :
    ∃ k o text count, EntryStands s r used (slotHolds s r i) k o text count :=
  h.1 i hi

theorem HeapSound.apart (h : HeapSound s r used) {j count' : Nat} {k' : EntryKind} {outline' : List KeySet}
    {text' : List Byte} (hi : Holds s r i) (hj : Holds s r j) (hij : i ≠ j)
    (he : EntryStands s r used (slotHolds s r i) k outline text count)
    (he' : EntryStands s r used (slotHolds s r j) k' outline' text' count') :
    Apart (slotHolds s r i) outline text (slotHolds s r j) outline' text' :=
  h.2 i j hi hj hij _ _ _ _ _ _ _ _ he he'

/-- A change before the slot array leaves slots and entries. -/
theorem RamChange.slot_eq_of_header (h : RamChange s t P) (hp : ∀ x, P x → x < r.base + 16) (i : Nat) :
    slotHolds t r i = slotHolds s r i :=
  h.slotHolds_eq fun x hx hPx => by
    have := hp x hPx
    unfold InSlot slotPlace at hx; omega

theorem RamChange.entry_of_header (h : RamChange s t P) (hp : ∀ x, P x → x < r.base + 16)
    (he : EntryStands s r used v k outline text count) : EntryStands t r used v k outline text count :=
  h.entryStands (fun x hx hPx => by
    have := hp x hPx
    unfold InEntry heapPlace at hx; omega) he

/-- A change before the slot array leaves the heap sound. -/
theorem RamChange.heapSound (h : RamChange s t P) (hp : ∀ x, P x → x < r.base + 16) (hh : HeapSound s r used) :
    HeapSound t r used := by
  have hslot := h.slot_eq_of_header hp
  have hholds : ∀ i, Holds t r i → Holds s r i := fun i hi => by
    unfold Holds at hi; rwa [hslot, h.settings] at hi
  refine .intro (fun i hi => ?_) fun i j hi hj hij => ?_
  · obtain ⟨k, o, text, count, he⟩ := hh.stands (hholds i hi)
    rw [hslot]
    exact ⟨k, o, text, count, h.entry_of_header hp he⟩
  · obtain ⟨k, o, text, count, he⟩ := hh.stands (hholds i hi)
    obtain ⟨k', o', text', count', he'⟩ := hh.stands (hholds j hj)
    rw [hslot, hslot]
    exact ⟨k, o, text, count, k', o', text', count', h.entry_of_header hp he, h.entry_of_header hp he',
      hh.apart (hholds i hi) (hholds j hj) hij he he'⟩

end

/-! ### One entry appended (R96 steps 1 and 2) -/

section
variable {s : State} {r : Region} {count i : Nat} {c : OverlayCounts} {k : EntryKind} {outline : List KeySet}
  {text : List Byte}

/-- The bytes of an entry are those that stand for it, and padding. -/
theorem entryBytes_eq (k : EntryKind) (outline : List KeySet) (text : List Byte) (count : Nat) :
    ∃ padding, entryBytes k outline text count =
        [BitVec.ofNat 8 k.code, BitVec.ofNat 8 outline.length] ++ outline.flatMap (fun o => beBytes 3 o.toNat) ++
          [BitVec.ofNat 8 text.length] ++ text ++ [BitVec.ofNat 8 count] ++ padding ∧
      (entryBytes k outline text count).length = entrySpan outline text := by
  have hone : ∀ n, beBytes 1 n = [BitVec.ofNat 8 n] := fun n => by simp [beBytes]
  have hflat : (outline.flatMap fun k => beBytes 3 k.toNat).length = 3 * outline.length :=
    flatMap_beBytes_length 3 outline
  have hsize : entrySize outline.length text.length = entrySpan outline text := rfl
  have hspan := le_entrySpan outline text
  unfold entryBytes; dsimp only
  rw [hone, hone, hone, hone, hsize]
  refine ⟨_, rfl, ?_⟩
  simp only [List.length_append, List.length_singleton, List.length_replicate, hflat]
  omega

/-- The entry at the used end, its slot, and nothing else. -/
def AppendPlace (s : State) (r : Region) (i v : Nat) (outline : List KeySet) (text : List Byte) (x : Nat) : Prop :=
  InSlot r i x ∨ InEntry s r v outline text x

section
variable (ho : OverlayOpen s r (c.used + entrySpan outline text)) (hheap : s.settings.overlayHeap ≤ 256)
  (hi : i < 2 ^ s.settings.overlayLog2) (h1 : 1 ≤ outline.length) (h8 : outline.length ≤ 8) (h120 : text.length ≤ 120)
  (h255 : count ≤ 255)
include ho hheap hi h1 h8 h120 h255

/-- An entry appended stands at the former used end, and its slot holds that offset. -/
theorem OverlayOpen.appendEntry_spec :
    let y := appendEntry k outline text count i (c, s)
    RamChange s y.2 (AppendPlace s r i c.used outline text) ∧
      y.1 = { c with used := c.used + entrySpan outline text } ∧
      Placed y.2 r (c.used + entrySpan outline text) i c.used k outline text count := by
  have hlog := ho.log
  have hroom := ho.room
  have hend := ho.heap
  have hspan := le_entrySpan outline text
  obtain ⟨padding, hbytes, hlength⟩ := entryBytes_eq k outline text count
  have hplace : r.base + (overlayHeapBase s + c.used) = heapPlace s r c.used := by
    unfold overlayHeapBase overlaySlots heapPlace; omega
  have hbase : overlayHeapBase s = 16 + 4 * 2 ^ s.settings.overlayLog2 := rfl
  have hin : overlayHeapBase s + c.used + (entryBytes k outline text count).length ≤ r.size := by omega
  have hsome : 1 ≤ (entryBytes k outline text count).length := by omega
  -- the entry's bytes
  have hwrite := ho.write_change hsome hin
  have hread := ho.readBytes_write ho.wf hsome hin
  have hentry : EntryStands (overlayWrite (overlayHeapBase s + c.used) (entryBytes k outline text count) s) r
      (c.used + entrySpan outline text) c.used k outline text count := by
    refine ⟨h1, h8, h120, h255, le_rfl, ?_⟩
    rw [hplace, hlength] at hread
    rw [hwrite.heapPlace_eq]
    generalize overlayWrite (overlayHeapBase s + c.used) (entryBytes k outline text count) s = w at hread ⊢
    have htake := Memory.readBytes_add w.port.ramMem (heapPlace s r c.used)
      (4 + 3 * outline.length + text.length) (entrySpan outline text - (4 + 3 * outline.length + text.length))
    rw [Nat.add_sub_cancel' hspan, hread, hbytes] at htake
    have hflat : (outline.flatMap fun k => beBytes 3 k.toNat).length = 3 * outline.length :=
      flatMap_beBytes_length 3 outline
    refine (List.append_inj_left htake ?_).symm
    unfold Memory.readBytes
    simp only [List.length_append, List.length_cons, List.length_nil, List.length_map, List.length_range, hflat]
    omega
  rw [hplace, hlength] at hwrite
  -- its slot
  have ho' := hwrite.opened ho
  have hslotLength : (beBytes 4 c.used).length = 4 := beBytes_length _ _
  have hslotPlace : r.base + (16 + 4 * i) = slotPlace r i := by unfold slotPlace; omega
  have hslot := ho'.write_change (off := 16 + 4 * i) (bs := beBytes 4 c.used) (by omega) (by omega)
  have hslotRead := ho'.readBytes_write (off := 16 + 4 * i) (bs := beBytes 4 c.used) ho'.wf (by omega) (by omega)
  rw [hslotPlace, hslotLength] at hslot hslotRead
  refine ⟨(hwrite.trans hslot).mono fun x => Or.symm, rfl, ?_, ?_⟩
  · unfold slotHolds appendEntry writeSlotValue
    rw [hslotRead, ← List.nil_append (beBytes _ _), ← List.append_nil ([] ++ _)]
    exact fieldAt_beBytes rfl (by omega)
  · refine hslot.entryStands (fun x hx hx' => ?_) hentry
    exact InSlot.not_inEntry (s := s) hi hx' (by rwa [hwrite.inEntry_eq] at hx)

/-- An entry appended leaves the heap sound. -/
theorem OverlayOpen.appendEntry_sound (hh : HeapSound s r c.used) :
    HeapSound (appendEntry k outline text count i (c, s)).2 r (c.used + entrySpan outline text) := by
  obtain ⟨hchange, -, hslot, hentry⟩ := ho.appendEntry_spec (k := k) hheap hi h1 h8 h120 h255
  generalize (appendEntry k outline text count i (c, s)).2 = t at hchange hslot hentry
  have hother : ∀ j, j ≠ i → j < 2 ^ s.settings.overlayLog2 → slotHolds t r j = slotHolds s r j := fun j hji hj =>
    hchange.slotHolds_eq fun x hx => by
      rintro (hx' | hx')
      · unfold InSlot slotPlace at hx hx'; omega
      · exact hx.not_inEntry hj hx'
  have hkept : ∀ {v k o text' count'}, EntryStands s r c.used v k o text' count' →
      EntryStands t r (c.used + entrySpan outline text) v k o text' count' := fun he =>
    (hchange.entryStands (fun x hx => by
      have hend := he.end_le
      rintro (hx' | hx')
      · exact hx'.not_inEntry hi hx
      · unfold InEntry heapPlace at hx hx'; omega) he).mono (Nat.le_add_right _ _)
  have hholds : ∀ j, j ≠ i → Holds t r j → Holds s r j ∧ slotHolds t r j = slotHolds s r j := fun j hji ⟨hj, hlt⟩ => by
    rw [hchange.settings] at hj
    have heq := hother j hji hj
    exact ⟨⟨hj, heq ▸ hlt⟩, heq⟩
  have hstand' : ∀ j, Holds t r j → j ≠ i → ∃ k o text' count',
      EntryStands t r (c.used + entrySpan outline text) (slotHolds t r j) k o text' count' ∧
        slotHolds t r j + entrySpan o text' ≤ c.used := fun j hj hji => by
    obtain ⟨hj, heq⟩ := hholds j hji hj
    obtain ⟨k, o, text', count', he⟩ := hh.stands hj
    rw [heq]
    exact ⟨k, o, text', count', hkept he, he.end_le⟩
  refine .intro (fun j hj => ?_) fun j l hj hl hjl => ?_
  · by_cases hji : j = i
    · subst hji; rw [hslot]; exact ⟨k, outline, text, count, hentry⟩
    · obtain ⟨k, o, text', count', he, -⟩ := hstand' j hj hji
      exact ⟨k, o, text', count', he⟩
  · by_cases hji : j = i
    · obtain ⟨k', o, text', count', he, hend⟩ := hstand' l hl (hji ▸ hjl.symm)
      subst hji; rw [hslot]
      exact ⟨k, outline, text, count, k', o, text', count', hentry, he, .inr hend⟩
    · obtain ⟨k₁, o₁, text₁, count₁, he₁, hend₁⟩ := hstand' j hj hji
      by_cases hli : l = i
      · subst hli; rw [hslot]
        exact ⟨k₁, o₁, text₁, count₁, k, outline, text, count, he₁, hentry, .inl hend₁⟩
      · obtain ⟨hj, hjeq⟩ := hholds j hji hj
        obtain ⟨hl, hleq⟩ := hholds l hli hl
        obtain ⟨k₁, o₁, text₁, count₁, he₁⟩ := hh.stands hj
        obtain ⟨k₂, o₂, text₂, count₂, he₂⟩ := hh.stands hl
        rw [hjeq, hleq]
        exact ⟨k₁, o₁, text₁, count₁, k₂, o₂, text₂, count₂, hkept he₁, hkept he₂,
          hh.apart hj hl hjl he₁ he₂⟩

end

end

end Sys2Proof.Machine
end

section
/-! PROOFS. The writes of a store in the overlay, one part behind another: the missing prefixes, the outline's new
entry, and the counts of its prefixes raised (R93, R96). -/

namespace Sys2Proof.Machine

/-- The counts once n entries, d of them in deleted slots, have been appended in so many bytes (R96). -/
def OverlayCounts.created (c : OverlayCounts) (bytes n d : Nat) : OverlayCounts :=
  ⟨c.used + bytes, c.live + n, c.deleted - d⟩

theorem OverlayCounts.created_created (c : OverlayCounts) (b n d b' n' d' : Nat) :
    (c.created b n d).created b' n' d' = c.created (b + b') (n + n') (d + d') := by
  simp [OverlayCounts.created, Nat.sub_sub, Nat.add_assoc]

/-- An address between two offsets of the heap. -/
def InHeap (s : State) (r : Region) (v w x : Nat) : Prop := heapPlace s r v ≤ x ∧ x < heapPlace s r w

/-- The deleted mark in a slot. -/
def isDeleted (s : State) (r : Region) (i : Nat) : Bool := slotHolds s r i == 0xFFFFFFFE

/-! ### An entry in a free slot -/

/-- An entry appended in a free slot, with the counts that follow. -/
def createEntry (k : EntryKind) (outline : List KeySet) (text : List Byte) (slot : Nat) (x : OverlayCounts × State) :
    OverlayCounts × State :=
  appendEntry k outline text 0 slot (countCreated x.2 slot x.1, x.2)

section
variable {s : State} {r : Region} {i : Nat} {c : OverlayCounts} {k : EntryKind} {outline : List KeySet}
  {text : List Byte}

theorem OverlayOpen.countCreated_eq {used : Nat} (ho : OverlayOpen s r used)
    (hi : i < 2 ^ s.settings.overlayLog2) :
    countCreated s i c = c.created 0 1 (if isDeleted s r i then 1 else 0) := by
  unfold countCreated OverlayCounts.created isDeleted deletedSlot
  rw [ho.slotValue_eq hi]
  simp only [beq_iff_eq]
  split <;> rfl

theorem OverlayOpen.createEntry_spec (ho : OverlayOpen s r (c.used + entrySpan outline text))
    (hheap : s.settings.overlayHeap ≤ 256) (hi : i < 2 ^ s.settings.overlayLog2) (h1 : 1 ≤ outline.length)
    (h8 : outline.length ≤ 8) (h120 : text.length ≤ 120) (hh : HeapSound s r c.used) :
    let y := createEntry k outline text i (c, s)
    RamChange s y.2 (AppendPlace s r i c.used outline text) ∧
      y.1 = c.created (entrySpan outline text) 1 (if isDeleted s r i then 1 else 0) ∧
      Placed y.2 r (c.used + entrySpan outline text) i c.used k outline text 0 ∧
      HeapSound y.2 r (c.used + entrySpan outline text) := by
  have hcounts := ho.countCreated_eq hi (c := c)
  unfold createEntry; dsimp only
  rw [hcounts]
  generalize (if isDeleted s r i then 1 else 0) = d
  obtain ⟨hchange, hnew, hplaced⟩ := OverlayOpen.appendEntry_spec (c := c.created 0 1 d) (k := k) ho hheap hi h1 h8 h120
    (Nat.zero_le 255)
  refine ⟨hchange, hnew, hplaced, ?_⟩
  exact OverlayOpen.appendEntry_sound (c := c.created 0 1 d) (k := k) ho hheap hi h1 h8 h120 (Nat.zero_le 255) hh

end

/-! ### The missing prefixes (R96 step 1) -/

section
variable {p : List KeySet} {ps : List (List KeySet × Found)}

theorem prefixBytes_cons_entry (p : List KeySet) (i v : Nat) (ps : List (List KeySet × Found)) :
    prefixBytes ((p, .entry i v) :: ps) = prefixBytes ps := by
  simp [prefixBytes, Found.isAbsent]

theorem prefixBytes_cons_absent (p : List KeySet) (free : Option Nat) (ps : List (List KeySet × Found)) :
    prefixBytes ((p, .absent free) :: ps) = entrySpan p [] + prefixBytes ps := by
  simp [prefixBytes, Found.isAbsent]

/-- The outlines of a plan of which none was found. -/
def absentCount (ps : List (List KeySet × Found)) : Nat := ps.countP fun p => p.2.isAbsent

theorem createPrefix_entry (i v : Nat) (x : OverlayCounts × State) : createPrefix (p, .entry i v) x = x := rfl

theorem createPrefix_absent (i : Nat) (x : OverlayCounts × State) :
    createPrefix (p, .absent (some i)) x = createEntry .cont p [] i x := rfl

/-- What the prefixes of a plan leave once the missing ones are created: each stands behind those before it, and its
slot holds its offset. -/
def PrefixesPlaced (t : State) (r : Region) (used : Nat) (ps : List (List KeySet × Found)) : Prop :=
  ∀ before p i after, ps = before ++ (p, Found.absent (some i)) :: after →
    Placed t r (used + prefixBytes ps) i (used + prefixBytes before) .cont p [] 0

theorem prefixesPlaced_cons_entry {t : State} {r : Region} {used i v : Nat} (h : PrefixesPlaced t r used ps) :
    PrefixesPlaced t r used ((p, .entry i v) :: ps) := by
  intro before q j after hsplit
  rw [prefixBytes_cons_entry]
  cases before with
  | nil => cases hsplit
  | cons b before =>
    obtain ⟨rfl, hrest⟩ := List.cons.inj hsplit
    rw [prefixBytes_cons_entry]
    exact h before q j after hrest

theorem prefixesPlaced_cons_absent {t : State} {r : Region} {used i : Nat}
    (hfirst : Placed t r (used + prefixBytes ((p, .absent (some i)) :: ps)) i used .cont p [] 0)
    (h : PrefixesPlaced t r (used + entrySpan p []) ps) :
    PrefixesPlaced t r used ((p, .absent (some i)) :: ps) := by
  intro before q j after hsplit
  cases before with
  | nil => cases hsplit; exact hfirst
  | cons b before =>
    obtain ⟨rfl, hrest⟩ := List.cons.inj hsplit
    rw [prefixBytes_cons_absent, prefixBytes_cons_absent, ← Nat.add_assoc, ← Nat.add_assoc]
    exact h before q j after hrest

/-- The addresses that creating the missing prefixes writes. -/
def CreatePlace (s : State) (r : Region) (used : Nat) (ps : List (List KeySet × Found)) (x : Nat) : Prop :=
  (∃ i ∈ slotsTaken ps, InSlot r i x) ∨ InHeap s r used (used + prefixBytes ps) x

theorem createPlace_cons_absent {s : State} {r : Region} {used i x : Nat}
    (h : AppendPlace s r i used p [] x ∨ CreatePlace s r (used + entrySpan p []) ps x) :
    CreatePlace s r used ((p, .absent (some i)) :: ps) x := by
  unfold CreatePlace
  rw [slotsTaken_cons_some, prefixBytes_cons_absent]
  rcases h with (h | h) | ⟨j, hj, hx⟩ | h
  · exact .inl ⟨i, List.mem_cons_self, h⟩
  · unfold InEntry InHeap heapPlace at *
    exact .inr (by omega)
  · exact .inl ⟨j, List.mem_cons_of_mem i hj, hx⟩
  · unfold InHeap heapPlace at *
    exact .inr (by omega)

/-- The missing prefixes created one behind another. -/
theorem OverlayOpen.createPrefixes_spec {r : Region} (ps : List (List KeySet × Found)) :
    ∀ (c : OverlayCounts) (s : State), OverlayOpen s r (c.used + prefixBytes ps) → s.settings.overlayHeap ≤ 256 →
      HeapSound s r c.used → (slotsTaken ps).Nodup → (∀ i ∈ slotsTaken ps, i < 2 ^ s.settings.overlayLog2) →
      (∀ p, (p, Found.absent none) ∉ ps) → (∀ p ∈ ps, 1 ≤ p.1.length ∧ p.1.length ≤ 8) →
      let y := ps.foldl (fun x p => createPrefix p x) (c, s)
      RamChange s y.2 (CreatePlace s r c.used ps) ∧
        y.1 = c.created (prefixBytes ps) (absentCount ps) ((slotsTaken ps).countP (isDeleted s r)) ∧
        HeapSound y.2 r (c.used + prefixBytes ps) ∧ PrefixesPlaced y.2 r c.used ps := by
  induction ps with
  | nil => exact fun c s _ _ hh _ _ _ _ => ⟨.refl s _, rfl, hh, by rintro (_ | _) _ _ _ h <;> cases h⟩
  | cons e ps ih =>
    intro c s ho hheap hh hnodup hslots hplaces hstrokes
    obtain ⟨p, found⟩ := e
    obtain ⟨⟨h1, h8⟩, hstrokes'⟩ := List.forall_mem_cons.1 hstrokes
    have hplaces' : ∀ q, (q, Found.absent none) ∉ ps := fun q hq => hplaces q (List.mem_cons_of_mem _ hq)
    rw [List.foldl_cons]
    cases found with
    | entry i v =>
      rw [prefixBytes_cons_entry] at ho
      obtain ⟨hchange, hcounts, hsound, hplaced⟩ := ih c s ho hheap hh hnodup hslots hplaces' hstrokes'
      rw [createPrefix_entry, prefixBytes_cons_entry]
      refine ⟨?_, hcounts, hsound, prefixesPlaced_cons_entry hplaced⟩
      unfold CreatePlace at hchange ⊢
      rwa [prefixBytes_cons_entry]
    | absent free =>
      cases free with
      | none => exact absurd List.mem_cons_self (hplaces p)
      | some i =>
        rw [slotsTaken_cons_some] at hnodup hslots
        obtain ⟨hi, hslots⟩ := List.forall_mem_cons.1 hslots
        obtain ⟨hnotin, hnodup⟩ := List.nodup_cons.1 hnodup
        rw [prefixBytes_cons_absent, ← Nat.add_assoc] at ho
        have hend := ho.heap
        have hoNow : OverlayOpen s r (c.used + entrySpan p []) := ho.at (by omega)
        obtain ⟨hfirst, hcounts, hplaced, hsound⟩ :=
          hoNow.createEntry_spec (k := .cont) hheap hi h1 h8 (Nat.zero_le 120) hh
        rw [createPrefix_absent]
        generalize hc : createEntry .cont p [] i (c, s) = y at hfirst hcounts hplaced hsound
        obtain ⟨c', s'⟩ := y
        dsimp only at hfirst hcounts hplaced hsound
        have hused : c'.used = c.used + entrySpan p [] := by rw [hcounts]; rfl
        obtain ⟨hrest, hrestCounts, hrestSound, hrestPlaced⟩ := ih c' s' (by rw [hused]; exact hfirst.opened ho)
          (by rw [hfirst.settings]; exact hheap) (by rw [hused]; exact hsound) hnodup
          (by rw [hfirst.settings]; exact hslots) hplaces' hstrokes'
        have hsame : CreatePlace s' r c'.used ps = CreatePlace s r (c.used + entrySpan p []) ps := by
          unfold CreatePlace InHeap heapPlace; rw [hused, hfirst.settings]
        rw [hused] at hrestSound hrestPlaced
        rw [hsame] at hrest
        have hdeleted : (slotsTaken ps).countP (isDeleted s' r) = (slotsTaken ps).countP (isDeleted s r) :=
          List.countP_congr fun j hj => by
            have hji : j ≠ i := ne_of_mem_of_not_mem hj hnotin
            have hslot : slotHolds s' r j = slotHolds s r j := hfirst.slotHolds_eq fun x hx => by
              rintro (hx' | hx')
              · unfold InSlot slotPlace at hx hx'; omega
              · exact hx.not_inEntry (hslots j hj) hx'
            unfold isDeleted; rw [hslot]
        refine ⟨(hfirst.trans hrest).mono fun x => createPlace_cons_absent, ?_, ?_, ?_⟩
        · rw [hrestCounts, hcounts, OverlayCounts.created_created, prefixBytes_cons_absent, slotsTaken_cons_some,
            List.countP_cons, hdeleted, Nat.add_comm (List.countP _ _)]
          have habsent : absentCount ((p, .absent (some i)) :: ps) = 1 + absentCount ps := by
            unfold absentCount
            rw [List.countP_cons_of_pos rfl, Nat.add_comm]
          rw [habsent]
        · rw [prefixBytes_cons_absent, ← Nat.add_assoc]; exact hrestSound
        · refine prefixesPlaced_cons_absent ?_ hrestPlaced
          rw [prefixBytes_cons_absent, ← Nat.add_assoc]
          refine hrest.placed (fun x hx => ?_) (hplaced.mono (Nat.le_add_right _ _))
          rw [hfirst.inEntry_eq] at hx
          rintro (⟨j, hj, hx'⟩ | hx')
          · have hji : j ≠ i := ne_of_mem_of_not_mem hj hnotin
            rcases hx with hx | hx
            · unfold InSlot slotPlace at hx hx'; omega
            · exact hx'.not_inEntry (hslots j hj) hx
          · rcases hx with hx | hx
            · unfold InSlot slotPlace at hx
              unfold InHeap heapPlace at hx'; omega
            · unfold InEntry at hx
              unfold InHeap heapPlace at hx'
              unfold heapPlace at hx; omega

end

end Sys2Proof.Machine
end

section
/-! PROOFS. The outline's own entry placed behind its prefixes, and their counts raised (R93, R96 steps 2 and
3). -/

namespace Sys2Proof.Machine

/-! ### The outline's own entry (R96 step 2) -/

section
variable {s : State} {r : Region} {c : OverlayCounts} {outline : List KeySet} {text : List Byte} {own : Found}

/-- The count that an outline's new entry takes: that of the entry it replaces, or 0. -/
def KeepsCount (s : State) (r : Region) (used : Nat) (outline : List KeySet) (own : Found) (n : Nat) : Prop :=
  (own.isAbsent = true → n = 0) ∧
    ∀ i v k t m, own = .entry i v → EntryStands s r used v k outline t m → n = m

theorem OverlayOpen.placeStored_spec (ho : OverlayOpen s r (c.used + entrySpan outline text))
    (hheap : s.settings.overlayHeap ≤ 256) (hslot : own.slot < 2 ^ s.settings.overlayLog2) (hplace : own ≠ .absent none)
    (h1 : 1 ≤ outline.length) (h8 : outline.length ≤ 8) (h120 : text.length ≤ 120) (hh : HeapSound s r c.used)
    (hown : ∀ i v, own = .entry i v → ∃ k t n, EntryStands s r c.used v k outline t n) :
    let y := placeStored (outline, own) text (c, s)
    RamChange s y.2 (AppendPlace s r own.slot c.used outline text) ∧
      y.1 = c.created (entrySpan outline text) (absentCount [(outline, own)])
        ((slotsTaken [(outline, own)]).countP (isDeleted s r)) ∧
      HeapSound y.2 r (c.used + entrySpan outline text) ∧
      ∃ n, KeepsCount s r c.used outline own n ∧
        Placed y.2 r (c.used + entrySpan outline text) own.slot c.used (kindFor true n) outline text n := by
  have hend := ho.heap
  cases own with
  | entry i v =>
    obtain ⟨k, t, n, he⟩ := hown i v rfl
    have hcount : prefixCount s v = n := (ho.at (by omega)).prefixCount_eq he
    obtain ⟨-, -, -, h255, -⟩ := id he
    have happend : placeStored (outline, .entry i v) text (c, s) =
        appendEntry (kindFor true n) outline text n i (c, s) := by
      rw [← hcount]; rfl
    rw [happend]
    obtain ⟨hchange, hnew, hplaced⟩ := ho.appendEntry_spec (k := kindFor true n) hheap hslot h1 h8 h120 h255
    refine ⟨hchange, hnew, ho.appendEntry_sound hheap hslot h1 h8 h120 h255 hh, n, ⟨nofun, ?_⟩, hplaced⟩
    rintro _ _ k' t' m ⟨⟩ he'
    exact (he.unique he').2.2.2
  | absent free =>
    cases free with
    | none => exact absurd rfl hplace
    | some i =>
      obtain ⟨hchange, hcounts, hplaced, hsound⟩ :=
        ho.createEntry_spec (k := .word) hheap hslot h1 h8 h120 hh
      have hdeleted : (slotsTaken [(outline, Found.absent (some i))]).countP (isDeleted s r) =
          if isDeleted s r i then 1 else 0 := by
        rw [slotsTaken_cons_some, List.countP_cons]
        exact Nat.zero_add _
      refine ⟨hchange, hcounts.trans (by rw [hdeleted]; rfl), hsound, 0, ⟨fun _ => rfl, nofun⟩, hplaced⟩

end

/-! ### The counts of prefixes raised (R96 step 3) -/

/-- An address of the entry whose offset a slot holds. -/
def SlotEntry (s : State) (r : Region) (used i x : Nat) : Prop :=
  ∃ k o text count, EntryStands s r used (slotHolds s r i) k o text count ∧ InEntry s r (slotHolds s r i) o text x

section
variable {s : State} {r : Region} {used i j x : Nat} {k : EntryKind} {outline : List KeySet} {text : List Byte}
  {count : Nat}

theorem slotEntry_iff (he : EntryStands s r used (slotHolds s r i) k outline text count) :
    SlotEntry s r used i x ↔ InEntry s r (slotHolds s r i) outline text x := by
  refine ⟨fun ⟨k', o', text', count', he', hx⟩ => ?_, fun hx => ⟨k, outline, text, count, he, hx⟩⟩
  obtain ⟨-, rfl, rfl, -⟩ := he.unique he'
  exact hx

/-- The entries of two slots share no address. -/
theorem SlotEntry.apart (hh : HeapSound s r used) (hi : Holds s r i) (hj : Holds s r j) (hij : i ≠ j)
    (h : SlotEntry s r used i x) : ¬ SlotEntry s r used j x := by
  rintro ⟨k', o', text', count', he', hx'⟩
  obtain ⟨k, o, text, count, he, hx⟩ := h
  have hapart := hh.apart hi hj hij he he'
  unfold InEntry heapPlace at hx hx'
  unfold Apart at hapart
  omega

theorem SlotEntry.behind_slots (h : SlotEntry s r used i x) : r.base + 16 + 4 * 2 ^ s.settings.overlayLog2 ≤ x := by
  obtain ⟨k, o, text, count, -, hx⟩ := h
  unfold InEntry heapPlace at hx; omega

/-- The kind of an entry with one longer outline more (R93). -/
def raisedKind (k : EntryKind) : EntryKind := if k = .cont then .cont else .wordCont

theorem kindFor_succ (k : EntryKind) (n : Nat) : kindFor (decide (k ≠ .cont)) (n + 1) = raisedKind k := by
  unfold kindFor raisedKind
  by_cases hk : k = .cont <;> simp [hk]

theorem OverlayOpen.raisePrefix_spec (ho : OverlayOpen s r used) {v : Nat}
    (he : EntryStands s r used v k outline text count) (hc : count < 255) :
    RamChange s (raisePrefix v s) (InEntry s r v outline text) ∧
      EntryStands (raisePrefix v s) r used v (raisedKind k) outline text (count + 1) := by
  unfold raisePrefix
  rw [ho.prefixCount_eq he, ← kindFor_succ k count]
  exact ho.writeCount_spec he hc

/-- The entries of some slots raised one behind another, from a state that differs from s at other places only. -/
theorem OverlayOpen.raiseSlots_spec (ho : OverlayOpen s r used) (hh : HeapSound s r used) (slots : List Nat) :
    slots.Nodup →
      (∀ i ∈ slots, Holds s r i ∧ ∀ k o text count,
        EntryStands s r used (slotHolds s r i) k o text count → count < 255) →
      ∀ (P : Nat → Prop) (u : State), RamChange s u P → (∀ i ∈ slots, ∀ x, SlotEntry s r used i x → ¬ P x) →
        let y := (slots.map (slotHolds s r)).foldl (fun s v => raisePrefix v s) u
        RamChange u y (fun x => ∃ i ∈ slots, SlotEntry s r used i x) ∧
          ∀ i ∈ slots, ∀ k o text count, EntryStands s r used (slotHolds s r i) k o text count →
            EntryStands y r used (slotHolds s r i) (raisedKind k) o text (count + 1) := by
  induction slots with
  | nil => exact fun _ _ _ u _ _ => ⟨.refl u _, nofun⟩
  | cons i slots ih =>
    intro hnodup hslots P u hu hP
    obtain ⟨hnotin, hnodup⟩ := List.nodup_cons.1 hnodup
    obtain ⟨⟨hi, hcount⟩, hslots⟩ := List.forall_mem_cons.1 hslots
    obtain ⟨hPi, hPslots⟩ := List.forall_mem_cons.1 hP
    obtain ⟨k, o, text, count, he⟩ := hh.stands hi
    have hplace := fun x => slotEntry_iff (x := x) he
    have hentry := hu.entryStands (fun x hx => hPi x ((hplace x).2 hx)) he
    obtain ⟨hstep, hraised⟩ := (hu.opened ho).raisePrefix_spec hentry (hcount k o text count he)
    rw [hu.inEntry_eq] at hstep
    have hstep := hstep.mono fun x => (hplace x).2
    obtain ⟨hrest, hrestRaised⟩ := ih hnodup hslots _ _ (hu.trans hstep) fun j hj x hx => by
      rintro (hxP | hxi)
      · exact hPslots j hj x hx hxP
      · exact hxi.apart hh hi (hslots j hj).1 (ne_of_mem_of_not_mem hj hnotin).symm hx
    rw [List.map_cons, List.foldl_cons]
    refine ⟨(hstep.trans hrest).mono fun x hx => ?_,
      List.forall_mem_cons.2 ⟨fun k' o' text' count' he' => ?_, hrestRaised⟩⟩
    · rcases hx with hx | ⟨j, hj, hx⟩
      · exact ⟨i, List.mem_cons_self, hx⟩
      · exact ⟨j, List.mem_cons_of_mem i hj, hx⟩
    · obtain ⟨rfl, rfl, rfl, rfl⟩ := he.unique he'
      refine hrest.entryStands (fun x hx => ?_) hraised
      rw [hstep.inEntry_eq, hu.inEntry_eq, ← hplace] at hx
      rintro ⟨j, hj, hxj⟩
      exact hxj.apart hh (hslots j hj).1 hi (ne_of_mem_of_not_mem hj hnotin) hx

end

/-- The offsets of a plan's prefixes, by a rule for each. -/
theorem entryOffsets_eq (offset : Found → Nat) (ps : List (List KeySet × Found)) :
    ∀ used, (∀ p i v, (p, Found.entry i v) ∈ ps → offset (.entry i v) = v) →
      (∀ before p free after, ps = before ++ (p, Found.absent free) :: after →
        offset (.absent free) = used + prefixBytes before) →
      entryOffsets used ps = ps.map fun p => offset p.2 := by
  induction ps with
  | nil => exact fun _ _ _ => rfl
  | cons e ps ih =>
    intro used hentry habsent
    obtain ⟨p, found⟩ := e
    have hentry' := fun q i v hq => hentry q i v (List.mem_cons_of_mem (p, found) hq)
    cases found with
    | entry i v =>
      have hrest := ih used hentry' fun before q free after h => by
        rw [habsent ((p, .entry i v) :: before) q free after (by rw [h]; rfl), prefixBytes_cons_entry]
      unfold entryOffsets
      rw [List.map_cons, hrest, hentry p i v List.mem_cons_self]
    | absent free =>
      have hrest := ih (used + entrySpan p []) hentry' fun before q free' after h => by
        rw [habsent ((p, .absent free) :: before) q free' after (by rw [h]; rfl), prefixBytes_cons_absent,
          Nat.add_assoc]
      unfold entryOffsets
      rw [List.map_cons, habsent [] p free ps rfl]
      exact congrArg (List.cons used) hrest

/-! ### All entries of a store -/

/-- The addresses that the entries of a store and their slots take. -/
def StorePlace (s : State) (r : Region) (used new : Nat) (plan : List (List KeySet × Found)) (own : Found) (x : Nat) :
    Prop :=
  (∃ i, (i ∈ slotsTaken plan ∨ ∃ v, own = .entry i v) ∧ InSlot r i x) ∨ InHeap s r used new x

/-- What a store may begin with: a sound heap, a plan whose outlines stand where it finds them, and room. -/
structure StoreReady (s : State) (r : Region) (used : Nat) (outline : List KeySet) (text : List Byte)
    (prefixes : List (List KeySet × Found)) (own : Found) : Prop where
  opened : OverlayOpen s r (used + prefixBytes prefixes + entrySpan outline text)
  heapMax : s.settings.overlayHeap ≤ 256
  sound : HeapSound s r used
  plan : PlanSound s r (prefixes ++ [(outline, own)])
  places : ∀ p, (p, Found.absent none) ∉ prefixes ++ [(outline, own)]
  stands : ∀ p i v, (p, Found.entry i v) ∈ prefixes ++ [(outline, own)] → ∃ k t n, EntryStands s r used v k p t n
  textMax : text.length ≤ 120

section
variable {s : State} {r : Region} {c : OverlayCounts} {outline : List KeySet} {text : List Byte}
  {prefixes : List (List KeySet × Found)} {own : Found}

theorem slotsTaken_append (ps qs : List (List KeySet × Found)) :
    slotsTaken (ps ++ qs) = slotsTaken ps ++ slotsTaken qs := List.filterMap_append

theorem absentCount_append (ps qs : List (List KeySet × Found)) :
    absentCount (ps ++ qs) = absentCount ps + absentCount qs := List.countP_append

/-- An entry found keeps its slot apart from those that a store takes. -/
theorem StoreReady.slots_apart {used : Nat} (h : StoreReady s r used outline text prefixes own) :
    (∀ p i v, (p, Found.entry i v) ∈ prefixes ++ [(outline, own)] → i ∉ slotsTaken (prefixes ++ [(outline, own)])) ∧
      (∀ p ∈ prefixes, p.2.slot ≠ own.slot) ∧ (prefixes.map fun p => p.2.slot).Nodup := by
  have hnodup := h.plan.slots_nodup h.places h.stands
  rw [List.map_append, List.map_singleton] at hnodup
  obtain ⟨hprefixes, -, hown⟩ := List.nodup_append.1 hnodup
  refine ⟨fun p i v hp hi => ?_, fun p hp => ?_, hprefixes⟩
  · obtain ⟨-, hholds, hlt⟩ := h.plan.entry p i v hp
    obtain ⟨-, hge⟩ := h.plan.taken i hi
    omega
  · exact hown _ (List.mem_map_of_mem hp) _ (List.mem_singleton.2 rfl)

/-- The slot that a search comes to is taken, or an entry's. -/
theorem slot_taken_or_entry {plan : List (List KeySet × Found)} {p : List KeySet} {found : Found}
    (h : (p, found) ∈ plan) (hplaces : ∀ p, (p, Found.absent none) ∉ plan) :
    found.slot ∈ slotsTaken plan ∨ ∃ v, found = .entry found.slot v := by
  cases found with
  | entry i v => exact .inr ⟨v, rfl⟩
  | absent free =>
    cases free with
    | none => exact absurd h (hplaces p)
    | some i => exact .inl (mem_slotsTaken.2 ⟨p, h⟩)

/-- A slot that the plan comes to is of the array. -/
theorem StoreReady.slot_lt {used : Nat} (h : StoreReady s r used outline text prefixes own)
    {p : List KeySet × Found} (hp : p ∈ prefixes ++ [(outline, own)]) :
    p.2.slot < 2 ^ s.settings.overlayLog2 := by
  obtain ⟨p, found⟩ := p
  cases found with
  | entry i v => exact (h.plan.entry p i v hp).1
  | absent free =>
    cases free with
    | none => exact absurd hp (h.places p)
    | some i => exact (h.plan.taken i (mem_slotsTaken.2 ⟨p, hp⟩)).1

/-- The entries that a store appends, in their slots; the prefixes that were found, where they stood. -/
theorem StoreReady.entries_spec (h : StoreReady s r c.used outline text prefixes own) :
    let y := placeStored (outline, own) text (prefixes.foldl (fun x p => createPrefix p x) (c, s))
    let plan := prefixes ++ [(outline, own)]
    let place := c.used + prefixBytes prefixes
    let new := place + entrySpan outline text
    RamChange s y.2 (StorePlace s r c.used new plan own) ∧
      y.1 = c.created (prefixBytes prefixes + entrySpan outline text) (absentCount plan)
        ((slotsTaken plan).countP (isDeleted s r)) ∧
      HeapSound y.2 r new ∧
      (∀ before p i after, prefixes = before ++ (p, Found.absent (some i)) :: after →
        Placed y.2 r new i (c.used + prefixBytes before) .cont p [] 0) ∧
      (∀ p i v k t n, (p, Found.entry i v) ∈ prefixes → EntryStands s r c.used v k p t n →
        Placed y.2 r new i v k p t n) ∧
      ∃ n, KeepsCount s r c.used outline own n ∧
        Placed y.2 r new own.slot place (kindFor true n) outline text n := by
  intro y plan place new
  have hownMem : (outline, own) ∈ prefixes ++ [(outline, own)] := by simp
  obtain ⟨hfound, hownSlot, -⟩ := h.slots_apart
  have htaken := slotsTaken_append prefixes [(outline, own)]
  have hnodup := h.plan.nodup
  have hslots := fun i hi => (h.plan.taken i hi).1
  have hownLt := h.slot_lt hownMem
  dsimp only at hownLt
  rw [htaken] at hnodup hslots
  obtain ⟨hnodupPrefixes, -, hslotsApart⟩ := List.nodup_append.1 hnodup
  have hend := h.opened.heap
  -- the missing prefixes
  obtain ⟨hcreate, hcounts, hsound, hplaced⟩ := OverlayOpen.createPrefixes_spec prefixes c s
    (h.opened.at (by omega)) h.heapMax h.sound hnodupPrefixes (fun i hi => hslots i (List.mem_append_left _ hi))
    (fun p hp => h.places p (List.mem_append_left _ hp)) (fun p hp => h.plan.strokes p (List.mem_append_left _ hp))
  have hy : y = placeStored (outline, own) text (prefixes.foldl (fun x p => createPrefix p x) (c, s)) := rfl
  generalize prefixes.foldl (fun x p => createPrefix p x) (c, s) = x₂ at hcreate hcounts hsound hplaced hy
  obtain ⟨c₂, s₂⟩ := x₂
  dsimp only at hcreate hcounts hsound hplaced hy
  have hused : c₂.used = place := by rw [hcounts]; rfl
  -- what stood, and the slot of the outline, are not among them
  have hkept : ∀ {p v k t n}, EntryStands s r c.used v k p t n → EntryStands s₂ r c.used v k p t n := fun he =>
    hcreate.entryStands (fun x hx => by
      have hend := he.end_le
      rintro (⟨i, hi, hx'⟩ | hx')
      · exact hx'.not_inEntry (hslots i (List.mem_append_left _ hi)) hx
      · unfold InEntry heapPlace at hx
        unfold InHeap heapPlace at hx'
        omega) he
  have hslotKept : ∀ i, i < 2 ^ s.settings.overlayLog2 → i ∉ slotsTaken prefixes → slotHolds s₂ r i = slotHolds s r i :=
    fun i hi hnot => hcreate.slotHolds_eq fun x hx => by
      rintro (⟨j, hj, hx'⟩ | hx')
      · have hji : j ≠ i := ne_of_mem_of_not_mem hj hnot
        unfold InSlot slotPlace at hx hx'; omega
      · unfold InSlot slotPlace at hx
        unfold InHeap heapPlace at hx'; omega
  -- the outline's own entry
  obtain ⟨hchange, hcounts₂, hsound₂, n, ⟨hzero, hkeeps⟩, hownPlaced⟩ :=
    OverlayOpen.placeStored_spec (c := c₂) (own := own) (text := text)
      (by rw [hused]; exact hcreate.opened h.opened) (by rw [hcreate.settings]; exact h.heapMax)
      (by rw [hcreate.settings]; exact hownLt) (fun hnone => h.places outline (by rw [← hnone]; exact hownMem))
      (h.plan.strokes _ hownMem).1 (h.plan.strokes _ hownMem).2 h.textMax (by rw [hused]; exact hsound)
      (fun i v hown => by
        obtain ⟨k, t, n, he⟩ := h.stands outline i v (by rw [← hown]; exact hownMem)
        exact ⟨k, t, n, (hkept he).mono (by rw [hused]; exact Nat.le_add_right _ _)⟩)
  rw [← hy] at hchange hcounts₂ hsound₂ hownPlaced
  rw [hused] at hchange hsound₂ hownPlaced
  have happend : AppendPlace s₂ r own.slot place outline text = AppendPlace s r own.slot place outline text := by
    unfold AppendPlace; rw [hcreate.inEntry_eq]
  rw [happend] at hchange
  have hnotAppend : ∀ {i v p t x}, i < 2 ^ s.settings.overlayLog2 → i ≠ own.slot → v + entrySpan p t ≤ place →
      InSlot r i x ∨ InEntry s₂ r v p t x → ¬ AppendPlace s r own.slot place outline text x := by
    intro i v p t x hi hne hle hx
    rw [hcreate.inEntry_eq] at hx
    rintro (hx' | hx') <;> rcases hx with hx | hx
    · unfold InSlot slotPlace at hx hx'; omega
    · exact hx'.not_inEntry hownLt hx
    · exact hx.not_inEntry hi hx'
    · unfold InEntry heapPlace at hx hx'; omega
  refine ⟨(hcreate.trans hchange).mono fun x hx => ?_, ?_, hsound₂, fun before p i after hsplit => ?_,
    fun p i v k t m hp he => ?_, n, ⟨hzero, fun i v k t m hown he => ?_⟩, hownPlaced⟩
  · rcases hx with (⟨i, hi, hx⟩ | hx) | (hx | hx)
    · exact .inl ⟨i, .inl (by rw [htaken]; exact List.mem_append_left _ hi), hx⟩
    · unfold InHeap heapPlace at hx
      unfold StorePlace InHeap heapPlace
      exact .inr (by omega)
    · exact .inl ⟨own.slot, slot_taken_or_entry hownMem h.places, hx⟩
    · unfold InEntry heapPlace at hx
      unfold StorePlace InHeap heapPlace
      exact .inr (by omega)
  · have hdeleted : (slotsTaken [(outline, own)]).countP (isDeleted s₂ r) =
        (slotsTaken [(outline, own)]).countP (isDeleted s r) :=
      List.countP_congr fun i hi => by
        have hnot : i ∉ slotsTaken prefixes := fun hi' => hslotsApart i hi' i hi rfl
        unfold isDeleted
        rw [hslotKept i (hslots i (List.mem_append_right _ hi)) hnot]
    rw [hcounts₂, hcounts, OverlayCounts.created_created, hdeleted, absentCount_append, htaken, List.countP_append]
  · have hmem : (p, Found.absent (some i)) ∈ prefixes := by rw [hsplit]; simp
    have hi : i < 2 ^ s.settings.overlayLog2 := h.slot_lt (List.mem_append_left _ hmem)
    have hplace := hplaced before p i after hsplit
    have hle := hplace.2.end_le
    exact hchange.placed (fun x hx => hnotAppend hi (hownSlot _ hmem) hle hx) (hplace.mono (Nat.le_add_right _ _))
  · obtain ⟨hi, hholds, -⟩ := h.plan.entry p i v (List.mem_append_left _ hp)
    have hnot : i ∉ slotsTaken prefixes := fun hi' =>
      hfound p i v (List.mem_append_left _ hp) (by rw [htaken]; exact List.mem_append_left _ hi')
    have hplace : Placed s₂ r c.used i v k p t m := ⟨(hslotKept i hi hnot).trans hholds, hkept he⟩
    have hle := he.end_le
    exact hchange.placed (fun x hx => hnotAppend hi (hownSlot _ hp) (by omega) hx) (hplace.mono (by omega))
  · exact hkeeps i v k t m hown ((hkept he).mono (by rw [hused]; exact Nat.le_add_right _ _))

end

end Sys2Proof.Machine
end

section
/-! PROOFS. The writes of a store as a whole (R92, R96), and when a store is refused (R95). -/

namespace Sys2Proof.Machine

/-! ### The counts of prefixes, where the outline had no text -/

/-- What the store of an outline that had text, or had none, makes of the kind and the count of its prefixes. -/
def kindAfter (had : Bool) (k : EntryKind) : EntryKind := if had then k else raisedKind k
def countAfter (had : Bool) (n : Nat) : Nat := if had then n else n + 1

theorem kindAfter_cont (had : Bool) : kindAfter had .cont = .cont := by cases had <;> rfl

/-- The third part of a store: the prefixes of some slots raised, where the outline had no text. -/
def raiseUnless (had : Bool) (offsets : List Nat) (s : State) : State :=
  if had then s else offsets.foldl (fun s v => raisePrefix v s) s

section
variable {s : State} {r : Region} {used : Nat} {slots : List Nat} {had : Bool}

theorem OverlayOpen.raiseUnless_spec (ho : OverlayOpen s r used) (hh : HeapSound s r used) (hnodup : slots.Nodup)
    (hholds : ∀ i ∈ slots, Holds s r i)
    (hcount : had = false → ∀ i ∈ slots, ∀ k o t n, EntryStands s r used (slotHolds s r i) k o t n → n < 255) :
    let u := raiseUnless had (slots.map (slotHolds s r)) s
    RamChange s u (fun x => ∃ i ∈ slots, SlotEntry s r used i x) ∧
      (∀ i ∈ slots, ∀ v k o t n, Placed s r used i v k o t n →
        Placed u r used i v (kindAfter had k) o t (countAfter had n)) ∧
      ∀ j, Holds s r j → j ∉ slots → ∀ v k o t n, Placed s r used j v k o t n → Placed u r used j v k o t n := by
  cases had with
  | true => exact ⟨.refl s _, fun _ _ _ _ _ _ _ h => h, fun _ _ _ _ _ _ _ _ h => h⟩
  | false =>
    obtain ⟨hchange, hraised⟩ := ho.raiseSlots_spec hh slots hnodup
      (fun i hi => ⟨hholds i hi, hcount rfl i hi⟩) (fun _ => False) s (.refl s _) (fun _ _ _ _ => id)
    have hslot : ∀ i, i < 2 ^ s.settings.overlayLog2 →
        slotHolds ((slots.map (slotHolds s r)).foldl (fun s v => raisePrefix v s) s) r i = slotHolds s r i :=
      fun i hi => hchange.slotHolds_eq fun x hx ⟨j, _, hx'⟩ => by
        have := hx'.behind_slots
        unfold InSlot slotPlace at hx; omega
    refine ⟨hchange, fun i hi v k o t n ⟨hv, he⟩ => ?_, fun j hj hnot v k o t n ⟨hv, he⟩ => ?_⟩
    · subst hv
      exact ⟨hslot i (hholds i hi).1, hraised i hi k o t n he⟩
    · subst hv
      refine ⟨hslot j hj.1, hchange.entryStands (fun x hx => ?_) he⟩
      rintro ⟨i, hi, hx'⟩
      exact hx'.apart hh (hholds i hi) hj (ne_of_mem_of_not_mem hi hnot) ((slotEntry_iff he).2 hx)

end

/-! ### Entries, slots and counts of a store -/

/-- An address of the entry of a shorter outline that was found. -/
def PrefixPlace (s : State) (r : Region) (used : Nat) (prefixes : List (List KeySet × Found)) (x : Nat) : Prop :=
  ∃ p i v k t n, (p, Found.entry i v) ∈ prefixes ∧ EntryStands s r used v k p t n ∧ InEntry s r v p t x

/-- What a store leaves of the outlines of its plan: t is the state behind it. -/
structure StoreLeft (s t : State) (r : Region) (used : Nat) (outline : List KeySet) (text : List Byte)
    (prefixes : List (List KeySet × Found)) (own : Found) (had : Bool) : Prop where
  created : ∀ before p i after, prefixes = before ++ (p, Found.absent (some i)) :: after →
    Placed t r (used + prefixBytes prefixes + entrySpan outline text) i (used + prefixBytes before) .cont p []
      (countAfter had 0)
  kept : ∀ p i v k t' n, (p, Found.entry i v) ∈ prefixes → EntryStands s r used v k p t' n →
    Placed t r (used + prefixBytes prefixes + entrySpan outline text) i v (kindAfter had k) p t' (countAfter had n)
  placed : ∃ n, KeepsCount s r used outline own n ∧
    Placed t r (used + prefixBytes prefixes + entrySpan outline text) own.slot (used + prefixBytes prefixes)
      (kindFor true n) outline text n

section
variable {s : State} {r : Region} {c : OverlayCounts} {outline : List KeySet} {text : List Byte}
  {prefixes : List (List KeySet × Found)} {own : Found} {had : Bool}

/-- Every entry that the plan of a store comes to is some place's behind it. -/
theorem split_of_mem {p : List KeySet} {found : Found} (h : (p, found) ∈ prefixes)
    (hplaces : ∀ p, (p, Found.absent none) ∉ prefixes) :
    (∃ i v, found = .entry i v) ∨
      ∃ before i after, found = .absent (some i) ∧ prefixes = before ++ (p, Found.absent (some i)) :: after := by
  cases found with
  | entry i v => exact .inl ⟨i, v, rfl⟩
  | absent free =>
    cases free with
    | none => exact absurd h (hplaces p)
    | some i =>
      obtain ⟨before, after, hsplit⟩ := List.append_of_mem h
      exact .inr ⟨before, i, after, rfl, hsplit⟩

theorem StoreReady.left_spec (h : StoreReady s r c.used outline text prefixes own)
    (hcount : had = false → ∀ p i v k t n, (p, Found.entry i v) ∈ prefixes → EntryStands s r c.used v k p t n →
      n < 255) :
    let y := placeStored (outline, own) text (prefixes.foldl (fun x p => createPrefix p x) (c, s))
    let u := raiseUnless had (entryOffsets c.used prefixes) y.2
    let plan := prefixes ++ [(outline, own)]
    let new := c.used + prefixBytes prefixes + entrySpan outline text
    RamChange s u (fun x => StorePlace s r c.used new plan own x ∨ PrefixPlace s r c.used prefixes x) ∧
      y.1 = c.created (prefixBytes prefixes + entrySpan outline text) (absentCount plan)
        ((slotsTaken plan).countP (isDeleted s r)) ∧
      StoreLeft s u r c.used outline text prefixes own had := by
  intro y u plan new
  obtain ⟨hchange, hcounts, hsound, hcreated, hkept, n, hkeeps, hplaced⟩ := h.entries_spec
  obtain ⟨-, hownSlot, hnodup⟩ := h.slots_apart
  have hu : u = raiseUnless had (entryOffsets c.used prefixes) y.2 := rfl
  have hplaces : ∀ p, (p, Found.absent none) ∉ prefixes := fun p hp => h.places p (List.mem_append_left _ hp)
  have hmemPlan : ∀ {p}, p ∈ prefixes → p ∈ plan := fun hp => List.mem_append_left [(outline, own)] hp
  have hlog := hchange.settings
  have ho : OverlayOpen y.2 r new := hchange.opened h.opened
  have hsmall : new < 0xFFFFFFFE := by
    have hend := h.opened.heap
    have hmax := h.heapMax
    omega
  clear_value u
  change RamChange s y.2 (StorePlace s r c.used new plan own) at hchange
  change HeapSound y.2 r new at hsound
  -- every slot of the plan holds an offset
  have hslotHolds : ∀ {p : List KeySet × Found} {v k o t n}, p ∈ plan → Placed y.2 r new p.2.slot v k o t n →
      Holds y.2 r p.2.slot := by
    intro p v k o t n hp ⟨hv, he⟩
    have hle := he.end_le
    exact ⟨by rw [hlog]; exact h.slot_lt hp, by omega⟩
  have hat : ∀ p ∈ prefixes, ∃ v k t n, Placed y.2 r new p.2.slot v k p.1 t n ∧ (had = false → n < 255) ∧
      ∀ x, InEntry y.2 r v p.1 t x → StorePlace s r c.used new plan own x ∨ PrefixPlace s r c.used prefixes x := by
    rintro ⟨p, found⟩ hp
    rcases split_of_mem hp hplaces with ⟨i, v, rfl⟩ | ⟨before, i, after, rfl, hsplit⟩
    · obtain ⟨k, t, m, he⟩ := h.stands p i v (List.mem_append_left _ hp)
      refine ⟨v, k, t, m, hkept p i v k t m hp he, fun hhad => hcount hhad p i v k t m hp he, fun x hx => .inr ?_⟩
      rw [hchange.inEntry_eq] at hx
      exact ⟨p, i, v, k, t, m, hp, he, hx⟩
    · have hplace := hcreated before p i after hsplit
      have hle : c.used + prefixBytes before + entrySpan p [] ≤ new := hplace.2.end_le
      refine ⟨_, _, _, _, hplace, fun _ => by omega, fun x hx => .inl (.inr ?_)⟩
      rw [hchange.inEntry_eq] at hx
      unfold InEntry heapPlace at hx
      unfold InHeap heapPlace
      dsimp only at hx
      omega
  have hprefixHolds : ∀ i ∈ prefixes.map (fun p => p.2.slot), Holds y.2 r i :=
    List.forall_mem_map.2 fun p hp => by
      obtain ⟨v, k, t, m, hplace, -⟩ := hat p hp
      exact hslotHolds (hmemPlan hp) hplace
  -- the offsets raised are those that the slots hold
  have hoffsets : entryOffsets c.used prefixes = (prefixes.map fun p => p.2.slot).map (slotHolds y.2 r) := by
    have hrule := entryOffsets_eq (fun found => slotHolds y.2 r found.slot) prefixes c.used
    rw [List.map_map, hrule]
    · exact List.map_congr_left fun p _ => by rw [Function.comp_apply]
    · intro p i v hp
      obtain ⟨k, t, m, he⟩ := h.stands p i v (List.mem_append_left _ hp)
      exact (hkept p i v k t m hp he).1
    · intro before p free after hsplit
      cases free with
      | none => exact absurd (by rw [hsplit]; simp) (hplaces p)
      | some i => exact (hcreated before p i after hsplit).1
  rw [hoffsets] at hu
  obtain ⟨hraise, hraised, hother⟩ := ho.raiseUnless_spec (had := had) hsound hnodup hprefixHolds
    fun hhad i hi k o t m he => by
      obtain ⟨p, hp, rfl⟩ := List.mem_map.1 hi
      obtain ⟨v, k', t', m', ⟨rfl, he'⟩, hlt, -⟩ := hat p hp
      rw [(he.unique he').2.2.2]; exact hlt hhad
  rw [← hu] at hraise hraised hother
  have hownHolds : Holds y.2 r own.slot := hslotHolds (p := (outline, own)) (by simp [plan]) hplaced
  refine ⟨(hchange.trans hraise).mono fun x hx => ?_, hcounts, ⟨fun before p i after hsplit => ?_,
    fun p i v k t m hp he => ?_, n, hkeeps, ?_⟩⟩
  · rcases hx with hx | ⟨i, hi, hx⟩
    · exact .inl hx
    · obtain ⟨p, hp, rfl⟩ := List.mem_map.1 hi
      obtain ⟨v, k, t, m, ⟨rfl, he⟩, -, hcover⟩ := hat p hp
      exact hcover x ((slotEntry_iff he).1 hx)
  · have hmem : (p, Found.absent (some i)) ∈ prefixes := by rw [hsplit]; simp
    have hplace := hraised i (List.mem_map.2 ⟨_, hmem, rfl⟩) _ _ _ _ _ (hcreated before p i after hsplit)
    rwa [kindAfter_cont] at hplace
  · exact hraised i (List.mem_map.2 ⟨_, hp, rfl⟩) _ _ _ _ _ (hkept p i v k t m hp he)
  · refine hother own.slot hownHolds (fun hi => ?_) _ _ _ _ _ hplaced
    obtain ⟨p, hp, heq⟩ := List.mem_map.1 hi
    exact hownSlot p hp heq

end

/-! ### The header around them (R92) -/

section
variable {s t : State} {P : Nat → Prop} {r : Region} {used live deleted : Nat} {outline : List KeySet}
  {text : List Byte} {prefixes : List (List KeySet × Found)} {own : Found} {had : Bool}

theorem RamChange.storeReady (h : RamChange s t P) (hp : ∀ x, P x → x < r.base + 16)
    (hr : StoreReady s r used outline text prefixes own) : StoreReady t r used outline text prefixes own := by
  have hslot := h.slot_eq_of_header hp
  obtain ⟨houtlines, hstrokes, htaken, hnodup, hentry⟩ := hr.plan
  refine ⟨h.opened hr.opened, by rw [h.settings]; exact hr.heapMax, h.heapSound hp hr.sound,
    ⟨houtlines, hstrokes, fun i hi => ?_, hnodup, fun p i v hmem => ?_⟩, hr.places, fun p i v hmem => ?_, hr.textMax⟩
  · rw [hslot, h.settings]; exact htaken i hi
  · rw [hslot, h.settings]; exact hentry p i v hmem
  · obtain ⟨k, t, n, he⟩ := hr.stands p i v hmem
    exact ⟨k, t, n, h.entry_of_header hp he⟩

/-- The outline has text, in the words of the plan (R95). -/
theorem OverlayOpen.hasText_iff (ho : OverlayOpen s r used)
    (hown : ∀ i v, own = .entry i v → ∃ k t n, EntryStands s r used v k outline t n) :
    hasText s own = true ↔ ∃ i v k t n, own = .entry i v ∧ EntryStands s r used v k outline t n ∧ k ≠ .cont := by
  cases own with
  | absent free => exact ⟨nofun, by rintro ⟨_, _, _, _, _, h, _⟩; cases h⟩
  | entry i v =>
    obtain ⟨k, t, n, he⟩ := hown i v rfl
    unfold hasText; dsimp only
    rw [ho.entryHasText_eq he, decide_eq_true_eq]
    refine ⟨fun hk => ⟨i, v, k, t, n, rfl, he, hk⟩, ?_⟩
    rintro ⟨i', v', k', t', n', heq, he', hk⟩
    cases heq
    rwa [(he.unique he').1]

theorem writeStore_eq (prefixes : List (List KeySet × Found)) (o : List KeySet × Found) (text : List Byte) (s : State) :
    writeStore (prefixes ++ [o]) text s =
      let c := readCounts s
      let s₁ := writeHeader c false s
      let y := placeStored o text (prefixes.foldl (fun x p => createPrefix p x) (c, s₁))
      writeHeader y.1 true (raiseUnless (hasText s₁ o.2) (entryOffsets c.used prefixes) y.2) := by
  unfold writeStore raiseUnless
  rw [List.getLast?_concat, List.dropLast_concat]

/-- What a store leaves of its outlines stays so under a change before the slot array. -/
theorem StoreLeft.header {u : State} (h : StoreLeft s t r used outline text prefixes own had)
    (hchange : RamChange t u P) (hp : ∀ x, P x → x < r.base + 16) :
    StoreLeft s u r used outline text prefixes own had := by
  have hplaced : ∀ {used i v k o t' n}, Placed t r used i v k o t' n → Placed u r used i v k o t' n := fun ⟨hv, he⟩ =>
    ⟨(hchange.slot_eq_of_header hp _).trans hv, hchange.entry_of_header hp he⟩
  obtain ⟨hcreated, hkept, n, hkeeps, hown⟩ := h
  exact ⟨fun before p i after hsplit => hplaced (hcreated before p i after hsplit),
    fun p i v k t' n hp he => hplaced (hkept p i v k t' n hp he), n, hkeeps, hplaced hown⟩

/-- The whole store, from the header with its CRC inverted to the header with the new counts. -/
theorem StoreReady.writeStore_spec (hs : OverlayStands s r used live deleted)
    (h : StoreReady s r used outline text prefixes own)
    (hslots : live + deleted + absentCount (prefixes ++ [(outline, own)]) ≤ 2 ^ s.settings.overlayLog2)
    (hcount : hasText s own = false → ∀ p i v k t n, (p, Found.entry i v) ∈ prefixes →
      EntryStands s r used v k p t n → n < 255) :
    let t := writeStore (prefixes ++ [(outline, own)]) text s
    let new := used + prefixBytes prefixes + entrySpan outline text
    RamChange s t (fun x => (r.base ≤ x ∧ x < r.base + 16) ∨
        StorePlace s r used new (prefixes ++ [(outline, own)]) own x ∨ PrefixPlace s r used prefixes x) ∧
      OverlayStands t r new (live + absentCount (prefixes ++ [(outline, own)]))
        (deleted - (slotsTaken (prefixes ++ [(outline, own)])).countP (isDeleted s r)) ∧
      StoreLeft s t r used outline text prefixes own (hasText s own) := by
  have ho := hs.opened
  have hsize : 16 ≤ r.size := by have := ho.room; omega
  obtain ⟨-, -, -, -, hlog, hheap, -, -, -, h4, h8, h10⟩ := id hs
  have hread : readCounts s = ⟨used, live, deleted⟩ := by
    rw [ho.readCounts_eq hsize, ← h4, ← h8, ← h10]
  rw [writeStore_eq, hread]
  dsimp only
  -- the header with its CRC inverted
  have hfirst := ho.header_change hsize ⟨used, live, deleted⟩ false
  generalize writeHeader ⟨used, live, deleted⟩ false s = s₁ at hfirst ⊢
  have hbefore : ∀ x, r.base ≤ x ∧ x < r.base + 16 → x < r.base + 16 := fun x hx => hx.2
  have hready := hfirst.storeReady hbefore h
  have hownMem : (outline, own) ∈ prefixes ++ [(outline, own)] := by simp
  have hsame : ∀ {v k p t n}, EntryStands s₁ r used v k p t n → (∃ k t n, EntryStands s r used v k p t n) →
      EntryStands s r used v k p t n := by
    rintro v k p t n he ⟨k', t', n', he'⟩
    obtain ⟨rfl, -, rfl, rfl⟩ := he.unique (hfirst.entry_of_header hbefore he')
    exact he'
  have hhad : hasText s₁ own = hasText s own := by
    have hown := fun i v (heq : own = .entry i v) => h.stands outline i v (by rw [← heq]; exact hownMem)
    have hown₁ := fun i v (heq : own = .entry i v) => hready.stands outline i v (by rw [← heq]; exact hownMem)
    rw [Bool.eq_iff_iff, (hfirst.opened ho).hasText_iff hown₁, ho.hasText_iff hown]
    constructor
    · rintro ⟨i, v, k, t, n, heq, he, hk⟩
      exact ⟨i, v, k, t, n, heq, hsame he (hown i v heq), hk⟩
    · rintro ⟨i, v, k, t, n, heq, he, hk⟩
      exact ⟨i, v, k, t, n, heq, hfirst.entry_of_header hbefore he, hk⟩
  rw [hhad]
  -- entries and counts
  obtain ⟨hstore, hcounts, hleft⟩ := StoreReady.left_spec (c := ⟨used, live, deleted⟩) (had := hasText s own) hready
    fun hnot p i v k t n hp he =>
      hcount hnot p i v k t n hp (hsame he (h.stands p i v (List.mem_append_left _ hp)))
  dsimp only at hstore hcounts hleft
  generalize placeStored (outline, own) text _ = y at hstore hcounts hleft ⊢
  obtain ⟨c, s₂⟩ := y
  dsimp only at hstore hcounts hleft ⊢
  generalize raiseUnless (hasText s own) _ s₂ = s₃ at hstore hleft ⊢
  have hplaces : (fun x => StorePlace s₁ r used (used + prefixBytes prefixes + entrySpan outline text)
        (prefixes ++ [(outline, own)]) own x ∨ PrefixPlace s₁ r used prefixes x) =
      fun x => StorePlace s r used (used + prefixBytes prefixes + entrySpan outline text)
        (prefixes ++ [(outline, own)]) own x ∨ PrefixPlace s r used prefixes x := by
    funext x
    unfold StorePlace InHeap PrefixPlace
    simp only [hfirst.heapPlace_eq, hfirst.inEntry_eq]
    refine congrArg _ (propext ⟨?_, ?_⟩)
    · rintro ⟨p, i, v, k, t, n, hp, he, hx⟩
      exact ⟨p, i, v, k, t, n, hp, hsame he (h.stands p i v (List.mem_append_left _ hp)), hx⟩
    · rintro ⟨p, i, v, k, t, n, hp, he, hx⟩
      exact ⟨p, i, v, k, t, n, hp, hfirst.entry_of_header hbefore he, hx⟩
  rw [hplaces] at hstore
  have hdeleted : (slotsTaken (prefixes ++ [(outline, own)])).countP (isDeleted s₁ r) =
      (slotsTaken (prefixes ++ [(outline, own)])).countP (isDeleted s r) :=
    List.countP_congr fun i _ => by unfold isDeleted; rw [hfirst.slot_eq_of_header hbefore]
  rw [hdeleted] at hcounts
  -- the header with the new counts
  have hwhole := hfirst.trans hstore
  have ho₃ := hwhole.opened ho
  have hlast := ho₃.header_change hsize c true
  have hheader := ho₃.readBytes_header hsize ho₃.wf c true
  have hall := hwhole.trans hlast
  have hend := h.opened.heap
  refine ⟨hall.mono fun x hx => ?_, ?_, ?_⟩
  · rcases hx with (hx | hx) | hx
    exacts [.inl hx, .inr hx, .inl hx]
  · refine hs.of_header hall ?_
    rw [hheader, hall.settings, hwhole.settings, hcounts]
    unfold OverlayCounts.created
    dsimp only
    rw [← Nat.add_assoc]
    exact headerBytes_is hlog (by dsimp only; omega) hend (by dsimp only; omega)
  · obtain ⟨hcreated, hkept, n, hkeeps, hown⟩ := hleft.header hlast hbefore
    obtain ⟨hzero, hreplaced⟩ := hkeeps
    exact ⟨hcreated, fun p i v k t n hp he => hkept p i v k t n hp (hfirst.entry_of_header hbefore he), n,
      ⟨hzero, fun i v k t m heq he => hreplaced i v k t m heq (hfirst.entry_of_header hbefore he)⟩, hown⟩

end

end Sys2Proof.Machine
end

section
/-! PROOFS. A peer's definition stored in the overlay: when it is refused, and what it leaves (R95, R96, R98). -/

namespace Sys2Proof.Machine

/-! ### The capacity check (R95) -/

/-- The outline has text where the search has found it. -/
def HadText (s : State) (r : Region) (used : Nat) (outline : List KeySet) (own : Found) : Prop :=
  ∃ i v k t c, own = .entry i v ∧ EntryStands s r used v k outline t c ∧ k ≠ .cont

/-- The store of an outline has slots, heap and counts of its prefixes to spare, and a free slot for each entry it
creates. -/
def StoreFits (s : State) (r : Region) (used live deleted : Nat) (outline : List KeySet) (text : List Byte)
    (prefixes : List (List KeySet × Found)) (own : Found) : Prop :=
  live + deleted + absentCount (prefixes ++ [(outline, own)]) ≤ 2 ^ s.settings.overlayLog2 * 3 / 4 ∧
    used + prefixBytes prefixes + entrySpan outline text ≤ s.settings.overlayHeap * 1024 ∧
    (HadText s r used outline own ∨
      ∀ p i v k t c, (p, Found.entry i v) ∈ prefixes → EntryStands s r used v k p t c → c < 255) ∧
    ∀ p, (p, Found.absent none) ∉ prefixes ++ [(outline, own)]

section
variable {s : State} {r : Region} {used live deleted : Nat} {outline : List KeySet} {text : List Byte}
  {prefixes : List (List KeySet × Found)} {own : Found}

theorem appendedBytes_eq (prefixes : List (List KeySet × Found)) (o : List KeySet × Found) (outline : List KeySet)
    (text : List Byte) :
    appendedBytes (prefixes ++ [o]) outline text.length = prefixBytes prefixes + entrySpan outline text := by
  unfold appendedBytes
  rw [List.dropLast_concat, Nat.add_comm]
  refine congrArg (· + entrySpan outline text) ?_
  induction prefixes with
  | nil => rfl
  | cons e ps ih =>
    obtain ⟨p, found⟩ := e
    cases found with
    | entry i v => rw [prefixBytes_cons_entry, List.filter_cons_of_neg (by nofun), ih]
    | absent free =>
      rw [prefixBytes_cons_absent, List.filter_cons_of_pos rfl, List.map_cons, List.sum_cons, ih]
      rfl

theorem OverlayOpen.saturatedPrefix_iff (ho : OverlayOpen s r used) (o : List KeySet × Found)
    (hstand : ∀ p i v, (p, Found.entry i v) ∈ prefixes → ∃ k t c, EntryStands s r used v k p t c) :
    saturatedPrefix s (prefixes ++ [o]) = true ↔
      ¬ ∀ p i v k t c, (p, Found.entry i v) ∈ prefixes → EntryStands s r used v k p t c → c < 255 := by
  unfold saturatedPrefix
  rw [List.dropLast_concat, List.any_eq_true]
  constructor
  · rintro ⟨⟨p, found⟩, hp, hcount⟩ hall
    cases found with
    | absent free => cases hcount
    | entry i v =>
      obtain ⟨k, t, c, he⟩ := hstand p i v hp
      have hfull : prefixCount s v = 255 := by simpa using hcount
      rw [ho.prefixCount_eq he] at hfull
      have := hall p i v k t c hp he
      omega
  · intro hnot
    push Not at hnot
    obtain ⟨p, i, v, k, t, c, hp, he, hc⟩ := hnot
    obtain ⟨-, -, -, h255, -⟩ := id he
    refine ⟨(p, .entry i v), hp, ?_⟩
    dsimp only
    rw [ho.prefixCount_eq he, beq_iff_eq]
    omega

theorem noPlace_iff {plan : List (List KeySet × Found)} :
    (plan.any fun p => p.2.noPlace) = true ↔ ¬ ∀ p, (p, Found.absent none) ∉ plan := by
  rw [List.any_eq_true]
  push Not
  constructor
  · rintro ⟨⟨p, found⟩, hp, hnone⟩
    cases found with
    | entry i v => cases hnone
    | absent free =>
      cases free with
      | none => exact ⟨p, hp⟩
      | some i => cases hnone
  · rintro ⟨p, hp⟩
    exact ⟨_, hp, rfl⟩

/-- A store is refused where it does not fit. -/
theorem OverlayStands.storeRefused_iff (hs : OverlayStands s r used live deleted)
    (hstand : ∀ p i v, (p, Found.entry i v) ∈ prefixes ++ [(outline, own)] → ∃ k t c, EntryStands s r used v k p t c) :
    storeRefused s (prefixes ++ [(outline, own)]) outline text.length = true ↔
      ¬ StoreFits s r used live deleted outline text prefixes own := by
  have ho := hs.opened
  have hsize : 16 ≤ r.size := by have := ho.room; omega
  obtain ⟨-, -, -, -, -, -, -, -, -, h4, h8, h10⟩ := hs
  have hread : readCounts s = ⟨used, live, deleted⟩ := by
    rw [ho.readCounts_eq hsize, ← h4, ← h8, ← h10]
  have hhad : hasText s own = true ↔ HadText s r used outline own := ho.hasText_iff fun i v heq =>
    hstand outline i v (by rw [← heq]; simp)
  have hsaturated := ho.saturatedPrefix_iff (outline, own) fun p i v hp => hstand p i v (List.mem_append_left _ hp)
  unfold storeRefused StoreFits; dsimp only
  rw [hread, List.getLast?_concat, appendedBytes_eq, ← Nat.add_assoc]
  simp only [Option.map_some, Option.getD_some, Bool.or_eq_true, Bool.and_eq_true, decide_eq_true_eq, hsaturated,
    noPlace_iff, Bool.not_eq_true', ← Bool.not_eq_true, hhad]
  unfold createdCount overlaySlots overlayHeapSize absentCount
  rw [← Nat.not_le, ← Nat.not_le]
  tauto

end

/-! ### What stands, by the RAM and the settings alone -/

section
variable {s t : State} {r : Region} (hsettings : t.settings = s.settings) (hram : t.port.ramMem = s.port.ramMem)
include hsettings hram

theorem placed_congr {used i v n : Nat} {k : EntryKind} {o : List KeySet} {text : List Byte}
    (h : Placed s r used i v k o text n) : Placed t r used i v k o text n := by
  unfold Placed slotHolds EntryStands heapPlace at *
  rw [hsettings, hram]; exact h

theorem overlayStands_congr {used live deleted : Nat} (hregions : t.port.regions = s.port.regions)
    (h : OverlayStands s r used live deleted) : OverlayStands t r used live deleted := by
  unfold OverlayStands MemoryPort.region at *
  rw [hsettings, hram, hregions]; exact h

theorem StoreLeft.congr {u : State} {used : Nat} {outline : List KeySet} {text : List Byte}
    {prefixes : List (List KeySet × Found)} {own : Found} {had : Bool}
    (h : StoreLeft u s r used outline text prefixes own had) : StoreLeft u t r used outline text prefixes own had := by
  obtain ⟨hcreated, hkept, n, hkeeps, hown⟩ := h
  exact ⟨fun before p i after hsplit => placed_congr hsettings hram (hcreated before p i after hsplit),
    fun p i v k t' n hp he => placed_congr hsettings hram (hkept p i v k t' n hp he), n, hkeeps,
    placed_congr hsettings hram hown⟩

end

/-! ### The store with what follows it (R96, R98, R106) -/

/-- What a store of a text makes of the overlay, the notes and the translator: t is the part behind it. -/
def StoreMade (s t : State) (r : Region) (used live deleted : Nat) (outline : List KeySet) (text : List Byte)
    (prefixes : List (List KeySet × Found)) (own : Found) (a : Station) : Prop :=
  let had := HadText s r used outline own
  let plan := prefixes ++ [(outline, own)]
  let place := used + prefixBytes prefixes
  let new := place + entrySpan outline text
  OverlayStands t r new (live + absentCount plan) (deleted - (slotsTaken plan).countP (isDeleted s r)) ∧
    (∀ before p i after, prefixes = before ++ (p, Found.absent (some i)) :: after →
      slotHolds t r i = used + prefixBytes before ∧
        ∀ c, (had → c = 0) ∧ (¬ had → c = 1) → EntryStands t r new (used + prefixBytes before) .cont p [] c) ∧
    (∀ p i v k t₀ c, (p, Found.entry i v) ∈ prefixes → EntryStands s r used v k p t₀ c →
      slotHolds t r i = v ∧ (had → EntryStands t r new v k p t₀ c) ∧
        (¬ had → EntryStands t r new v (if k = .cont then .cont else .wordCont) p t₀ (c + 1))) ∧
    (∀ i, own = .absent (some i) → slotHolds t r i = place ∧ EntryStands t r new place .word outline text 0) ∧
    (∀ i v k t₀ c, own = .entry i v → EntryStands s r used v k outline t₀ c →
      slotHolds t r i = place ∧ EntryStands t r new place (if c = 0 then .word else .wordCont) outline text c) ∧
    (∀ x, ¬ (r.base ≤ x ∧ x < r.base + 16) →
      (∀ i, i ∈ slotsTaken plan ∨ (∃ v, own = .entry i v) → ¬ (slotPlace r i ≤ x ∧ x < slotPlace r i + 4)) →
      (∀ p i v k t₀ c, (p, Found.entry i v) ∈ prefixes → EntryStands s r used v k p t₀ c →
        ¬ (heapPlace s r v ≤ x ∧ x < heapPlace s r v + entrySpan p t₀)) →
      ¬ (heapPlace s r used ≤ x ∧ x < heapPlace s r new) →
      Memory.read t.port.ramMem x = Memory.read s.port.ramMem x) ∧
    t.translator.stale = true ∧ OutsideFrame s t ∧ (t.peers, t.inbox) = (s.peers, s.inbox) ∧
    ((∀ u ∈ s.translator.history, u.kind ≠ .untran) →
      Noted s t (.define true (outline.headD 0) (outlineHash outline) outline.length a) ∧
      t.translator = { s.translator with stale := true } ∧ (t.release, t.floor) = (s.release, s.floor))

section
variable {s : State} {r : Region} {used live deleted : Nat} {outline : List KeySet} {text : List Byte}
  {prefixes : List (List KeySet × Found)} {own : Found}

/-- The RAM behind a store is what its writes leave; retranslation changes none of it. -/
theorem stored_ram (a : Station) (outline : List KeySet) (text : List Byte) (s : State) :
    let t := retranslate outline text (storedOnly a outline text s)
    let w := writeStore (storePlan s outline) text s
    t.port.ramMem = w.port.ramMem ∧ t.settings = w.settings ∧ t.port.regions = w.port.regions := by
  intro t w
  have hretranslate := retranslate_act outline text (storedOnly a outline text s)
  have hnote := handNote_act (.define true (outline.headD 0) (outlineHash outline) outline.length a) w
  have hstale : storedOnly a outline text s =
      setStale (handNote (.define true (outline.headD 0) (outlineHash outline) outline.length a) w) := rfl
  refine ⟨hretranslate.ramMem.trans ?_, hretranslate.core.settings.trans ?_, hretranslate.core.regions.trans ?_⟩
  · rw [hstale]; exact hnote.ramMem
  · rw [hstale]; exact hnote.core.settings
  · rw [hstale]; exact hnote.core.regions

/-- Without an untranslate in the history no run is found. -/
theorem retranslate_noUntran (hne : outline ≠ []) (h : ∀ u ∈ s.translator.history, u.kind ≠ .untran) :
    retranslate outline text s = s := by
  refine retranslate_noRun (newestRun_none fun pre run post hsplit hrun => ?_)
  cases run with
  | nil => exact hne (List.eq_nil_of_length_eq_zero hrun.length_eq.symm)
  | cons u us =>
    refine h u (by rw [hsplit]; simp) ?_
    cases outline with
    | nil => exact absurd rfl hne
    | cons k ks =>
      have hfirst := (List.cons.inj hrun).1
      exact congrArg Prod.fst hfirst

/-- What stands behind a store, in the words of its statement. -/
theorem StoreReady.made (hs : OverlayStands s r used live deleted)
    (hready : StoreReady s r used outline text prefixes own)
    (hfits : StoreFits s r used live deleted outline text prefixes own)
    (hplan : storePlan s outline = prefixes ++ [(outline, own)]) (hne : outline ≠ []) (a : Station) :
    StoreMade s (retranslate outline text (storedOnly a outline text s)) r used live deleted outline text prefixes own
      a := by
  obtain ⟨hslots, -, hcount, -⟩ := hfits
  have hown := fun i v (heq : own = .entry i v) => hready.stands outline i v (by rw [← heq]; simp)
  have hhad : hasText s own = true ↔ HadText s r used outline own := hs.opened.hasText_iff hown
  obtain ⟨hchange, hstands, hleft⟩ := hready.writeStore_spec hs (by omega) fun hnot =>
    hcount.resolve_left fun h => by rw [hhad.2 h] at hnot; cases hnot
  rw [← hplan] at hchange hstands hleft
  obtain ⟨hram, hsettings, hregions⟩ := stored_ram a outline text s
  have hleft := hleft.congr hsettings hram
  have hstands := overlayStands_congr hsettings hram hregions hstands
  rw [hplan] at hstands
  have hretranslate := retranslate_act outline text (storedOnly a outline text s)
  have hstored := storedOnly_eq a outline text s
  have hwrites := writeStore_ramOnly (storePlan s outline) text s
  refine ⟨hstands, fun before p i after hsplit => ?_, fun p i v k t₀ c hp he => ?_, fun i heq => ?_,
    fun i v k t₀ c heq he => ?_, fun x hheader htaken hprefix hheap => ?_, ?_, ?_, ?_, fun hnone => ?_⟩
  · obtain ⟨hslot, hentry⟩ := hleft.created before p i after hsplit
    refine ⟨hslot, fun c ⟨hzero, hone⟩ => ?_⟩
    cases hb : hasText s own with
    | true => rw [hzero (hhad.1 hb)]; rwa [hb] at hentry
    | false =>
      rw [hone fun h => by rw [hhad.2 h] at hb; cases hb]; rwa [hb] at hentry
  · obtain ⟨hslot, hentry⟩ := hleft.kept p i v k t₀ c hp he
    refine ⟨hslot, fun h => ?_, fun h => ?_⟩
    · rwa [hhad.2 h] at hentry
    · rwa [Bool.eq_false_iff.2 (mt hhad.1 h)] at hentry
  · obtain ⟨n, ⟨hzero, -⟩, hplaced⟩ := hleft.placed
    rw [heq] at hzero hplaced
    rw [hzero rfl] at hplaced
    exact hplaced
  · obtain ⟨n, ⟨-, hkeeps⟩, hplaced⟩ := hleft.placed
    rw [hkeeps i v k t₀ c heq he, heq] at hplaced
    exact hplaced
  · rw [hram, hplan]
    rw [hplan] at hchange
    refine hchange.outside x ?_
    rintro (hx | (⟨i, hi, hx⟩ | hx) | ⟨p, i, v, k, t, n, hp, he, hx⟩)
    · exact hheader hx
    · exact htaken i hi hx
    · exact hheap hx
    · exact hprefix p i v k t n hp he hx
  · rw [hretranslate.stale, hstored]
  · refine (OverlayAct.trans ?_ hretranslate.toOverlay).outsideFrame
    exact (writeStore_act _ _ s).trans ((handNote_act _ _).toRelease.toOverlay.trans (setStale_act _))
  · rw [hretranslate.core.peers, hretranslate.inbox, hstored]
  · have hsame : retranslate outline text (storedOnly a outline text s) = storedOnly a outline text s :=
      retranslate_noUntran hne (by rw [hstored]; exact hnone)
    rw [hsame]
    refine ⟨?_, by rw [hstored], by rw [hstored]⟩
    exact handNote_noted (.define true (outline.headD 0) (outlineHash outline) outline.length a)
      (s := s) (s' := writeStore (storePlan s outline) text s) (by rw [hwrites])

end

/-! ### The statement -/

/-- Settles O51: the capacity check in the words of the plan, and the writes of the store one behind another. -/
theorem defineIsStoredInTheOverlay : Obligations.DefineIsStoredInTheOverlay := by
  intro s f a r outline text used live deleted prefixes own happlies hne hstands hheap hplan stood had taken place fits
    hprefixes hown
  have hplan' : storePlan (frameEnded f s) outline = prefixes ++ [(outline, own)] :=
    (storePlan_frameEnded f s outline).trans hplan
  have hstands' : OverlayStands (frameEnded f s) r used live deleted := hstands
  have hstand : ∀ p i v, (p, Found.entry i v) ∈ prefixes ++ [(outline, own)] →
      ∃ k t c, EntryStands (frameEnded f s) r used v k p t c := by
    intro p i v hp
    rcases List.mem_append.1 hp with hp | hp
    · exact hprefixes _ hp i v rfl
    · obtain ⟨rfl, heq⟩ := Prod.mk.inj (List.mem_singleton.1 hp)
      exact hown i v heq.symm
  have hrefused := hstands'.storeRefused_iff (text := text) hstand
  have hsame : StoreFits (frameEnded f s) r used live deleted outline text prefixes own ↔ fits := Iff.rfl
  have hmax : s.settings.overlayHeap ≤ 256 := by
    obtain ⟨-, -, -, -, -, hmax, -⟩ := hstands; exact hmax
  have hexec := happlies.arrives
  obtain ⟨-, -, -, -, -, h1, h8, -, h120, -⟩ := happlies
  by_cases hfits : fits
  · have hstored : storeRefused (frameEnded f s) (storePlan (frameEnded f s) outline) outline text.length = false := by
      rw [hplan', Bool.eq_false_iff, Ne, hrefused, not_not]; exact hsame.2 hfits
    rw [applyPeer_stored hne hstored] at hexec
    refine ⟨_, hexec, fun h => absurd hfits h, fun _ => ?_⟩
    obtain ⟨-, hroom, -, hplaces⟩ := id hfits
    have hopened := hstands'.opened
    have hready : StoreReady (frameEnded f s) r used outline text prefixes own :=
      ⟨hopened.at hroom, hmax, hheap, hplan' ▸ storePlan_sound hopened h1 h8, hplaces, hstand, h120⟩
    exact hready.made hstands' (hsame.2 hfits) hplan' (List.ne_nil_of_length_pos h1) a
  · have hstored : storeRefused (frameEnded f s) (storePlan (frameEnded f s) outline) outline text.length = true := by
      rw [hplan', hrefused, hsame]; exact hfits
    rw [applyPeer_refused hne hstored, setFlag_frameEnded] at hexec
    exact ⟨_, hexec, fun _ => rfl, fun h => absurd h hfits⟩

end Sys2Proof.Machine
end
